-- ==== Sys2Proof/Word.lean ====
section
/-! DEFINITION. The word types of the E3 and their plainest arithmetic. -/

namespace Sys2Proof

/-- A byte. -/
abbrev Byte := BitVec 8

/-- A 64-bit register value. -/
abbrev Word := BitVec 64

/-- A 32-bit MMIO register value. -/
abbrev Word32 := BitVec 32

/-- The 64-bit word of a natural number. -/
abbrev w64 (n : Nat) : Word := BitVec.ofNat 64 n

/-- The 32-bit word of a natural number. -/
abbrev w32 (n : Nat) : Word32 := BitVec.ofNat 32 n

/-- One bit as a natural number. -/
def bit (b : Bool) : Nat := if b then 1 else 0

/-- Bits [hi:lo] of a natural number (00_scope.md, the notation table). -/
def bits (n hi lo : Nat) : Nat := (n / 2 ^ lo) % 2 ^ (hi + 1 - lo)

/-- Bit i of a natural number as a Bool. -/
def tbit (n i : Nat) : Bool := (n / 2 ^ i) % 2 == 1

end Sys2Proof
end

