-- ==== Sys2Proof/Syntax.lean ====
section
/-! DEFINITION. The commands of the E3 block: operand types, and Instr with one constructor per row of
spec/opcode_table.json. Instruction commands carry the fields of 04_instruction_set.md and the group tables as raw
bits, so that reserved field values stay expressible and raise what the spec says. Event commands carry what the event
delivers. -/

namespace Sys2Proof

/-- A 6-bit register specifier (R88, Table 4-2); 0x28 to 0x3F are reserved in an integer field. -/
abbrev RSpec := BitVec 6

/-- A strand number (02_strands_windows_registers.md). -/
abbrev StrandId := Fin 4

/-- A privilege level (Table 2-11): codes 0b00, 0b01 and 0b11. -/
inductive Lvl where
  | ul
  | sl
  | ml
  deriving DecidableEq, Repr

/-- Operand format of the floating operations (R106): the opcodes 0x23, 0x24 and 0x25. -/
inductive FFmt where
  | h
  | s
  | d
  deriving DecidableEq, Repr

/-- The words of a group 0x3A operation (R230): the register specifiers Ld, L1, L2 and L3, and TS, MOD and LENM1. -/
structure RillWords where
  ld : RSpec
  l1 : RSpec
  l2 : RSpec
  l3 : RSpec
  ts : Bool
  modf : BitVec 8
  lenm1 : BitVec 16
  deriving DecidableEq, Repr

/-- The words of a group 0x3F instruction (R280). -/
structure VecWords where
  rd : RSpec
  rs1 : RSpec
  rs2 : RSpec
  rs3 : RSpec
  rn : RSpec
  fmt : BitVec 4
  fmtd : BitVec 4
  deriving DecidableEq, Repr

/-- What a snoop from the die network asks of the L2 (R307): a shared copy, or the line taken away. -/
inductive SnoopKind where
  | share
  | inval
  deriving DecidableEq, Repr

/-- A 64-byte flit (Table 15-3): bytes 0 to 3, the CRC in bytes 4 to 7, and the 56 payload bytes. -/
structure Flit where
  hdr : BitVec 32
  crc : BitVec 32
  payload : List Byte
  deriving DecidableEq, Repr

/-- A transport message (Table 15-5): the header's fields and the body. -/
structure FarMsg where
  kind : BitVec 2
  op : BitVec 6
  dstNode : BitVec 14
  dstEp : BitVec 6
  srcNode : BitVec 14
  srcEp : BitVec 6
  len : BitVec 13
  seq : BitVec 32
  sess : BitVec 14
  rcode : BitVec 8
  attr : BitVec 8
  epoch : BitVec 32
  aux : BitVec 32
  addr : BitVec 64
  body : List Byte
  deriving DecidableEq, Repr

/-- A supply rail (R426). -/
inductive Rail where
  | core
  | sram
  | pll
  deriving DecidableEq, Repr

/-- Two consecutive samples of a rail in mV, the earlier first (R426). -/
structure RailSamples where
  rail : Rail
  a : Nat
  b : Nat
  deriving DecidableEq, Repr

/-- A reset kind (Table 18-6), weakest first. -/
inductive ResetKind where
  | debug
  | job
  | warm
  | cold
  deriving DecidableEq, Repr

/-- A requester of the register block (Table 19-4). -/
inductive Req where
  | portA
  | portB
  | tap
  | strand (k : StrandId)
  | near
  deriving DecidableEq, Repr

/-- The serial memory (R435): the bytes of its SFDP area, its bytes that differ from 0xFF (the erased state of NOR), and for 4 KiB blocks, by
address, how many of their next reads will fail (R436, R440). [DESIGN CHOICE, log 111] -/
structure Serial where
  sfdp : List Byte
  flash : List Host.Cell
  faults : List (Nat × Nat)
  deriving DecidableEq, Repr

/-- The gang state of a core (Table 7-14). -/
inductive GangSt where
  | own
  | offered
  | lent
  | master
  | broken
  deriving DecidableEq, Repr

/-- Where bytes that an engine moves lie: the scratchpad, Normal near memory, Uncached and Device addresses (R304). -/
inductive PlKind where
  | sp
  | mem
  | unc
  | dev
  deriving DecidableEq, Repr

/-- Bytes that a tile move reads or writes at one go: n bytes at scratchpad offset or physical address a; va is their virtual address, or past every
address in a member's part of a gang move, which moves its master's data. -/
structure MvPiece where
  pl : PlKind
  a : Nat
  n : Nat
  va : Nat
  deriving DecidableEq, Repr

/-- What a tile move fills or stores: a tile register, a pair of split parts (TLD.X), an accumulator. -/
inductive MvKind where
  | tile
  | split
  | acc
  deriving DecidableEq, Repr

/-- A tile move (R140 to R142, R185): register, tag to set, format, geometry, elements of each row and rows in range, the code of the others, and the
pieces of its rows in order; gang marks the move of a member on behalf of its master. -/
structure MvWords where
  gang : Bool
  store : Bool
  kind : MvKind
  reg : Nat
  tag : Word
  fmt : Nat
  shape : BitVec 2
  els : Nat
  rows : Nat
  fill : Nat
  pieces : List MvPiece
  deriving DecidableEq, Repr

/-- What a gang TMMA or TRET takes from its master (R184): the variant, registers and lengths, the profile, the A tag and the A scales. -/
structure GangTmma where
  zero : Bool
  retire : Bool
  noPass : Bool
  a : Fin 4
  tb : Fin 16
  ksel : Nat
  n : Nat
  k : Nat
  passes : Nat
  prof : BitVec 2
  tagA : Word
  scA : List Byte
  deriving DecidableEq, Repr

/-- A gang operation as a member receives it (R184, R185); rows brings the A registers of the oldest TMMA that still lacks them. -/
inductive GangOp where
  | tmma (p : GangTmma)
  | rows (a : List (List (List Byte)))
  | move (p : MvWords)
  deriving DecidableEq, Repr

/-- What a member reports of a gang TMMA (R184, R189, R225, R228): saturations, flushes, the first non-finite output of its quadrant (row,
column, whether a NaN), and the machine checks it met with INFO; move says that the report is of a TGSTA, which counts nothing. -/
structure GangReport where
  ns : Nat
  nf : Nat
  out : Option (Nat × Nat × Bool)
  faults : List (BitVec 8 × Nat)
  move : Bool
  deriving DecidableEq, Repr

/-- What the gang bus reports of another core of the cluster (20_integration.md, the status word of GB_STI): its gang
state and size, its DVFS point, its governor's permission and operand readiness, the displacements it offered, whether
its B tag equals the master's, whether gang operations are still in progress on it, whether the report follows a reset of that core
(R188), the gang operation that a master hands to this core, and the completion of a gang TMMA on a member.
[DESIGN CHOICE, log 56] -/
structure PartnerWord where
  st : GangSt
  size : BitVec 3
  point : BitVec 2
  permit : Bool
  ready : Bool
  dispB : Word
  dispA : Word
  bTagEq : Bool
  busy : Bool
  reset : Bool
  op : Option GangOp
  rep : Option GangReport
  deriving DecidableEq, Repr

/-- The commands of the E3 block, one constructor per row of spec/opcode_table.json: first the instructions of a strand, then what
happens at the block's boundary and in its engines. Each docstring names the row and the rule of spec/ that the row cites. -/
inductive Instr where
  /-- ADD (R92). -/
  | add (rd : RSpec) (rs1 : RSpec) (rs2 : RSpec)
  /-- SUB (R92). -/
  | sub (rd : RSpec) (rs1 : RSpec) (rs2 : RSpec)
  /-- AND (R92). -/
  | and (rd : RSpec) (rs1 : RSpec) (rs2 : RSpec)
  /-- OR (R92). -/
  | or (rd : RSpec) (rs1 : RSpec) (rs2 : RSpec)
  /-- XOR (R92). -/
  | xor (rd : RSpec) (rs1 : RSpec) (rs2 : RSpec)
  /-- ANDN (R92). -/
  | andn (rd : RSpec) (rs1 : RSpec) (rs2 : RSpec)
  /-- SLL (R92). -/
  | sll (rd : RSpec) (rs1 : RSpec) (rs2 : RSpec)
  /-- SRL (R92). -/
  | srl (rd : RSpec) (rs1 : RSpec) (rs2 : RSpec)
  /-- SRA (R92). -/
  | sra (rd : RSpec) (rs1 : RSpec) (rs2 : RSpec)
  /-- SLT (R92). -/
  | slt (rd : RSpec) (rs1 : RSpec) (rs2 : RSpec)
  /-- SLTU (R92). -/
  | sltu (rd : RSpec) (rs1 : RSpec) (rs2 : RSpec)
  /-- MIN (R92). -/
  | min (rd : RSpec) (rs1 : RSpec) (rs2 : RSpec)
  /-- MAX (R92). -/
  | max (rd : RSpec) (rs1 : RSpec) (rs2 : RSpec)
  /-- MINU (R92). -/
  | minu (rd : RSpec) (rs1 : RSpec) (rs2 : RSpec)
  /-- MAXU (R92). -/
  | maxu (rd : RSpec) (rs1 : RSpec) (rs2 : RSpec)
  /-- MUL (R92). -/
  | mul (rd : RSpec) (rs1 : RSpec) (rs2 : RSpec)
  /-- MULX_SS (R92). -/
  | mulxSs (rd : RSpec) (rs1 : RSpec) (rs2 : RSpec)
  /-- MULX_UU (R92). -/
  | mulxUu (rd : RSpec) (rs1 : RSpec) (rs2 : RSpec)
  /-- MULX_SU (R92). -/
  | mulxSu (rd : RSpec) (rs1 : RSpec) (rs2 : RSpec)
  /-- DIV (R93). -/
  | div (rd : RSpec) (rs1 : RSpec) (rs2 : RSpec)
  /-- DIVU (R93). -/
  | divu (rd : RSpec) (rs1 : RSpec) (rs2 : RSpec)
  /-- REM (R93). -/
  | rem (rd : RSpec) (rs1 : RSpec) (rs2 : RSpec)
  /-- REMU (R93). -/
  | remu (rd : RSpec) (rs1 : RSpec) (rs2 : RSpec)
  /-- CLZ (R92). -/
  | clz (rd : RSpec) (rs1 : RSpec)
  /-- CTZ (R92). -/
  | ctz (rd : RSpec) (rs1 : RSpec)
  /-- POPC (R92). -/
  | popc (rd : RSpec) (rs1 : RSpec)
  /-- PERMB (R95). -/
  | permb (rd : RSpec) (rs1 : RSpec) (rs2 : RSpec) (len : BitVec 3)
  /-- ADDI (R92). -/
  | addi (rd : RSpec) (rs1 : RSpec) (imm : BitVec 14)
  /-- ANDI (R92). -/
  | andi (rd : RSpec) (rs1 : RSpec) (imm : BitVec 14)
  /-- ORI (R92). -/
  | ori (rd : RSpec) (rs1 : RSpec) (imm : BitVec 14)
  /-- XORI (R92). -/
  | xori (rd : RSpec) (rs1 : RSpec) (imm : BitVec 14)
  /-- SLTI (R92). -/
  | slti (rd : RSpec) (rs1 : RSpec) (imm : BitVec 14)
  /-- SLTIU (R92). -/
  | sltiu (rd : RSpec) (rs1 : RSpec) (imm : BitVec 14)
  /-- SLLI (R89). -/
  | slli (rd : RSpec) (rs1 : RSpec) (amt : BitVec 6)
  /-- SRLI (R89). -/
  | srli (rd : RSpec) (rs1 : RSpec) (amt : BitVec 6)
  /-- SRAI (R89). -/
  | srai (rd : RSpec) (rs1 : RSpec) (amt : BitVec 6)
  /-- LUI (R92). -/
  | lui (rd : RSpec) (imm : BitVec 20)
  /-- AUIPC (R92). -/
  | auipc (rd : RSpec) (imm : BitVec 20)
  /-- LIW (R91). -/
  | liw (rd : RSpec) (imm : BitVec 32)
  /-- LIH (R91). -/
  | lih (rd : RSpec) (imm : BitVec 32)
  /-- ADDIX (R91). -/
  | addix (rd : RSpec) (rs1 : RSpec) (imm : BitVec 32)
  /-- BFEXT (R94). -/
  | bfext (rd : RSpec) (rs1 : RSpec) (pos : BitVec 6) (lenm1 : BitVec 6)
  /-- BFEXT_S (R94). -/
  | bfextS (rd : RSpec) (rs1 : RSpec) (pos : BitVec 6) (lenm1 : BitVec 6)
  /-- BFINS (R94). -/
  | bfins (rd : RSpec) (rs1 : RSpec) (pos : BitVec 6) (lenm1 : BitVec 6)
  /-- JMP (R96). -/
  | jmp (off : BitVec 26)
  /-- CALL (R96). -/
  | call (off : BitVec 26)
  /-- JMPR (R96). -/
  | jmpr (rd : RSpec) (rs1 : RSpec) (imm : BitVec 14)
  /-- CALLR (R96). -/
  | callr (rs1 : RSpec) (imm : BitVec 14)
  /-- BR (R96). -/
  | br (rs1 : RSpec) (rs2 : RSpec) (cond : BitVec 3) (off : BitVec 11)
  /-- BRZ (R96). -/
  | brz (rs1 : RSpec) (cond : BitVec 3) (off : BitVec 17)
  /-- RET (R96). -/
  | ret
  /-- LB (R98). -/
  | lb (rd : RSpec) (rs1 : RSpec) (imm : BitVec 14)
  /-- LBU (R98). -/
  | lbu (rd : RSpec) (rs1 : RSpec) (imm : BitVec 14)
  /-- LH (R98). -/
  | lh (rd : RSpec) (rs1 : RSpec) (imm : BitVec 14)
  /-- LHU (R98). -/
  | lhu (rd : RSpec) (rs1 : RSpec) (imm : BitVec 14)
  /-- LW (R98). -/
  | lw (rd : RSpec) (rs1 : RSpec) (imm : BitVec 14)
  /-- LWU (R98). -/
  | lwu (rd : RSpec) (rs1 : RSpec) (imm : BitVec 14)
  /-- LD (R98). -/
  | ld (rd : RSpec) (rs1 : RSpec) (imm : BitVec 14)
  /-- SB (R98). -/
  | sb (rs2 : RSpec) (rs1 : RSpec) (imm : BitVec 14)
  /-- SH (R98). -/
  | sh (rs2 : RSpec) (rs1 : RSpec) (imm : BitVec 14)
  /-- SW (R98). -/
  | sw (rs2 : RSpec) (rs1 : RSpec) (imm : BitVec 14)
  /-- SD (R98). -/
  | sd (rs2 : RSpec) (rs1 : RSpec) (imm : BitVec 14)
  /-- FLH (R98). -/
  | flh (rd : RSpec) (rs1 : RSpec) (imm : BitVec 14)
  /-- FLW (R98). -/
  | flw (rd : RSpec) (rs1 : RSpec) (imm : BitVec 14)
  /-- FLD (R98). -/
  | fld (rd : RSpec) (rs1 : RSpec) (imm : BitVec 14)
  /-- FSH (R98). -/
  | fsh (rs2 : RSpec) (rs1 : RSpec) (imm : BitVec 14)
  /-- FSW (R98). -/
  | fsw (rs2 : RSpec) (rs1 : RSpec) (imm : BitVec 14)
  /-- FSD (R98). -/
  | fsd (rs2 : RSpec) (rs1 : RSpec) (imm : BitVec 14)
  /-- AMO_SWAP (R101). -/
  | amoSwap (rd : RSpec) (rs1 : RSpec) (rs2 : RSpec) (d : Bool) (aq : Bool) (rl : Bool)
  /-- AMO_ADD (R101). -/
  | amoAdd (rd : RSpec) (rs1 : RSpec) (rs2 : RSpec) (d : Bool) (aq : Bool) (rl : Bool)
  /-- AMO_AND (R101). -/
  | amoAnd (rd : RSpec) (rs1 : RSpec) (rs2 : RSpec) (d : Bool) (aq : Bool) (rl : Bool)
  /-- AMO_OR (R101). -/
  | amoOr (rd : RSpec) (rs1 : RSpec) (rs2 : RSpec) (d : Bool) (aq : Bool) (rl : Bool)
  /-- AMO_XOR (R101). -/
  | amoXor (rd : RSpec) (rs1 : RSpec) (rs2 : RSpec) (d : Bool) (aq : Bool) (rl : Bool)
  /-- AMO_MIN (R101). -/
  | amoMin (rd : RSpec) (rs1 : RSpec) (rs2 : RSpec) (d : Bool) (aq : Bool) (rl : Bool)
  /-- AMO_MAX (R101). -/
  | amoMax (rd : RSpec) (rs1 : RSpec) (rs2 : RSpec) (d : Bool) (aq : Bool) (rl : Bool)
  /-- AMO_MINU (R101). -/
  | amoMinu (rd : RSpec) (rs1 : RSpec) (rs2 : RSpec) (d : Bool) (aq : Bool) (rl : Bool)
  /-- AMO_MAXU (R101). -/
  | amoMaxu (rd : RSpec) (rs1 : RSpec) (rs2 : RSpec) (d : Bool) (aq : Bool) (rl : Bool)
  /-- AMO_CAS (R101). -/
  | amoCas (rd : RSpec) (rs1 : RSpec) (rs2 : RSpec) (d : Bool) (aq : Bool) (rl : Bool)
  /-- AMO_FADD_S (R101). -/
  | amoFaddS (rd : RSpec) (rs1 : RSpec) (rs2 : RSpec) (d : Bool) (aq : Bool) (rl : Bool)
  /-- FADD (R106). -/
  | fadd (fmt : FFmt) (rd : RSpec) (rs1 : RSpec) (rs2 : RSpec) (rm : BitVec 3)
  /-- FSUB (R106). -/
  | fsub (fmt : FFmt) (rd : RSpec) (rs1 : RSpec) (rs2 : RSpec) (rm : BitVec 3)
  /-- FMUL (R106). -/
  | fmul (fmt : FFmt) (rd : RSpec) (rs1 : RSpec) (rs2 : RSpec) (rm : BitVec 3)
  /-- FDIV (R107). -/
  | fdiv (fmt : FFmt) (rd : RSpec) (rs1 : RSpec) (rs2 : RSpec) (rm : BitVec 3)
  /-- FSQRT (R107). -/
  | fsqrt (fmt : FFmt) (rd : RSpec) (rs1 : RSpec) (rm : BitVec 3)
  /-- FMIN (R106). -/
  | fmin (fmt : FFmt) (rd : RSpec) (rs1 : RSpec) (rs2 : RSpec) (rm : BitVec 3)
  /-- FMAX (R106). -/
  | fmax (fmt : FFmt) (rd : RSpec) (rs1 : RSpec) (rs2 : RSpec) (rm : BitVec 3)
  /-- FMINM (R106). -/
  | fminm (fmt : FFmt) (rd : RSpec) (rs1 : RSpec) (rs2 : RSpec) (rm : BitVec 3)
  /-- FMAXM (R106). -/
  | fmaxm (fmt : FFmt) (rd : RSpec) (rs1 : RSpec) (rs2 : RSpec) (rm : BitVec 3)
  /-- FSGNJ (R106). -/
  | fsgnj (fmt : FFmt) (rd : RSpec) (rs1 : RSpec) (rs2 : RSpec) (rm : BitVec 3)
  /-- FSGNJN (R106). -/
  | fsgnjn (fmt : FFmt) (rd : RSpec) (rs1 : RSpec) (rs2 : RSpec) (rm : BitVec 3)
  /-- FSGNJX (R106). -/
  | fsgnjx (fmt : FFmt) (rd : RSpec) (rs1 : RSpec) (rs2 : RSpec) (rm : BitVec 3)
  /-- FEQ (R106). -/
  | feq (fmt : FFmt) (rd : RSpec) (rs1 : RSpec) (rs2 : RSpec) (rm : BitVec 3)
  /-- FLT (R106). -/
  | flt (fmt : FFmt) (rd : RSpec) (rs1 : RSpec) (rs2 : RSpec) (rm : BitVec 3)
  /-- FLE (R106). -/
  | fle (fmt : FFmt) (rd : RSpec) (rs1 : RSpec) (rs2 : RSpec) (rm : BitVec 3)
  /-- FLTQ (R106). -/
  | fltq (fmt : FFmt) (rd : RSpec) (rs1 : RSpec) (rs2 : RSpec) (rm : BitVec 3)
  /-- FLEQ (R106). -/
  | fleq (fmt : FFmt) (rd : RSpec) (rs1 : RSpec) (rs2 : RSpec) (rm : BitVec 3)
  /-- FCLASS (R106). -/
  | fclass (fmt : FFmt) (rd : RSpec) (rs1 : RSpec) (rm : BitVec 3)
  /-- FCVT_L (R107). -/
  | fcvtL (fmt : FFmt) (rd : RSpec) (rs1 : RSpec) (rm : BitVec 3)
  /-- FCVT_LU (R107). -/
  | fcvtLu (fmt : FFmt) (rd : RSpec) (rs1 : RSpec) (rm : BitVec 3)
  /-- FCVTF_L (R106). -/
  | fcvtfL (fmt : FFmt) (rd : RSpec) (rs1 : RSpec) (rm : BitVec 3)
  /-- FCVTF_LU (R106). -/
  | fcvtfLu (fmt : FFmt) (rd : RSpec) (rs1 : RSpec) (rm : BitVec 3)
  /-- FCVT_H (R107). -/
  | fcvtH (fmt : FFmt) (rd : RSpec) (rs1 : RSpec) (rm : BitVec 3)
  /-- FCVT_S (R107). -/
  | fcvtS (fmt : FFmt) (rd : RSpec) (rs1 : RSpec) (rm : BitVec 3)
  /-- FCVT_D (R107). -/
  | fcvtD (fmt : FFmt) (rd : RSpec) (rs1 : RSpec) (rm : BitVec 3)
  /-- FRINT (R106). -/
  | frint (fmt : FFmt) (rd : RSpec) (rs1 : RSpec) (rm : BitVec 3)
  /-- FRINTX (R106). -/
  | frintx (fmt : FFmt) (rd : RSpec) (rs1 : RSpec) (rm : BitVec 3)
  /-- FREM (R107). -/
  | frem (fmt : FFmt) (rd : RSpec) (rs1 : RSpec) (rs2 : RSpec) (rm : BitVec 3)
  /-- FMV_XF (R106). -/
  | fmvXf (fmt : FFmt) (rd : RSpec) (rs1 : RSpec) (rm : BitVec 3)
  /-- FMV_FX (R106). -/
  | fmvFx (fmt : FFmt) (rd : RSpec) (rs1 : RSpec) (rm : BitVec 3)
  /-- FMADD (R108). -/
  | fmadd (fmt : BitVec 2) (rd : RSpec) (rs1 : RSpec) (rs2 : RSpec) (rs3 : RSpec)
  /-- FMSUB (R108). -/
  | fmsub (fmt : BitVec 2) (rd : RSpec) (rs1 : RSpec) (rs2 : RSpec) (rs3 : RSpec)
  /-- FNMADD (R108). -/
  | fnmadd (fmt : BitVec 2) (rd : RSpec) (rs1 : RSpec) (rs2 : RSpec) (rs3 : RSpec)
  /-- FNMSUB (R108). -/
  | fnmsub (fmt : BitVec 2) (rd : RSpec) (rs1 : RSpec) (rs2 : RSpec) (rs3 : RSpec)
  /-- EVRET (R71). -/
  | evret
  /-- GATE (R77). -/
  | gate (n : BitVec 10)
  /-- BRK (R73). -/
  | brk (imm : BitVec 10)
  /-- SYNC_C (R111). -/
  | syncC
  /-- SYNC_I (R112). -/
  | syncI
  /-- FENCE (R103). -/
  | fence
  /-- FENCE_F (R104). -/
  | fenceF
  /-- WSPILL (R51). -/
  | wspill
  /-- WFILL (R51). -/
  | wfill (lv : BitVec 2)
  /-- MFC (R109). -/
  | mfc (rg : RSpec) (creg : BitVec 12)
  /-- MTC (R109). -/
  | mtc (rg : RSpec) (creg : BitVec 12)
  /-- LOOP (R114). -/
  | loopI (rs1 : RSpec) (len : BitVec 12)
  /-- LBRK (R116). -/
  | lbrk
  /-- TLD (R140). -/
  | tld (t : BitVec 4) (rb : RSpec) (rs : RSpec) (fmt : BitVec 4) (bs : Bool) (bsz : BitVec 2) (bdir : Bool) (soff : BitVec 16)
  /-- TST (R142). -/
  | tst (t : BitVec 4) (rb : RSpec) (rs : RSpec)
  /-- TLD_X (R170). -/
  | tldX (t : BitVec 4) (rb : RSpec) (rs : RSpec)
  /-- TLDA (R140). -/
  | tlda (a : BitVec 2) (rb : RSpec) (rs : RSpec) (int : Bool)
  /-- TSTA (R142). -/
  | tsta (a : BitVec 2) (rb : RSpec) (rs : RSpec)
  /-- TZERO (R136). -/
  | tzero (n : BitVec 4) (acc : Bool)
  /-- TTAGW (R137). -/
  | ttagw (n : BitVec 4) (acc : Bool) (rs1 : RSpec)
  /-- TTAGR (R144). -/
  | ttagr (rd : RSpec) (n : BitVec 4) (acc : Bool)
  /-- TSAVE (R155). -/
  | tsave (lv : BitVec 2)
  /-- TDET (R156). -/
  | tdet (lv : BitVec 2)
  /-- TATT (R157). -/
  | tatt (lv : BitVec 2) (rs1 : RSpec)
  /-- TREL (R158). -/
  | trel
  /-- TINFO (R159). -/
  | tinfo (rd : RSpec) (lv : BitVec 2)
  /-- TMMA (R167). -/
  | tmma (a : BitVec 2) (ta : BitVec 4) (tb : BitVec 4) (ksel : BitVec 2) (klen : BitVec 9)
  /-- TMMA_Z (R167). -/
  | tmmaZ (a : BitVec 2) (ta : BitVec 4) (tb : BitVec 4) (ksel : BitVec 2) (klen : BitVec 9)
  /-- TMMA_R (R172). -/
  | tmmaR (a : BitVec 2) (ta : BitVec 4) (tb : BitVec 4) (ksel : BitVec 2) (klen : BitVec 9)
  /-- TMMA_ZR (R172). -/
  | tmmaZr (a : BitVec 2) (ta : BitVec 4) (tb : BitVec 4) (ksel : BitVec 2) (klen : BitVec 9)
  /-- TRET (R173). -/
  | tret (a : BitVec 2)
  /-- TLEND (R182). -/
  | tlend (rs1 : RSpec) (rs2 : RSpec) (sz : BitVec 2)
  /-- TRECALL (R188). -/
  | trecall
  /-- TGANG (R183). -/
  | tgang (sz : BitVec 2)
  /-- TUNGANG (R187). -/
  | tungang
  /-- TGLD (R185). -/
  | tgld (t : BitVec 4) (rb : RSpec) (rs : RSpec) (fmt : BitVec 4) (bs : Bool) (bsz : BitVec 2) (bdir : Bool) (soff : BitVec 16)
  /-- TGLDA (R185). -/
  | tglda (a : BitVec 2) (rb : RSpec) (rs : RSpec) (int : Bool)
  /-- TGSTA (R185). -/
  | tgsta (a : BitVec 2) (rb : RSpec) (rs : RSpec)
  /-- RILL_MOV (R234). -/
  | rillMov (w : RillWords)
  /-- RILL_ADD (R234). -/
  | rillAdd (w : RillWords)
  /-- RILL_SUB (R234). -/
  | rillSub (w : RillWords)
  /-- RILL_MUL (R234). -/
  | rillMul (w : RillWords)
  /-- EPI (R235). -/
  | epi (w : RillWords)
  /-- RILL_MIN (R234). -/
  | rillMin (w : RillWords)
  /-- RILL_MAX (R234). -/
  | rillMax (w : RillWords)
  /-- ABS (R234). -/
  | abs (w : RillWords)
  /-- NEG (R234). -/
  | neg (w : RillWords)
  /-- CMPEQ (R237). -/
  | cmpeq (w : RillWords)
  /-- CMPLT (R237). -/
  | cmplt (w : RillWords)
  /-- CMPLE (R237). -/
  | cmple (w : RillWords)
  /-- SEL (R237). -/
  | selI (w : RillWords)
  /-- RCP (R236). -/
  | rcp (w : RillWords)
  /-- SQRT (R236). -/
  | sqrt (w : RillWords)
  /-- RSQRT (R236). -/
  | rsqrt (w : RillWords)
  /-- EXP2 (R236). -/
  | exp2 (w : RillWords)
  /-- LOG2 (R236). -/
  | log2 (w : RillWords)
  /-- EXP (R236). -/
  | exp (w : RillWords)
  /-- TANH (R236). -/
  | tanh (w : RillWords)
  /-- SIGM (R236). -/
  | sigm (w : RillWords)
  /-- RILL_AND (R238). -/
  | rillAnd (w : RillWords)
  /-- RILL_OR (R238). -/
  | rillOr (w : RillWords)
  /-- RILL_XOR (R238). -/
  | rillXor (w : RillWords)
  /-- RILL_ANDN (R238). -/
  | rillAndn (w : RillWords)
  /-- RILL_NOT (R238). -/
  | rillNot (w : RillWords)
  /-- SHL (R238). -/
  | shl (w : RillWords)
  /-- SHRL (R238). -/
  | shrl (w : RillWords)
  /-- SHRA (R238). -/
  | shra (w : RillWords)
  /-- ADDW (R238). -/
  | addw (w : RillWords)
  /-- SUBW (R238). -/
  | subw (w : RillWords)
  /-- MULW (R238). -/
  | mulw (w : RillWords)
  /-- PERM (R239). -/
  | perm (w : RillWords)
  /-- RPERM (R239). -/
  | rperm (w : RillWords)
  /-- TRN (R239). -/
  | trn (w : RillWords)
  /-- MOVC (R239). -/
  | movc (w : RillWords)
  /-- RRED (R247). -/
  | rred (w : RillWords)
  /-- CRED_SUM (R250). -/
  | credSum (w : RillWords)
  /-- CRED_MAX (R250). -/
  | credMax (w : RillWords)
  /-- CRED_MIN (R250). -/
  | credMin (w : RillWords)
  /-- CRED_AMAX (R250). -/
  | credAmax (w : RillWords)
  /-- CRED_SSQ (R250). -/
  | credSsq (w : RillWords)
  /-- CRED_CNZ (R250). -/
  | credCnz (w : RillWords)
  /-- CINIT (R251). -/
  | cinit (w : RillWords)
  /-- CDRAIN (R251). -/
  | cdrain (w : RillWords)
  /-- RDROP (R245). -/
  | rdrop
  /-- RSUM (R253). -/
  | rsum (rd : RSpec) (sel : Bool)
  /-- DLD (R263). -/
  | dld (d : BitVec 6) (rs1 : RSpec)
  /-- DST (R263). -/
  | dst (d : BitVec 6) (rs1 : RSpec)
  /-- DINV (R263). -/
  | dinv (d : BitVec 6)
  /-- DSCH (R268). -/
  | dsch (rs1 : RSpec) (nsm1 : BitVec 6) (dbase : BitVec 6) (dcntm1 : BitVec 6)
  /-- DSTAT (R279). -/
  | dstat (rd : RSpec) (lv : BitVec 2) (sel : BitVec 2)
  /-- DKILL (R278). -/
  | dkill (lv : BitVec 2)
  /-- VADD (R280). -/
  | vadd (v : VecWords)
  /-- VSUB (R280). -/
  | vsub (v : VecWords)
  /-- VMUL (R280). -/
  | vmul (v : VecWords)
  /-- VFMA (R280). -/
  | vfma (v : VecWords)
  /-- VMIN (R280). -/
  | vmin (v : VecWords)
  /-- VMAX (R280). -/
  | vmax (v : VecWords)
  /-- VCVT (R280). -/
  | vcvt (v : VecWords)
  /-- VRELU (R280). -/
  | vrelu (v : VecWords)
  /-- WGO (R292). -/
  | wgo (n : BitVec 2) (rs1 : RSpec)
  /-- WSTAT (R291). -/
  | wstat (rd : RSpec) (n : BitVec 2) (sel : BitVec 2)
  /-- WKILL (R298). -/
  | wkill (n : BitVec 2)
  /-- CFLUSH (R316). -/
  | cflush (rs1 : RSpec) (imm : BitVec 32)
  /-- CCLEAN (R316). -/
  | cclean (rs1 : RSpec) (imm : BitVec 32)
  /-- CINV (R316). -/
  | cinv (rs1 : RSpec) (imm : BitVec 32)
  /-- CPRE (R317). -/
  | cpre (rs1 : RSpec) (imm : BitVec 32)
  /-- CFDROP (R316). -/
  | cfdrop
  /-- FTLBW (R340). -/
  | ftlbw
  /-- FTLBR (R340). -/
  | ftlbr
  /-- FTLBI (R341). -/
  | ftlbi (m : BitVec 2) (rs1 : RSpec)
  /-- NTLBI (R336). -/
  | ntlbi (m : BitVec 2) (rs1 : RSpec)
  /-- FRED (R361). -/
  | fred (rs1 : RSpec) (rs2 : RSpec) (rs3 : RSpec)
  /-- RWCFG (R362). -/
  | rwcfg (w : BitVec 6) (rs1 : RSpec)
  /-- RWSTAT (R363). -/
  | rwstat (rd : RSpec) (w : BitVec 6) (sel : BitVec 2)
  /-- RWKILL (R360). -/
  | rwkill (w : BitVec 6)
  /-- QPUSH (R380). -/
  | qpush (rs1 : RSpec) (rs2 : RSpec) (rs3 : RSpec)
  /-- QPOP (R379). -/
  | qpop (rd : RSpec) (rs1 : RSpec)
  /-- QTRY (R379). -/
  | qtry (rd : RSpec) (rs1 : RSpec)
  /-- QREL (R379). -/
  | qrel (rs1 : RSpec)
  /-- QFLUSH (R385). -/
  | qflush (rs1 : RSpec)
  /-- QCFG (R382). -/
  | qcfg (rs1 : RSpec) (rs2 : RSpec)
  /-- QSTAT (R378). -/
  | qstat (rd : RSpec) (rs1 : RSpec)
  /-- EVENT_ENTRY (R481). -/
  | eventEntry
  /-- STRAND_SWITCH (R37). -/
  | strandSwitch
  /-- BANK_CLAIM (R147). -/
  | bankClaim
  /-- LAZY_SAVE_COMPLETE (R148). -/
  | lazySaveComplete
  /-- LAZY_RESTORE_COMPLETE (R149). -/
  | lazyRestoreComplete
  /-- PASS_START (R163). -/
  | passStart
  /-- PASS_COMPLETE (R192). -/
  | passComplete
  /-- RUNNEL_RETIREMENT (R172). -/
  | runnelRetirement
  /-- GOVERNOR_WINDOW (R176). -/
  | governorWindow
  /-- GANG_FORMED (R183). -/
  | gangFormed
  /-- RILL_OP_COMPLETE (R258). -/
  | rillOpComplete
  /-- CISTERN_OP_COMPLETE (R258). -/
  | cisternOpComplete
  /-- RUNNEL_ENTRY_FREED (R258). -/
  | runnelEntryFreed
  /-- CHAIN_STEP_ISSUE (R272). -/
  | chainStepIssue (k : StrandId) (lv : Lvl)
  /-- CHAIN_END (R279). -/
  | chainEnd (k : StrandId) (lv : Lvl)
  /-- WEEVIL_PIECE_ISSUE (R294). -/
  | weevilPieceIssue (n : BitVec 2)
  /-- WEEVIL_PIECE_COMPLETE (R294). -/
  | weevilPieceComplete (n : BitVec 2) (piece : Nat)
  /-- WEEVIL_DONE (R299). -/
  | weevilDone (n : BitVec 2)
  /-- L2_FILL (R310). -/
  | l2Fill (pa : BitVec 52) (excl : Bool) (poison : Bool) (err : Bool) (data : List Byte)
  /-- UNCACHED_READ_DATA (R306). -/
  | uncachedReadData (k : StrandId) (data : BitVec 64) (err : Bool)
  /-- SNOOP (R307). -/
  | snoop (pa : BitVec 52) (kind : SnoopKind)
  /-- WRITE_ACK (R312). -/
  | writeAck (pa : BitVec 52)
  /-- PREFETCH_REQUEST (R313). -/
  | prefetchRequest (tr : BitVec 4)
  /-- STREAM_RUN_TIMEOUT (R315). -/
  | streamRunTimeout (tr : BitVec 4)
  /-- WAY_CLEAN_DONE (R319). -/
  | wayCleanDone (way : BitVec 4)
  /-- WAY_POWER_UP (R319). -/
  | wayPowerUp (way : BitVec 4)
  /-- ERROR_COUNT_WINDOW (R322). -/
  | errorCountWindow
  /-- CACHE_CMD_CLEAN (R323). -/
  | cacheCmdClean
  /-- CACHE_CMD_CLEAN_INV (R323). -/
  | cacheCmdCleanInv
  /-- CACHE_CMD_DROP_FAR (R323). -/
  | cacheCmdDropFar
  /-- CACHE_CMD_DONE (R323). -/
  | cacheCmdDone
  /-- L2PWR_WRITE (R319). -/
  | l2pwrWrite (v : BitVec 32)
  /-- L2LOCK_WRITE (R318). -/
  | l2lockWrite (v : BitVec 32)
  /-- NTLBI_REQUEST_RECEIVED (R336). -/
  | ntlbiRequestReceived (m : BitVec 2) (asid : BitVec 16) (va : BitVec 64)
  /-- NTLBI_COMPLETION (R467). -/
  | ntlbiCompletion
  /-- QUEUE_ITEM_POPPABLE (R378). -/
  | queueItemPoppable (q : BitVec 20)
  /-- DEFERRED_CHAIN_START (R386). -/
  | deferredChainStart (q : BitVec 20)
  /-- FWD_RESPONSE (R387). -/
  | fwdResponse (q : BitVec 20) (code : BitVec 8)
  /-- DESCRIPTOR_FETCH (R376). -/
  | descriptorFetch (q : BitVec 20)
  /-- DATA_FLIT_RECEIVED (R351). -/
  | dataFlitReceived (f : Flit)
  /-- IDLE_FLIT_RECEIVED (R351). -/
  | idleFlitReceived (f : Flit)
  /-- CREDIT_FLIT_RECEIVED (R352). -/
  | creditFlitReceived (f : Flit)
  /-- NACK_FLIT_RECEIVED (R351). -/
  | nackFlitReceived (f : Flit)
  /-- INIT_FLIT_RECEIVED (R353). -/
  | initFlitReceived (f : Flit)
  /-- IDLE_SEND_TIMER (R351). -/
  | idleSendTimer
  /-- REPLAY_TIMEOUT (R351). -/
  | replayTimeout
  /-- NACK_RESEND_TIMER (R351). -/
  | nackResendTimer
  /-- LINKUP_RISE (R351). -/
  | linkupRise (ldly : BitVec 16)
  /-- RETRAIN_TIMEOUT (R351). -/
  | retrainTimeout
  /-- FLD_REQUEST (R347). -/
  | fldRequest (m : FarMsg)
  /-- FST_REQUEST (R347). -/
  | fstRequest (m : FarMsg)
  /-- FAMO_REQUEST (R347). -/
  | famoRequest (m : FarMsg)
  /-- QPUSH_REQUEST (R380). -/
  | qpushRequest (m : FarMsg)
  /-- RED_REQUEST (R363). -/
  | redRequest (m : FarMsg)
  /-- SOPEN (R355). -/
  | sopen (m : FarMsg)
  /-- SCLOSE (R355). -/
  | sclose (m : FarMsg)
  /-- SESSION_RECORD_FILL (R358). -/
  | sessionRecordFill (sess : BitVec 14)
  /-- FAR_RESPONSE (R360). -/
  | farResponse (m : FarMsg)
  /-- RETRANSMIT_TIMEOUT (R356). -/
  | retransmitTimeout (req : Nat)
  /-- WINDOW_WATCHDOG (R365). -/
  | windowWatchdog (w : BitVec 6)
  /-- JOIN (R367). -/
  | join (m : FarMsg)
  /-- JOINRSP (R366). -/
  | joinrsp (m : FarMsg)
  /-- JOIN_RETRY_TIMER (R366). -/
  | joinRetryTimer
  /-- TSYNC_SEND (R370). -/
  | tsyncSend
  /-- TSYNC (R370). -/
  | tsync (m : FarMsg)
  /-- ABORT (R371). -/
  | abort (m : FarMsg)
  /-- JOB_ABORT_IN (R404). -/
  | jobAbortIn
  /-- FIREFLY_L2_STEP (R396). -/
  | fireflyL2Step
  /-- FIREFLY_SP_STEP (R396). -/
  | fireflySpStep
  /-- CKCMD_GO (R408). -/
  | ckcmdGo (banks : BitVec 2)
  /-- CHECKPOINT_DRAIN_DONE (R409). -/
  | checkpointDrainDone
  /-- CHECKPOINT_BODY_ACKED (R411). -/
  | checkpointBodyAcked
  /-- CHECKPOINT_DONE (R411). -/
  | checkpointDone
  /-- ECLR_FATAL (R400). -/
  | eclrFatal
  /-- ECLR_CORR (R399). -/
  | eclrCorr
  /-- ABREQ (R403). -/
  | abreq
  /-- DVFS_WRITE (R418). -/
  | dvfsWrite (point : BitVec 2)
  /-- VOLTAGE_SETTLED (R418). -/
  | voltageSettled
  /-- RELOCK (R419). -/
  | relock
  /-- C1_ENTRY (R417). -/
  | c1Entry
  /-- C2_ENTRY (R421). -/
  | c2Entry
  /-- C2_POWER_UP (R421). -/
  | c2PowerUp
  /-- CREQ_C3 (R423). -/
  | creqC3
  /-- CREQ_C4 (R424). -/
  | creqC4
  /-- CREQ_WAKE (R423). -/
  | creqWake
  /-- C3_WAKE (R423). -/
  | c3Wake
  /-- SUPPLY_WARNING: two consecutive samples of a rail (R426, R427). -/
  | supplyWarning (rail : RailSamples)
  /-- SUPPLY_RECOVERY (R428). -/
  | supplyRecovery
  /-- SUPPLY_RESET_THRESHOLD: two consecutive samples of a rail (R426, R429). -/
  | supplyResetThreshold (rail : RailSamples)
  /-- COLD_RESET (R430). -/
  | coldReset (ser : Serial)
  /-- WARM_RESET (R431). -/
  | warmReset
  /-- JOB_RESET (R389). -/
  | jobReset
  /-- DEBUG_RESET (R432). -/
  | debugReset
  /-- RESET_REQUEST_INPUT (R476). -/
  | resetRequestInput (kind : ResetKind)
  /-- RSTREQ_WARM (R430). -/
  | rstreqWarm
  /-- RSTREQ_JOB (R430). -/
  | rstreqJob
  /-- RSTREQ_DEBUG (R430). -/
  | rstreqDebug
  /-- PFW_FAULT (R425). -/
  | pfwFault
  /-- DEFECT_WRITE_BACK (R440). -/
  | defectWriteBack
  /-- WB_NOW (R440). -/
  | wbNow
  /-- DIE_INTERRUPT_LINE (R75). -/
  | dieInterruptLine (n : BitVec 5) (level : Bool)
  /-- STRAND_TIMER (R75). -/
  | strandTimer (n : StrandId)
  /-- SWSET (R75). -/
  | swset (vec : BitVec 8)
  /-- TCMP_WRITE (R75). -/
  | tcmpWrite (n : StrandId) (hi : Bool) (v : BitVec 32)
  /-- HOLD_WRITE (R44). -/
  | holdWrite (v : BitVec 4)
  /-- STRDBG_ACCESS (R57). -/
  | strdbgAccess (req : Req) (we : Bool) (hi : Bool) (v : BitVec 32)
  /-- JREQ (R366). -/
  | jreq (req : Req)
  /-- SEM_READ (R452). -/
  | semRead (req : Req) (n : BitVec 5)
  /-- SEM_WRITE (R452). -/
  | semWrite (req : Req) (n : BitVec 5) (v : BitVec 32)
  /-- DBIN (R455). -/
  | dbin (v : BitVec 32)
  /-- DBOUT (R455). -/
  | dbout (v : BitVec 32)
  /-- CYCLO_READ (R456). -/
  | cycloRead (req : Req)
  /-- GTLO_READ (R456). -/
  | gtloRead (req : Req)
  /-- TELEMETRY_SAMPLE (R458). -/
  | telemetrySample
  /-- MARK (R460). -/
  | mark (req : Req) (v : BitVec 32)
  /-- POP (R461). -/
  | pop
  /-- REGISTER_WRITE (R8). -/
  | registerWrite (req : Req) (off : BitVec 18) (v : BitVec 32)
  /-- MGMT_PORT_ACCESS (R450). -/
  | mgmtPortAccess (port : Bool) (we : Bool) (off : BitVec 18) (v : BitVec 32)
  /-- REGACC (R463). -/
  | regacc (dr : BitVec 51)
  /-- DBGRST (R462). -/
  | dbgrst (b : Bool)
  /-- IDCODE (R462). -/
  | idcode
  /-- TSTAT (R462). -/
  | tstat
  /-- BYPASS (R462). -/
  | bypass (b : Bool)
  /-- TRST_N (R462). -/
  | trstN
  /-- PA_LINKUP_FALL (R351). -/
  | paLinkupFall
  /-- TILE_MOVE_COMPLETE (R482). -/
  | tileMoveComplete
  /-- BANK_ZEROING_DONE (R147). -/
  | bankZeroingDone
  /-- UPDATE_IR (R462). -/
  | updateIr (code : BitVec 8)
  /-- GANG_STATUS_WORD (R188). -/
  | gangStatusWord (core : BitVec 3) (st : PartnerWord)
  deriving DecidableEq, Repr

end Sys2Proof
end

