-- ==== Sys2Proof/Decode.lean ====
section
/-! DEFINITION. Decoding: the instruction of a strand that a 32-bit word, or the two words of the extended form, spell (04, R84 to R91,
R94; the group tables of 06, 07 and 10 to 16). A word that spells none raises 0x01 where it is executed (R85). The rows of
spec/opcode_table.json give no bits; the bits here are those of the spec's own tables. -/

namespace Sys2Proof

/-! ### Fields of Table 4-1 -/

/-- A register specifier at [lo + 5 : lo]. -/
def fReg (w lo : Nat) : RSpec := BitVec.ofNat 6 (bits w (lo + 5) lo)

/-- An n-bit field at lo. -/
def fBits (n w lo : Nat) : BitVec n := BitVec.ofNat n (bits w (lo + n - 1) lo)

/-- The instruction, where the bits that the table marks 0 are 0. -/
def whenZero (z : Bool) (i : Instr) : Option Instr := if z then some i else none

/-! ### Base instructions (Tables 4-3 to 4-10) -/

/-- Op 0x01: the functions of Table 4-5. -/
def decodeRg (w : Nat) : Option Instr :=
  let rd := fReg w 20
  let a := fReg w 14
  let b := fReg w 8
  match bits w 7 0 with
  | 0x00 => some (.add rd a b)
  | 0x01 => some (.sub rd a b)
  | 0x02 => some (.and rd a b)
  | 0x03 => some (.or rd a b)
  | 0x04 => some (.xor rd a b)
  | 0x05 => some (.andn rd a b)
  | 0x06 => some (.sll rd a b)
  | 0x07 => some (.srl rd a b)
  | 0x08 => some (.sra rd a b)
  | 0x09 => some (.slt rd a b)
  | 0x0A => some (.sltu rd a b)
  | 0x0B => some (.min rd a b)
  | 0x0C => some (.max rd a b)
  | 0x0D => some (.minu rd a b)
  | 0x0E => some (.maxu rd a b)
  | 0x10 => some (.mul rd a b)
  | 0x11 => some (.mulxSs rd a b)
  | 0x12 => some (.mulxUu rd a b)
  | 0x13 => some (.mulxSu rd a b)
  | 0x14 => some (.div rd a b)
  | 0x15 => some (.divu rd a b)
  | 0x16 => some (.rem rd a b)
  | 0x17 => some (.remu rd a b)
  | 0x20 => whenZero (b == 0) (.clz rd a)
  | 0x21 => whenZero (b == 0) (.ctz rd a)
  | 0x22 => whenZero (b == 0) (.popc rd a)
  | fn => if 0x28 ≤ fn ∧ fn ≤ 0x2F then some (.permb rd a b (fBits 3 w 0)) else none

/-- Op 0x08: the immediate shifts. -/
def decodeShi (w : Nat) : Option Instr :=
  let rd := fReg w 20
  let a := fReg w 14
  let n := fBits 6 w 0
  if bits w 11 6 ≠ 0 then none
  else
    match bits w 13 12 with
    | 0 => some (.slli rd a n)
    | 1 => some (.srli rd a n)
    | 2 => some (.srai rd a n)
    | _ => none

/-- Op 0x1C: the atomics of Table 4-7. -/
def decodeAmo (w : Nat) : Option Instr :=
  let rd := fReg w 20
  let a := fReg w 14
  let b := fReg w 8
  let d := tbit w 7
  let aq := tbit w 6
  let rl := tbit w 5
  match bits w 4 0 with
  | 0x00 => some (.amoSwap rd a b d aq rl)
  | 0x01 => some (.amoAdd rd a b d aq rl)
  | 0x02 => some (.amoAnd rd a b d aq rl)
  | 0x03 => some (.amoOr rd a b d aq rl)
  | 0x04 => some (.amoXor rd a b d aq rl)
  | 0x05 => some (.amoMin rd a b d aq rl)
  | 0x06 => some (.amoMax rd a b d aq rl)
  | 0x07 => some (.amoMinu rd a b d aq rl)
  | 0x08 => some (.amoMaxu rd a b d aq rl)
  | 0x09 => some (.amoCas rd a b d aq rl)
  | 0x0A => some (.amoFaddS rd a b d aq rl)
  | _ => none

/-- Ops 0x23 to 0x25: the operations of Table 4-9. -/
def decodeFop (f : FFmt) (w : Nat) : Option Instr :=
  let rd := fReg w 20
  let a := fReg w 14
  let b := fReg w 8
  let m := fBits 3 w 5
  let z := fun (i : Instr) => whenZero (b == 0) i
  match bits w 4 0 with
  | 0x00 => some (.fadd f rd a b m)
  | 0x01 => some (.fsub f rd a b m)
  | 0x02 => some (.fmul f rd a b m)
  | 0x03 => some (.fdiv f rd a b m)
  | 0x04 => z (.fsqrt f rd a m)
  | 0x05 => some (.fmin f rd a b m)
  | 0x06 => some (.fmax f rd a b m)
  | 0x07 => some (.fminm f rd a b m)
  | 0x08 => some (.fmaxm f rd a b m)
  | 0x09 => some (.fsgnj f rd a b m)
  | 0x0A => some (.fsgnjn f rd a b m)
  | 0x0B => some (.fsgnjx f rd a b m)
  | 0x0C => some (.feq f rd a b m)
  | 0x0D => some (.flt f rd a b m)
  | 0x0E => some (.fle f rd a b m)
  | 0x0F => some (.fltq f rd a b m)
  | 0x10 => some (.fleq f rd a b m)
  | 0x11 => z (.fclass f rd a m)
  | 0x12 => z (.fcvtL f rd a m)
  | 0x13 => z (.fcvtLu f rd a m)
  | 0x14 => z (.fcvtfL f rd a m)
  | 0x15 => z (.fcvtfLu f rd a m)
  | 0x16 => z (.fcvtH f rd a m)
  | 0x17 => z (.fcvtS f rd a m)
  | 0x18 => z (.fcvtD f rd a m)
  | 0x19 => z (.frint f rd a m)
  | 0x1A => z (.frintx f rd a m)
  | 0x1B => some (.frem f rd a b m)
  | 0x1C => z (.fmvXf f rd a m)
  | 0x1D => z (.fmvFx f rd a m)
  | _ => none

/-- Op 0x2A: the bit fields of R94; kind 0b11 spells nothing. -/
def decodeBf (w : Nat) : Option Instr :=
  let rd := fReg w 20
  let a := fReg w 14
  let p := fReg w 8
  let l := fReg w 2
  match bits w 1 0 with
  | 0 => some (.bfext rd a p l)
  | 1 => some (.bfextS rd a p l)
  | 2 => some (.bfins rd a p l)
  | _ => none

/-- Op 0x2B: the system sub-codes of Table 4-10. -/
def decodeSy (w : Nat) : Option Instr :=
  let z := fun (i : Instr) => whenZero (bits w 9 0 == 0) i
  if bits w 25 14 ≠ 0 then none
  else
    match bits w 13 10 with
    | 0x0 => z .evret
    | 0x1 => z .ret
    | 0x2 => some (.gate (fBits 10 w 0))
    | 0x3 => some (.brk (fBits 10 w 0))
    | 0x4 => z .syncC
    | 0x5 => z .syncI
    | 0x6 => z .fence
    | 0x7 => z .fenceF
    | 0x8 => z .wspill
    | 0x9 => whenZero (bits w 9 2 == 0) (.wfill (fBits 2 w 0))
    | _ => none

/-- Ops 0x2C and 0x2D: control registers and loops. -/
def decodeCt (w : Nat) : Option Instr :=
  match bits w 7 0 with
  | 0 => some (.mfc (fReg w 20) (fBits 12 w 8))
  | 1 => some (.mtc (fReg w 20) (fBits 12 w 8))
  | _ => none

def decodeLp (w : Nat) : Option Instr :=
  match bits w 7 0 with
  | 0 => some (.loopI (fReg w 20) (fBits 12 w 8))
  | 1 => whenZero (bits w 25 8 == 0) .lbrk
  | _ => none

/-- A base instruction, by its major opcode (Table 4-3). -/
def decodeBase (w : Nat) : Option Instr :=
  let rd := fReg w 20
  let a := fReg w 14
  let i := fBits 14 w 0
  match bits w 31 26 with
  | 0x01 => decodeRg w
  | 0x02 => some (.addi rd a i)
  | 0x03 => some (.andi rd a i)
  | 0x04 => some (.ori rd a i)
  | 0x05 => some (.xori rd a i)
  | 0x06 => some (.slti rd a i)
  | 0x07 => some (.sltiu rd a i)
  | 0x08 => decodeShi w
  | 0x09 => some (.lui rd (fBits 20 w 0))
  | 0x0A => some (.auipc rd (fBits 20 w 0))
  | 0x0B => some (.jmp (fBits 26 w 0))
  | 0x0C => some (.call (fBits 26 w 0))
  | 0x0D => some (.jmpr rd a i)
  | 0x0E => whenZero (rd == 0) (.callr a i)
  | 0x0F => some (.br rd a (fBits 3 w 11) (fBits 11 w 0))
  | 0x10 => some (.brz rd (fBits 3 w 17) (fBits 17 w 0))
  | 0x11 => some (.lb rd a i)
  | 0x12 => some (.lbu rd a i)
  | 0x13 => some (.lh rd a i)
  | 0x14 => some (.lhu rd a i)
  | 0x15 => some (.lw rd a i)
  | 0x16 => some (.lwu rd a i)
  | 0x17 => some (.ld rd a i)
  | 0x18 => some (.sb rd a i)
  | 0x19 => some (.sh rd a i)
  | 0x1A => some (.sw rd a i)
  | 0x1B => some (.sd rd a i)
  | 0x1C => decodeAmo w
  | 0x1D => some (.flh rd a i)
  | 0x1E => some (.flw rd a i)
  | 0x1F => some (.fld rd a i)
  | 0x20 => some (.fsh rd a i)
  | 0x21 => some (.fsw rd a i)
  | 0x22 => some (.fsd rd a i)
  | 0x23 => decodeFop .h w
  | 0x24 => decodeFop .s w
  | 0x25 => decodeFop .d w
  | 0x26 => some (.fmadd (fBits 2 w 0) rd a (fReg w 8) (fReg w 2))
  | 0x27 => some (.fmsub (fBits 2 w 0) rd a (fReg w 8) (fReg w 2))
  | 0x28 => some (.fnmadd (fBits 2 w 0) rd a (fReg w 8) (fReg w 2))
  | 0x29 => some (.fnmsub (fBits 2 w 0) rd a (fReg w 8) (fReg w 2))
  | 0x2A => decodeBf w
  | 0x2B => decodeSy w
  | 0x2C => decodeCt w
  | 0x2D => decodeLp w
  | _ => none

/-! ### The extended groups (Table 4-4): word A carries op, xop and the field [17:0], word B the second word -/

/-- Group 0x38 (R91). -/
def decode38 (x a b : Nat) : Option Instr :=
  let rd := fReg a 12
  let s := fReg a 6
  let i := BitVec.ofNat 32 b
  if bits a 5 0 ≠ 0 then none
  else
    match x with
    | 0x00 => whenZero (s == 0) (.liw rd i)
    | 0x01 => whenZero (s == 0) (.lih rd i)
    | 0x02 => some (.addix rd s i)
    | _ => none

/-- Group 0x39: tile loads and stores and the context instructions (Table 6-6), TMMA (Table 7-3, R165), the gang xops (Table 7-10). -/
def decode39 (x a b : Nat) : Option Instr :=
  let r1 := fReg a 12
  let r2 := fReg a 6
  let t := fBits 4 a 2
  let ac := fBits 2 a 4
  let lv := fBits 2 a 0
  let acc := tbit a 1
  let tile := bits a 1 0 == 0
  let accf := bits a 3 0 == 0
  let bz := b == 0
  let ld := bits b 23 16 == 0
  let mm := bits a 7 0 == 0 && bits b 31 11 == 0
  let aa := fBits 2 a 16
  let ta := fBits 4 a 12
  let tb := fBits 4 a 8
  let ks := fBits 2 b 9
  let kl := fBits 9 b 0
  match x with
  | 0x00 => whenZero (tile && ld) (.tld t r1 r2 (fBits 4 b 28) (tbit b 27) (fBits 2 b 25) (tbit b 24) (fBits 16 b 0))
  | 0x01 => whenZero (tile && bz) (.tst t r1 r2)
  | 0x02 => whenZero (tile && bz) (.tldX t r1 r2)
  | 0x03 => whenZero (accf && bits b 30 0 == 0) (.tlda ac r1 r2 (tbit b 31))
  | 0x04 => whenZero (accf && bz) (.tsta ac r1 r2)
  | 0x05 => whenZero (bits a 17 6 == 0 && ! tbit a 0 && bz) (.tzero t acc)
  | 0x06 => whenZero (bits a 11 6 == 0 && ! tbit a 0 && bz) (.ttagw t acc r1)
  | 0x07 => whenZero (bits a 11 6 == 0 && ! tbit a 0 && bz) (.ttagr r1 t acc)
  | 0x08 => whenZero (bits a 17 2 == 0 && bz) (.tsave lv)
  | 0x09 => whenZero (bits a 17 2 == 0 && bz) (.tdet lv)
  | 0x0A => whenZero (bits a 11 2 == 0 && bz) (.tatt lv r1)
  | 0x0B => whenZero (a == 0 && bz) .trel
  | 0x0C => whenZero (bits a 11 2 == 0 && bz) (.tinfo r1 lv)
  | 0x10 => whenZero mm (.tmma aa ta tb ks kl)
  | 0x11 => whenZero mm (.tmmaZ aa ta tb ks kl)
  | 0x12 => whenZero mm (.tmmaR aa ta tb ks kl)
  | 0x13 => whenZero mm (.tmmaZr aa ta tb ks kl)
  | 0x14 => whenZero (bits a 15 0 == 0 && bz) (.tret aa)
  | 0x18 => whenZero (bits a 5 2 == 0 && bz) (.tlend r1 r2 lv)
  | 0x19 => whenZero (a == 0 && bz) .trecall
  | 0x1A => whenZero (bits a 17 2 == 0 && bz) (.tgang lv)
  | 0x1B => whenZero (a == 0 && bz) .tungang
  | 0x1C => whenZero (tile && ld) (.tgld t r1 r2 (fBits 4 b 28) (tbit b 27) (fBits 2 b 25) (tbit b 24) (fBits 16 b 0))
  | 0x1D => whenZero (accf && bits b 30 0 == 0) (.tglda ac r1 r2 (tbit b 31))
  | 0x1E => whenZero (accf && bz) (.tgsta ac r1 r2)
  | _ => none

/-- The fields of a group 0x3A operation (R230). -/
def rillFields (a b : Nat) : RillWords :=
  { ld := fReg a 12, l1 := fReg a 6, l2 := fReg a 0, l3 := fReg b 26, ts := tbit b 24, modf := fBits 8 b 16, lenm1 := fBits 16 b 0 }

/-- Group 0x3A (R230, Table 10-4). -/
def decode3A (x a b : Nat) : Option Instr :=
  let go := fun (f : RillWords → Instr) => whenZero (! tbit b 25) (f (rillFields a b))
  match x with
  | 0x00 => go .rillMov
  | 0x01 => go .rillAdd
  | 0x02 => go .rillSub
  | 0x03 => go .rillMul
  | 0x04 => go .epi
  | 0x05 => go .rillMin
  | 0x06 => go .rillMax
  | 0x07 => go .abs
  | 0x08 => go .neg
  | 0x09 => go .cmpeq
  | 0x0A => go .cmplt
  | 0x0B => go .cmple
  | 0x0C => go .selI
  | 0x10 => go .rcp
  | 0x11 => go .sqrt
  | 0x12 => go .rsqrt
  | 0x13 => go .exp2
  | 0x14 => go .log2
  | 0x15 => go .exp
  | 0x16 => go .tanh
  | 0x17 => go .sigm
  | 0x20 => go .rillAnd
  | 0x21 => go .rillOr
  | 0x22 => go .rillXor
  | 0x23 => go .rillAndn
  | 0x24 => go .rillNot
  | 0x25 => go .shl
  | 0x26 => go .shrl
  | 0x27 => go .shra
  | 0x28 => go .addw
  | 0x29 => go .subw
  | 0x2A => go .mulw
  | 0x30 => go .perm
  | 0x31 => go .rperm
  | 0x32 => go .trn
  | 0x33 => go .movc
  | 0x40 => go .rred
  | 0x48 => go .credSum
  | 0x49 => go .credMax
  | 0x4A => go .credMin
  | 0x4B => go .credAmax
  | 0x4C => go .credSsq
  | 0x4D => go .credCnz
  | 0x4E => go .cinit
  | 0x4F => go .cdrain
  | 0x50 => whenZero (a == 0 && b == 0) .rdrop
  | 0x51 => whenZero (bits a 11 1 == 0 && b == 0) (.rsum (fReg a 12) (tbit a 0))
  | _ => none

/-- Group 0x3B (Table 11-2). -/
def decode3B (x a b : Nat) : Option Instr :=
  let r := fReg a 12
  let d := fBits 6 a 0
  let bz := b == 0
  match x with
  | 0x00 => whenZero (bits a 11 6 == 0 && bz) (.dld d r)
  | 0x01 => whenZero (bits a 11 6 == 0 && bz) (.dst d r)
  | 0x02 => whenZero (bits a 17 6 == 0 && bz) (.dinv d)
  | 0x03 => whenZero (bits a 11 0 == 0 && bits b 31 30 == 0 && bits b 23 22 == 0 && bits b 15 6 == 0)
      (.dsch r (fBits 6 b 24) (fBits 6 b 16) (fBits 6 b 0))
  | 0x04 => whenZero (bits a 11 4 == 0 && bz) (.dstat r (fBits 2 a 0) (fBits 2 a 2))
  | 0x05 => whenZero (bits a 17 2 == 0 && bz) (.dkill (fBits 2 a 0))
  | _ => none

/-- Group 0x3C (Table 12-2). -/
def decode3C (x a b : Nat) : Option Instr :=
  let r := fReg a 12
  let n := fBits 2 a 0
  let bz := b == 0
  match x with
  | 0x00 => whenZero (bits a 11 2 == 0 && bz) (.wgo n r)
  | 0x01 => whenZero (bits a 11 4 == 0 && bz) (.wstat r n (fBits 2 a 2))
  | 0x02 => whenZero (bits a 17 2 == 0 && bz) (.wkill n)
  | _ => none

/-- Group 0x3D (Tables 15-8 and 16-4). -/
def decode3D (x a b : Nat) : Option Instr :=
  let r1 := fReg a 12
  let r2 := fReg a 6
  let r3 := fReg a 0
  let hi := r1 == 0
  let lo := r3 == 0
  if b ≠ 0 then none
  else
    match x with
    | 0x00 => some (.fred r1 r2 r3)
    | 0x01 => whenZero (r2 == 0) (.rwcfg r3 r1)
    | 0x02 => whenZero (bits a 11 8 == 0) (.rwstat r1 r3 (fBits 2 a 6))
    | 0x03 => whenZero (bits a 17 6 == 0) (.rwkill r3)
    | 0x10 => some (.qpush r1 r2 r3)
    | 0x11 => whenZero lo (.qpop r1 r2)
    | 0x12 => whenZero lo (.qtry r1 r2)
    | 0x13 => whenZero (hi && lo) (.qrel r2)
    | 0x14 => whenZero (hi && lo) (.qflush r2)
    | 0x15 => whenZero hi (.qcfg r2 r3)
    | 0x16 => whenZero lo (.qstat r1 r2)
    | _ => none

/-- Group 0x3E (Tables 13-4 and 14-11). -/
def decode3E (x a b : Nat) : Option Instr :=
  let r := fReg a 12
  let m := fBits 2 a 0
  let i := BitVec.ofNat 32 b
  let az := bits a 11 0 == 0
  match x with
  | 0x00 => whenZero (a == 0 && b == 0) .ftlbw
  | 0x01 => whenZero (a == 0 && b == 0) .ftlbr
  | 0x02 => whenZero (bits a 11 2 == 0 && b == 0) (.ftlbi m r)
  | 0x03 => whenZero (bits a 11 2 == 0 && b == 0) (.ntlbi m r)
  | 0x10 => whenZero az (.cflush r i)
  | 0x11 => whenZero az (.cclean r i)
  | 0x12 => whenZero az (.cinv r i)
  | 0x13 => whenZero az (.cpre r i)
  | 0x14 => whenZero (a == 0 && b == 0) .cfdrop
  | _ => none

/-- Group 0x3F (R280, Table 11-9). -/
def decode3F (x a b : Nat) : Option Instr :=
  let v : VecWords := { rd := fReg a 12, rs1 := fReg a 6, rs2 := fReg a 0, rs3 := fReg b 26, rn := fReg b 20, fmt := fBits 4 b 16, fmtd := fBits 4 b 12 }
  if bits b 11 0 ≠ 0 then none
  else
    match x with
    | 0x00 => some (.vadd v)
    | 0x01 => some (.vsub v)
    | 0x02 => some (.vmul v)
    | 0x03 => some (.vfma v)
    | 0x04 => some (.vmin v)
    | 0x05 => some (.vmax v)
    | 0x06 => some (.vcvt v)
    | 0x07 => some (.vrelu v)
    | _ => none

/-- Whether a first word opens the extended form (R84). -/
def isExt (w : Nat) : Bool := decide (0x38 ≤ bits w 31 26)

/-- An extended instruction: its group, its xop [25:18] and its operand fields (R90). -/
def decodeExt (w b : Nat) : Option Instr :=
  let x := bits w 25 18
  let a := bits w 17 0
  match bits w 31 26 with
  | 0x38 => decode38 x a b
  | 0x39 => decode39 x a b
  | 0x3A => decode3A x a b
  | 0x3B => decode3B x a b
  | 0x3C => decode3C x a b
  | 0x3D => decode3D x a b
  | 0x3E => decode3E x a b
  | 0x3F => decode3F x a b
  | _ => none

/-- The instruction of a strand that a word of 32 bits spells, or the two words of the extended form, the first in the low 32 bits. The
event commands have no bits. [DESIGN CHOICE, log 2] -/
def decodeTableWord (nbits w : Nat) : Option Instr :=
  if nbits = 32 then (if isExt w then none else decodeBase w)
  else if nbits = 64 then (if isExt (w % 2 ^ 32) then decodeExt (w % 2 ^ 32) (w / 2 ^ 32 % 2 ^ 32) else none)
  else none

end Sys2Proof
end

