-- ==== Sys2Proof/Config.lean ====
section
/-! DEFINITION. What an implementation fixes, and the free values: constants with no body for what the spec leaves open,
so that nothing can be proved of their value (notes/assumptions). -/

namespace Sys2Proof.Config

/-- A free 64-bit value, one for each value of the counter State.free (undefined values of the spec). [DESIGN CHOICE, log 9]
[DEDUCED, log 12] -/
opaque freeWord : Nat → Word

/-- A free byte, for a value of the counter and a place: bytes the spec leaves open (R229, R240, R358).
[DESIGN CHOICE, log 9] -/
opaque freeByte : Nat → Nat → Byte

/-- Which of n entries a near TLB replaces; the spec names no policy (R335). [DESIGN CHOICE, log 32] -/
opaque tlbVictim : Nat → Nat → Nat

/-- The ECC syndrome or parity group of an error record (Table 17-4); the spec gives no code. [DESIGN CHOICE, log 46] -/
opaque syndrome : Nat → Nat → BitVec 8

end Sys2Proof.Config
end

