-- ==== Sys2Proof/Machine/State.lean ====
section
/-! DEFINITION. The state of the E3 block as plain data: every register, buffer, queue, mode and pin that the spec gives
the machine, the commands that wait, and the state after reset. -/

namespace Sys2Proof.Machine

open Sys2Proof

/-- Sparse bytes: addresses strictly rising, no entry equal to 0, which is what an unlisted address reads as.
[DESIGN CHOICE, log 8] -/
abbrev Mem := List Host.Cell

/-! ### Strands (02_strands_windows_registers.md, 03_events_gates_privilege.md) -/

/-- A tile context or chain owner: a strand and a level (R145). -/
structure CtxId where
  k : StrandId
  lv : Lvl
  deriving DecidableEq, Repr

/-- The five strand states (R37). -/
inductive StState where
  | stopped
  | running
  | ready
  | waiting
  | held
  deriving DecidableEq, Repr

/-- The switch case of Table 2-2 that stands for a strand, with what ends its wait: the L2 line, nothing for Device and
Uncached data, the far request, the queue, the bank claim; a retired GATE. -/
inductive Cond where
  | longMiss (line : Nat)
  | device
  | far (req : Nat)
  | queue (q : Nat)
  | tile
  | gate
  deriving DecidableEq, Repr

/-- Where a pending event came from, for what cancels it (R278, R298) and what its entry records (R277). -/
inductive EvSrc where
  | instr
  | chain (c : CtxId)
  | engine (n : Fin 4)
  | far
  | save
  | action
  deriving DecidableEq, Repr

/-- An event: its number, SVFA, INFO, the level that raises it (R65, R276) and its source; asid is the ASID that missed
the FTLB, for the staging registers of R342. -/
structure Ev where
  num : BitVec 8
  fa : Word
  info : BitVec 16
  rel : Lvl
  src : EvSrc
  asid : BitVec 16
  deriving DecidableEq, Repr

/-- A save set: SVPC, SVST, SVCA, SVFA (03, Save sets). -/
structure SaveSet where
  pc : Word
  st : Word
  ca : Word
  fa : Word
  deriving DecidableEq, Repr

/-- An active hardware loop (R114): START, len and COUNT. -/
structure Loop where
  start : Word
  len : BitVec 12
  count : BitVec 32
  deriving DecidableEq, Repr

/-- A frame of the machine save stack (R69): a save set and a loop record; loops are outer first. -/
structure MFrame where
  save : SaveSet
  loops : List Loop
  deriving DecidableEq, Repr

/-- The save sets of a strand. U and S are registers; M is the top of the machine save stack, mOld the frames beneath it
(newest first), mV whether a frame is held. -/
structure Saves where
  u : SaveSet
  s : SaveSet
  m : MFrame
  mV : Bool
  mOld : List MFrame
  stkU : Word
  stkS : Word
  stkM : Word
  deriving DecidableEq, Repr

/-- A slot of the window ring (R48). -/
structure Slot where
  l : Vector Word 8
  i : Vector Word 8
  tag : Lvl
  deriving DecidableEq, Repr

/-- The window ring: 12 slots, WCUR and RESW. -/
structure Win where
  ring : Vector Slot 12
  wcur : Fin 12
  resw : Nat
  deriving DecidableEq, Repr

/-- g1 to g14 (entries 0 and 15 are unused), the three copies of g15 (U, S, M), and f0 to f31. -/
structure Regs where
  g : Vector Word 16
  g15 : Vector Word 3
  f : Vector Word 32
  deriving DecidableEq, Repr

/-- The writable fields of STATUS (Table 2-11); SID, RESW, WCUR and OTAG come from the ring. -/
structure Status where
  lvl : Lvl
  sap : Bool
  sep : Bool
  ie : Bool
  deriving DecidableEq, Repr

/-- FCTL (Table 4-8): RM, and the flags NV DZ OF UF NX in [4:0]. -/
structure Fctl where
  rm : BitVec 3
  flags : BitVec 5
  deriving DecidableEq, Repr

/-- TSHAPE, XPASS, NUMCNT, NUMEV, SUMR and its second word ROWF. -/
structure NumRegs where
  tshape : BitVec 2
  xpass : BitVec 2
  numcnt : Word
  numev : Word
  sumr : Word
  rowf : Word
  deriving DecidableEq, Repr

/-- PTB, ASID, FTIDX.IDX, FTLO, FTHI. -/
structure XlRegs where
  ptb : Word
  asid : BitVec 16
  idx : BitVec 8
  ftlo : Word
  fthi : Word
  deriving DecidableEq, Repr

/-- Values written by MTC that wait for SYNC.C (R110, R111). -/
structure Pend where
  edtb : Option Word
  gdtb : Option Word
  tshape : Option (BitVec 2)
  nprof : Option (BitVec 2)
  ptb : Option Word
  asid : Option (BitVec 16)
  lvl : Option Lvl
  sap : Option Bool
  sep : Option Bool
  deriving DecidableEq, Repr

/-- The return buffer of Device and Uncached loads (R306): the bound values, the parts of its reads whose data is still to arrive, at most 8
bytes each, and the data so far; dev says that a Device address is read (R305), amo that an AMO has read, at physical address apa. -/
structure RetBuf where
  pc : Word
  addr : Word
  size : Nat
  lvl : Lvl
  want : List (Nat × Nat)
  got : List Byte
  err : Bool
  dev : Bool
  amo : Bool
  apa : Nat
  deriving DecidableEq, Repr

/-- The states of a tile context (Table 6-7). -/
inductive CtxSt where
  | none
  | cleared
  | resident
  | saved
  | saving
  | restoring
  deriving DecidableEq, Repr

/-- A tile context (R145 to R159); last is the stamp of its last tile instruction (R147), pos the pieces of the frame that a save or
restore in progress has moved. -/
structure Ctx where
  st : CtxSt
  fa : Word
  pad : BitVec 6
  att : Bool
  bank : Fin 2
  last : Nat
  pos : Nat
  deriving DecidableEq, Repr

/-- A descriptor slot (R260). -/
structure DSlot where
  valid : Bool
  tag : Lvl
  lda : Word
  dw : Vector Word 8
  deriving DecidableEq, Repr

/-- A chain step (Table 11-5). -/
structure CStep where
  wa : BitVec 32
  wb : BitVec 32
  b0 : BitVec 16
  b1 : BitVec 16
  b2 : BitVec 16
  b3 : BitVec 16
  deriving DecidableEq, Repr

/-- Chain and engine states (Table 11-7, R290). -/
inductive RunSt where
  | idle
  | running
  | suspended
  | done
  | aborted
  deriving DecidableEq, Repr

/-- The descriptor chain of a context (R260, R268 to R279); record is the level and DEPTH of R277, killed says that a DKILL waits for its
dispatched steps (R278). [DESIGN CHOICE, log 10] -/
structure Chain where
  st : RunSt
  cause : BitVec 8
  rsn : BitVec 8
  step : Nat
  dbase : BitVec 6
  dcnt : Nat
  io : Nat
  ii : Nat
  no : Nat
  ni : Nat
  faddr : Word
  prog : List CStep
  paddr : Word
  record : Option (Lvl × Nat)
  killed : Bool
  deriving DecidableEq, Repr

/-- What a strand does and what waits for it. late counts the near-port reads whose data is to be discarded (R306); merged is the
128-byte line of the miss register that its load, fetch or AMO has merged into and not yet been performed from (R308, R310); entering
is the event that its instruction has raised and whose entry waits for memory (R66); profWait says that it waits to change NPROF (R25); dbgPend
are the sync-required writes made through STRDBG that wait to take effect, before the strand resumes (R57).
[DESIGN CHOICE, log 10] [DESIGN CHOICE, log 130] -/
structure RunInfo where
  st : StState
  cond : Option Cond
  retBuf : Option RetBuf
  late : Nat
  merged : Option Nat
  entering : Option Ev
  profWait : Bool
  pendEv : List Ev
  mchk : List Ev
  pend : Pend
  dbgPend : Pend
  deriving DecidableEq, Repr

/-- One strand (Table 2-1). -/
structure Strand where
  pc : Word
  regs : Regs
  win : Win
  status : Status
  saves : Saves
  fctl : Fctl
  loops : List Loop
  num : NumRegs
  xl : XlRegs
  run : RunInfo
  ctx : Vector Ctx 3
  cslots : Vector Word 64
  dslots : Vector DSlot 64
  chains : Vector Chain 3
  deriving DecidableEq, Repr

/-! ### Tile work (06, 07, 10) -/

/-- The unit that completes a dispatched tile operation; imm is none (TZERO, TTAGW). -/
inductive TUnit where
  | move
  | tmu
  | rill
  | cistern
  | imm
  deriving DecidableEq, Repr

/-- A dispatched TMMA or TRET (R167 to R173): what its dispatch fixed. started and finished count array passes (R163,
R197), ns and nf its counts so far; entry is its Runnel entry, want says that a member is still to reserve it; tagA1 and scA1 are the tag and
scales of A for the gang's second quadrant row; rowsA are the A registers that a member takes from its master, none until they have come, scPend says that a member is still to read its
B scales, reps is what the members of a master's gang have reported (R184), and faults the machine checks met so far (R189). -/
structure TmmaOp where
  zero : Bool
  noPass : Bool
  a : Fin 4
  ta : Fin 16
  tb : Fin 16
  ksel : Nat
  n : Nat
  k : Nat
  shape : BitVec 2
  prof : BitVec 2
  passes : Nat
  tagA : Word
  tagB : Word
  scA : List Byte
  scB : List Byte
  gang : Bool
  started : Nat
  finished : Nat
  entry : Option (Fin 8)
  want : Bool
  tagA1 : Word
  scA1 : List Byte
  rowsA : Option (List (List (List Byte)))
  scPend : Bool
  reps : List (Nat × GangReport)
  faults : List (BitVec 8 × Nat)
  ns : Nat
  nf : Nat
  deriving DecidableEq, Repr

/-- A dispatched operation of group 0x3A (R230, R256) with its locators; got is what it has read of its Runnel entry once
the entry has been freed (R258). -/
structure RillOp where
  xop : Nat
  ts : Bool
  modf : BitVec 8
  n : Nat
  shape : BitVec 2
  prof : BitVec 2
  ld : Word
  s1 : Word
  s2 : Word
  s3 : Word
  tag1 : Word
  tag2 : Word
  tag3 : Word
  entry : Option (Fin 8)
  keep : Bool
  got : Option (Mem × Bool)
  deriving DecidableEq, Repr

/-- A dispatched tile load: its words, the pieces still to be read, and the bytes read so far. -/
structure LoadOp where
  w : MvWords
  todo : List MvPiece
  got : List Byte
  deriving DecidableEq, Repr

/-- A dispatched tile store: its words, the pieces still to be written, their bytes once the register has been read, and the scale
bytes that a chain copies out after it (R267): scratchpad offset and place. -/
structure StoreOp where
  w : MvWords
  todo : List MvPiece
  data : Option (List Byte)
  scales : List (Nat × MvPiece)
  deriving DecidableEq, Repr

/-- What a completed counting operation has still to apply (R225, R228): saturations, flushes, whether a clamp sets NUMEV.CNTOVF, OP, ACC and
REG of its record, the first non-finite output, whether counts and record are unpredictable (R229), and the cores of its gang whose reports
are still to come. -/
structure Tally where
  ns : Nat
  nf : Nat
  ovf : Bool
  op : Nat
  acc : Bool
  reg : Nat
  out : Option (Nat × Nat × Bool)
  free : Bool
  need : List Nat
  deriving DecidableEq, Repr

/-- What a dispatched tile operation will do: bytes for the bank at frame offsets (TZERO, TTAGW), a load or a store, a TMMA or TRET, a Rill or
Cistern operation; or what it has still to count. -/
inductive TBody where
  | write (cells : List (Nat × List Byte))
  | load (p : LoadOp)
  | store (p : StoreOp)
  | tmma (p : TmmaOp)
  | rill (p : RillOp)
  | tally (t : Tally)
  deriving DecidableEq, Repr

/-- A dispatched tile operation. rd and wr name tile registers (0 to 15), accumulators (16 to 19) and Runnel entries (32 to
39); tags are the tags it leaves; spRd and spWr say whether it reads or writes the scratchpad; chain whether a chain
issued it. -/
structure TOp where
  id : Nat
  ctx : CtxId
  unit : TUnit
  rd : List Nat
  wr : List Nat
  spRd : Bool
  spWr : Bool
  tags : List (Nat × Word)
  chain : Bool
  body : TBody
  deriving DecidableEq, Repr

/-- The states of a Runnel entry (Table 10-7); READING begins and ends within the command that reads the entry.
[DESIGN CHOICE, log 65] -/
inductive RnSt where
  | free
  | reserved
  | filling
  | ready
  deriving DecidableEq, Repr

/-- A Runnel entry (R172, R243): res is its reservation stamp, bound whether it has left its queue, drop an RDROP. -/
structure RnEntry where
  st : RnSt
  owner : CtxId
  int : Bool
  shape : BitVec 2
  data : Mem
  res : Nat
  bound : Bool
  drop : Bool
  deriving DecidableEq, Repr

/-- The phase of the claim in progress (R147): it waits for its victim's work, saves the victim, zeroes the bank, or restores the claimant. -/
inductive ClaimPh where
  | waiting (victim : CtxId)
  | saving (victim : CtxId)
  | zeroing
  | restoring
  deriving DecidableEq, Repr

/-- The claim in progress. -/
structure Claim where
  ctx : CtxId
  bank : Fin 2
  ph : ClaimPh
  deriving DecidableEq, Repr

/-- A physical tile bank: its holder, and its bytes in the layout of the save frame (Table 6-8). [DESIGN CHOICE, log 50] -/
structure Bank where
  owner : Option CtxId
  cells : Mem
  deriving DecidableEq, Repr

/-- The ramp governor (R176, Table 7-9); occ is the occupancy started in the current window, still says that a relock or power gating took
place in it (R178). -/
structure Governor where
  lock : Bool
  hold : Bool
  cap : Nat
  step : Nat
  floor : Nat
  occ : Nat
  any : Bool
  still : Bool
  deriving DecidableEq, Repr

/-- The gang state of this core (R181 to R191, Table 7-14); forming is TGANG in its 64 cc; partners are the status words
last seen on the gang bus. -/
structure Gang where
  st : GangSt
  size : Nat
  master : Nat
  ctx : CtxId
  dispB : Word
  dispA : Word
  forming : Option (Nat × CtxId)
  partners : Vector PartnerWord 8
  deriving DecidableEq, Repr

/-- The TMU's own state (R192 to R196): OPCNT, molt position p, failed column f (0x7F none), mismatch counts, DEGR. -/
structure Tmu where
  opcnt : BitVec 32
  molt : Nat
  failc : Nat
  counts : Vector (BitVec 8) 66
  degr : Bool
  gated : Bool
  gov : Governor
  gang : Gang
  deriving DecidableEq, Repr

/-- Tile work of the core: banks, claims (oldest first), the claim in progress, the dispatched operations (oldest first),
the Runnel, the TMU, and the dispatch stamp. -/
structure Tiles where
  banks : Vector Bank 2
  claims : List CtxId
  claim : Option Claim
  inflight : List TOp
  runnel : Vector RnEntry 8
  tmu : Tmu
  stamp : Nat
  deriving DecidableEq, Repr

/-! ### Weevils (12) -/

/-- How a near piece stands: to be performed; its writes have left and await their acknowledgement (R294); it has met an uncorrectable error or
poison and completes no more. -/
inductive PiecePh where
  | todo
  | sent
  | bad
  deriving DecidableEq, Repr

/-- A piece of a row in flight (R293, R294); pa is a near piece's physical address, req a far piece's request.
[DEDUCED, log 70] -/
structure Piece where
  id : Nat
  row : Nat
  addr : Word
  pa : Nat
  so : Nat
  len : Nat
  req : Option Nat
  ph : PiecePh
  deriving DecidableEq, Repr

/-- A failure of an engine that waits for the pieces already issued (R298): reason, row, FADDR, SVFA and FRSP. -/
structure EngFail where
  reason : Nat
  row : Nat
  faddr : Word
  svfa : Word
  frsp : Nat
  deriving DecidableEq, Repr

/-- A gather engine (R290 to R299). row, off and elem are the row being issued, its bytes issued and its stream element; ahead is the
64-byte line of the stream read ahead (R294); stamp is the dispatch stamp of the WGO (R297), killed says that a WKILL waits for the pieces.
[DESIGN CHOICE, log 10] [DESIGN CHOICE, log 69] -/
structure Engine where
  st : RunSt
  k : StrandId
  lv : Lvl
  sap : Bool
  ptb : Word
  asid : BitVec 16
  blk : Vector Word 8
  baddr : Word
  next : Nat
  row : Nat
  off : Nat
  elem : Option Word
  ahead : Option (Word × List Byte)
  pieces : List Piece
  rsn : BitVec 8
  frsp : BitVec 8
  cause : BitVec 8
  faddr : Word
  fail : Option EngFail
  killed : Bool
  stamp : Nat
  record : Option (Lvl × Nat)
  deriving DecidableEq, Repr

/-! ### Caches and translation (13, 14) -/

/-- MESI states other than Invalid (R307). -/
inductive Mesi where
  | modified
  | exclusive
  | shared
  deriving DecidableEq, Repr

/-- A cache line: place, the line number (address divided by the line size), whether it is a far line, state, and a far
line's own bytes (near data is coherent and lives in State.near). -/
structure Line where
  set : Nat
  way : Nat
  line : Nat
  far : Bool
  st : Mesi
  data : List Byte
  deriving DecidableEq, Repr

/-- A cache array: its lines, tree bits per set, disabled ways and the error counts of the window. -/
structure CacheArr where
  lines : List Line
  plru : List (Nat × Nat)
  dis : BitVec 16
  counts : List (Nat × Nat)
  deriving DecidableEq, Repr

/-- A store that waits in a miss register for its line: the strand whose access it is, its physical address and bytes. -/
structure MStore where
  k : Option StrandId
  pa : Nat
  bs : List Byte
  deriving DecidableEq, Repr

/-- An access of the block's own engines for strand k (Table 13-2): id 0 reads tables, 1 moves tile frames, 2 reads chain programs and their
scales, 3 + n is gather engine n, and 16 + i tile move i. -/
structure Ag where
  k : StrandId
  id : Nat
  deriving DecidableEq, Repr

/-- An L2 miss register (R310): the 128-byte line, ownership, whether the prefetcher or CPRE holds it, the accesses merged, the engine
accesses among them, whether only ownership was asked for, since the line is written whole (Table 13-2), and the stores to perform. -/
structure Mshr where
  line : Nat
  own : Bool
  pre : Bool
  cpre : Bool
  n : Nat
  engs : List Ag
  nodata : Bool
  stores : List MStore
  deriving DecidableEq, Repr

/-- An L1I or L1D miss register (R310): the 64-byte line and the accesses merged. -/
structure LMiss where
  line : Nat
  n : Nat
  deriving DecidableEq, Repr

/-- An eviction buffer entry (R312): the line, and whether its write has been sent. -/
structure EvEntry where
  line : Nat
  sent : Bool
  deriving DecidableEq, Repr

/-- An agent beside the caches that writes near memory: a gather engine, or the queue engine, the far port, a window, a walk. -/
inductive Agent where
  | weevil (n : Fin 4)
  | other
  deriving DecidableEq, Repr

/-- What has not finished of a line: a CPRE awaiting its line (pre), the write of an eviction entry (ev), or a write-back or another
near-port write awaiting its acknowledgement (R103, R317; dev: no later access of the strand may be performed before it, R305, R103); the
strand that a FENCE of its own waits for, none for CACHE.CMD and way cleaning; the agent whose write it is. Writes stand in the order in
which they left. -/
structure Maint where
  line : Nat
  k : Option StrandId
  pre : Bool
  ev : Bool
  dev : Bool
  agent : Option Agent
  deriving DecidableEq, Repr

/-- Who waits for a near-port read that allocates nothing: a fetch of a Device or Uncached word (R306), a table read for va (R61, R330), the
swap of A and D in a leaf (R331), a tile move (R140), a gather piece (R295), a queue descriptor (R376), a session record (R358), a far
request served (R347), or an agent that has read its own memory. -/
inductive PWho where
  | fetch (k : StrandId)
  | table (k : StrandId) (va : Word)
  | swap (k : StrandId) (va : Word)
  | move (g : Ag)
  | piece (n : Fin 4) (id : Nat)
  | queue (q : Nat)
  | sess (n : Nat)
  | target (m : FarMsg)
  | own
  deriving DecidableEq, Repr

/-- Such a read of n bytes at pa, within one line: whether its data has come, poisoned or as an error answer (R466); newer are the bytes that the
core has written there since it left. [DESIGN CHOICE, log 140] -/
structure PRead where
  who : PWho
  pa : Nat
  n : Nat
  done : Bool
  poison : Bool
  err : Bool
  newer : List (Nat × List Byte)
  deriving DecidableEq, Repr

/-- A prefetch tracker (R313): page, last line, stride, and the accesses seen at it. -/
structure Tracker where
  page : Nat
  last : Nat
  stride : Int
  n : Nat
  deriving DecidableEq, Repr

/-- A streaming-store tracker (R315): last line of the run, direction (0 while one line is known), run length (0: free). -/
structure STracker where
  last : Nat
  dir : Int
  n : Nat
  deriving DecidableEq, Repr

/-- A region of the memory-type map (R304), in 4 KiB page numbers: BASE, LIM and TYPE. -/
structure Region where
  base : BitVec 40
  lim : BitVec 40
  typ : BitVec 2
  deriving DecidableEq, Repr

/-- The CACHE page (Table 13-6). -/
structure CachePage where
  rlock : Bool
  wlim : Bool
  cmd : Option (BitVec 2)
  sthr : BitVec 6
  pfdepth : BitVec 4
  ssen : Bool
  pfen : Bool
  pren : Bool
  prew : BitVec 4
  lock : BitVec 16
  down : BitVec 16
  l2off : BitVec 16
  cleaning : List (Nat × Nat)
  regions : Vector Region 16
  deriving DecidableEq, Repr

/-- An entry of a near TLB (R334): ASID, page number at its level, the leaf, and whether its parity has failed. -/
structure TlbE where
  asid : BitVec 16
  level : Nat
  vpn : Nat
  leaf : Word
  bad : Bool
  deriving DecidableEq, Repr

/-- The NTLBI that waits for its completion: its strand and instruction address, and what it asked for (R336).
[DESIGN CHOICE, log 43] -/
structure NtlbiOut where
  k : StrandId
  pc : Word
  m : BitVec 2
  asid : BitVec 16
  va : Word
  deriving DecidableEq, Repr

/-- Caches, near TLBs and FTLB. lmiss and imiss are the miss registers of the L1D and the L1I, mshr those of the L2; snoops are the
snoops held by R308; engAt are the lines of the miss registers that engine accesses have merged into and not yet been performed from
(R308); preads are the near-port reads that allocate nothing; lateW are agents' writes that wait for the acknowledgement of a SENT eviction
entry of their line (R312); ntlbi is the NTLBI that waits for its completion; ackDue counts the invalidation requests not yet
acknowledged (R336). [DESIGN CHOICE, log 140] -/
structure MemSys where
  l1i : CacheArr
  l1d : CacheArr
  l2 : CacheArr
  mshr : List Mshr
  lmiss : List LMiss
  imiss : List LMiss
  evbuf : List EvEntry
  snoops : List (Nat × SnoopKind)
  maint : List Maint
  engAt : List (Ag × Nat)
  preads : List PRead
  lateW : List (Nat × List Byte × Agent)
  side : List Nat
  trackers : Vector Tracker 16
  strackers : Vector STracker 4
  page : CachePage
  itlb : List TlbE
  dtlb : List TlbE
  l2tlb : List TlbE
  ftlb : Vector (Word × Word) 256
  vict : BitVec 8
  ntlbi : Option NtlbiOut
  ntlbiDone : Bool
  ackDue : Nat
  deriving DecidableEq, Repr

/-! ### Far port (15) -/

/-- FAR.STAT.LSTATE (Table 15-12). -/
inductive LState where
  | down
  | retrain
  | init
  | up
  deriving DecidableEq, Repr

/-- FAR.JSTAT.STATE (Table 15-12). -/
inductive JState where
  | unjoined
  | joining
  | joined
  | refused
  | noresp
  | aborted
  deriving DecidableEq, Repr

/-- The FAR page (Table 15-12). -/
structure FarRegs where
  lock : Bool
  tfollow : Bool
  ufred : Bool
  eplog2 : BitVec 3
  en : Bool
  lstate : LState
  pver : BitVec 4
  retrains : BitVec 16
  istat : BitVec 2
  ien : BitVec 2
  node : BitVec 14
  epoch : BitVec 32
  auth : Bool
  aep : BitVec 6
  anode : BitVec 14
  floor : BitVec 8
  jepoch : BitVec 32
  jreason : BitVec 8
  jstate : JState
  rvmask : BitVec 8
  jrprof : BitVec 2
  jrfloor : BitVec 8
  jrefep : BitVec 32
  jmap : BitVec 40
  scb : BitVec 40
  expb : BitVec 40
  expl : BitVec 40
  rtry : BitVec 8
  rtime : BitVec 24
  wto : BitVec 32
  alarm : Bool
  skew : BitVec 31
  ldly : BitVec 16
  deriving DecidableEq, Repr

/-- The sender states of Table 15-4. -/
inductive SndSt where
  | send
  | replay
  | retrain
  | down
  deriving DecidableEq, Repr

/-- The link layer (R351 to R353): replay buffer oldest first, next FSEQ, ERX, credits, receive buffers. -/
structure Link where
  snd : SndSt
  fseq : BitVec 10
  buf : List (BitVec 10 × BitVec 2 × Flit)
  replays : Nat
  nacked : Bool
  erx : BitVec 10
  recvAny : Bool
  credits : Vector Nat 3
  rx : Vector (List Flit) 3
  waiting : List (BitVec 2 × Flit)
  freed : Vector Nat 3
  linkup : Bool
  retrain : Bool
  deriving DecidableEq, Repr

/-- A session this core opened as a source (R355, R356). -/
structure SrcSess where
  node : BitVec 14
  ep : BitVec 6
  sgen : BitVec 32
  sess : Option (BitVec 14)
  nextSeq : BitVec 32
  deriving DecidableEq, Repr

/-- A session this core holds as a target (R355, R357): H, M and the response slots; held says whether its record is on the
core (R358), used its last use. -/
structure TgtSess where
  num : BitVec 14
  node : BitVec 14
  ep : BitVec 6
  sgen : BitVec 32
  h : BitVec 32
  m : BitVec 64
  slots : List (Nat × FarMsg)
  held : Bool
  used : Nat
  deriving DecidableEq, Repr

/-- Who waits for a far request. -/
inductive ReqOwner where
  | load (k : StrandId) (pc : Word)
  | store (k : StrandId)
  | piece (n : Fin 4) (id : Nat)
  | window (w : Fin 64)
  | ckpt
  | forward (q : Nat)
  | sopen
  | sclose
  deriving DecidableEq, Repr

/-- A far request of this core (R356, R359, R360); busy says that the last response asked for a retry; done holds the
response code and data. -/
structure FarReq where
  id : Nat
  owner : ReqOwner
  va : Word
  ftlb : Option Nat
  fill : Bool
  msg : FarMsg
  sent : Bool
  tries : Nat
  busy : Bool
  done : Option (BitVec 8 × List Byte)
  deriving DecidableEq, Repr

/-- Reduction window states (Table 15-9). -/
inductive WinSt where
  | idle
  | armed
  | filling
  deriving DecidableEq, Repr

/-- A reduction window (R362 to R365). -/
structure RWin where
  st : WinSt
  cntm1 : Nat
  nm1 : Nat
  int : Bool
  op : Nat
  qp : Bool
  fwd : Bool
  spa : Nat
  rpa : Nat
  qnum : Nat
  handle : Word
  gen : BitVec 16
  next : Nat
  present : List Nat
  sat : Nat
  flush : Nat
  lastSat : Nat
  lastFlush : Nat
  since : Word
  deriving DecidableEq, Repr

/-- The far port. rxMsgs are messages whose last flit has arrived; jtok, jsends and jsent belong to the join in progress;
slew is the correction that GTIME still owes (R129, R369, R370); sgens are the generations already used. -/
structure Far where
  regs : FarRegs
  link : Link
  src : List SrcSess
  tgt : List TgtSess
  reqs : List FarReq
  nextReq : Nat
  wins : Vector RWin 64
  rxMsgs : List FarMsg
  jtok : BitVec 32
  jmsg : Option FarMsg
  jsends : Nat
  jsent : Word
  slew : Int
  sgens : List (Nat × BitVec 32)
  deriving DecidableEq, Repr

/-! ### Queues (16) -/

/-- An item of a queue (R377, R378): first slot index, slots, bytes, GAP and GAPCNT, the bytes that its slots are still to
receive, slots written, whether it is poppable, whether it has been taken. -/
structure QItem where
  idx : BitVec 32
  k : Nat
  len : Nat
  gap : Bool
  gapcnt : BitVec 16
  data : List Byte
  wr : Nat
  poppable : Bool
  taken : Bool
  deriving DecidableEq, Repr

/-- A queue descriptor held on the core (Table 16-2); deferred is the CHAIN word whose start is deferred (R386). -/
structure QDesc where
  q : Nat
  v : Bool
  pkt : Bool
  lossy : Bool
  rmt : Bool
  pin : Bool
  clvl : BitVec 2
  plvl : BitVec 2
  owns : BitVec 2
  olvl : BitVec 2
  szlog2 : Nat
  cthr : Nat
  ring : Nat
  mark : Nat
  take : BitVec 32
  tail : BitVec 32
  head : BitVec 32
  lost : BitVec 16
  err : BitVec 8
  act : Vector Word 3
  items : List QItem
  deferred : Option Nat
  fwding : Bool
  deriving DecidableEq, Repr

/-- The queue engine; hot is most recently used first. -/
structure Queues where
  lock : Bool
  qtb : BitVec 40
  hot : List QDesc
  deriving DecidableEq, Repr

/-! ### Interrupts, reliability, power, management (03, 17, 18, 19) -/

/-- INTU.VCFG of one vector (Table 3-11). -/
structure VCfg where
  en : Bool
  pend : Bool
  strand : StrandId
  prio : BitVec 4
  deriving DecidableEq, Repr

/-- The INTU page: VCFG of vectors 0x40 to 0xFF at index v − 0x40, TCMP and whether the timer is armed, the die lines. -/
structure Intu where
  vcfg : Vector VCfg 192
  tcmp : Vector Word 4
  armed : Vector Bool 4
  lines : BitVec 32
  deriving DecidableEq, Repr

/-- An error record (Table 17-4), eight words. -/
abbrev ErrRec := Vector Word32 8

/-- A physical error present in a structure of Table 17-1, at a place of Table 17-3; unc says uncorrectable. The faults of
nature are state that commands meet. [DESIGN CHOICE, log 46] -/
structure ErrMark where
  code : Nat
  loc : Nat
  unc : Bool
  deriving DecidableEq, Repr

/-- Checkpoint engine states (Table 17-2). -/
inductive CkSt where
  | idle
  | drain
  | copy
  | done
  | failed
  deriving DecidableEq, Repr

/-- The REL page and the checkpoint engine (17). ckpos is the image offset of the next FST, ckacc the CRC register over the bytes sent (R410). -/
structure Rel where
  abfwd : Bool
  ffen : Bool
  frozen : Bool
  aborted : Bool
  halted : Bool
  ceth : Bool
  cethIen : Bool
  nextf : Fin 4
  nextc : Fin 16
  cethr : BitVec 16
  cecount : BitVec 16
  abst : BitVec 32
  abt : Word
  ffL2 : BitVec 14
  ffSp : BitVec 16
  fovf : BitVec 16
  ckga : Word
  ckoff : BitVec 10
  cklen0 : BitVec 11
  ckst : CkSt
  ckerr : BitVec 8
  ckcrc : BitVec 32
  cklen : BitVec 24
  ckbanks : BitVec 2
  cktime : Word
  ckpos : Nat
  ckacc : Nat
  crec : Vector ErrRec 16
  frec : Vector ErrRec 4
  deriving DecidableEq, Repr

/-- The phase of a DVFS transition (R418). -/
inductive DvPh where
  | settle
  | relock
  | holdWait
  deriving DecidableEq, Repr

/-- Power states (Table 18-3); C1 and C2 are flags of their own. -/
inductive PState where
  | c0
  | c3
  | c4
  deriving DecidableEq, Repr

/-- The PWR page and the power manager (18). held is a DVFS point held while a gang stands (R470); warmDue is the cause of a warm reset that
waits for the near port (R391); mv holds the lower of the supply monitor's last two samples of VDD_CORE, VDD_SRAM and VDD_PLL in mV (R426), none where the rail was
last known to be above its warning threshold (R429); rst is the reset in progress (R430), coreEn and sramEn the regulator enables (R473), erase and density
what the loader took from the SFDP (R435). [DESIGN CHOICE, log 145] -/
structure Pwr where
  c2idle : BitVec 8
  c2en : Bool
  point : BitVec 2
  dv : Option (BitVec 2 × DvPh)
  held : Option (BitVec 2)
  hold : Bool
  vwarn : BitVec 3
  pfw : Bool
  romfw : Bool
  istat : BitVec 2
  ien : BitVec 2
  dvfs : BitVec 2
  cerr : BitVec 8
  clast : BitVec 3
  creq : Option (BitVec 3)
  wkTimers : Bool
  wkLines : Bool
  wkStrands : BitVec 4
  srst : BitVec 16
  brown : BitVec 16
  rstc : BitVec 4
  berr : BitVec 8
  bblock : BitVec 8
  dmdef : Bool
  bstate : BitVec 3
  inth : BitVec 8
  wbseq : BitVec 32
  wbfail : Bool
  wbsect : BitVec 4
  pstate : PState
  c1 : Bool
  vset : Nat
  warmDue : Option (BitVec 4)
  mv : Vector (Option Nat) 3
  rst : Option ResetKind
  coreEn : Bool
  sramEn : Bool
  erase : Option Byte
  density : BitVec 32
  deriving DecidableEq, Repr

/-- The settings taken from the configuration image (Table 18-8), and what was loaded. -/
structure Image where
  imgver : BitVec 16
  debug : Bool
  sig : Bool
  sigok : Bool
  csrv : Bool
  nblk : BitVec 9
  dmbase : BitVec 32
  bootvec : Word
  node : BitVec 14
  dvfs : BitVec 4
  vsettle : BitVec 8
  vset : Vector (BitVec 16) 4
  rampStep : Nat
  rampFloor : Nat
  pfwver : BitVec 16
  regions : Vector Region 16
  deriving DecidableEq, Repr

/-- The newest defect record (Table 18-9): whether there is one, SEQ, sector, WAYS, COLS and counts. -/
structure DefRec where
  valid : Bool
  seq : BitVec 32
  sect : BitVec 4
  ways : BitVec 32
  cols : BitVec 16
  counts : Vector (BitVec 8) 66
  deriving DecidableEq, Repr

/-- An access to the register block: its requester, whether it writes, the byte offset and the value (19). -/
structure RegAcc where
  req : Req
  we : Bool
  off : Nat
  v : Nat
  deriving DecidableEq, Repr

/-- The MGMT page, the port arbitration (lastB: port B was served last; wait: the accesses that wait for a reset to end, R445, R450), the latches of
TIME, and the word that a port read last (19). -/
structure Mgmt where
  dbin : Bool
  dbinIen : Bool
  dbval : Word32
  dbcnt : BitVec 8
  dbout : Word32
  outPend : Bool
  mbox : Vector Word32 8
  sem : Vector (Option Req) 32
  cycLatch : Vector Word 7
  gtLatch : Vector Word 7
  lastB : Bool
  wait : List RegAcc
  rdata : Word32
  deriving DecidableEq, Repr

/-- STRDBG.SEL and DERR (Table 2-10). -/
structure Strdbg where
  sel : Word32
  derr : Bool
  deriving DecidableEq, Repr

/-- The TELEM page (Table 19-9); due are the records that wait for the descriptor of their queue (R459, R376), mark the multiple of 100,000 that
GTIME had last reached when a sample was taken or could not be (R458). [DESIGN CHOICE, log 120] -/
structure Telem where
  en : Bool
  istat : BitVec 2
  ien : BitVec 2
  qnum : BitVec 20
  seq : BitVec 32
  last : Vector Word32 16
  due : List (List Byte)
  mark : Nat
  deriving DecidableEq, Repr

/-- The TRACE page (Table 19-11): the FIFO oldest first, each record four words, and the records dropped. -/
structure Trace where
  en : Bool
  kinds : BitVec 4
  strands : BitVec 4
  fifo : List (Vector Word32 4)
  dropped : BitVec 15
  deriving DecidableEq, Repr

/-- The states of the TAP controller in which a command leaves it (IEEE 1149.1); those of a scan are passed through within its command.
[PRESUMED, log 57] -/
inductive TapSt where
  | testLogicReset
  | updateIr
  | updateDr
  deriving DecidableEq, Repr

/-- The test access port (Table 19-12): the controller's state, the instruction register, what the last instruction scan shifted out, the data
register last captured, REGACC's state. -/
structure Tap where
  st : TapSt
  ir : BitVec 8
  irOut : BitVec 8
  dr : BitVec 51
  bypass : Bool
  rdata : Word32
  dataDone : Bool
  denied : Bool
  deriving DecidableEq, Repr

/-- The tie-offs (Table 20-1) and the build configuration; crb is CRB[51:18]. -/
structure Hw where
  lean : Bool
  stepping : BitVec 8
  crb : BitVec 34
  cidx : BitVec 3
  csize : BitVec 4
  farp : Bool
  epnum : BitVec 6
  tapMfr : BitVec 11
  keyHash : BitVec 256
  vsram : BitVec 12
  vpll : BitVec 12
  deriving DecidableEq, Repr

/-- What the block puts out at its boundary, oldest first in State.out: near-port reads and writes, invalidations and
their acknowledgements, gang operations (to the members of a quadrant row, or to one core) and a member's reports, snoop answers, link flits,
messages handed to the transport, the regulator's set point and enables (R473), SPI instructions with the bytes they write and the number of bytes they
read (R435), JABT_OUT (R477), and the register word that a near-port agent reads (R466). [DESIGN CHOICE, log 11] -/
inductive OutMsg where
  | nearRead (pa : Nat) (size : Nat) (own : Bool)
  | nearWrite (pa : Nat) (data : List Byte) (poison : Bool)
  | ntlbi (m : BitVec 2) (asid : BitVec 16) (va : Word)
  | ntlbiAck
  | gangCast (row : Nat) (op : GangOp)
  | gangMove (core : Nat) (op : GangOp)
  | gangReport (r : GangReport)
  | snoopAns (line : Nat) (held : Bool) (inFlight : Bool) (data : List Byte)
  | flit (f : Flit)
  | msg (m : FarMsg)
  | vcore (mv : Nat)
  | vrEn (core : Bool) (sram : Bool)
  | spi (op : Byte) (a : Nat) (data : List Byte) (n : Nat)
  | jabtOut (level : Bool)
  | regData (w : Word32)
  deriving DecidableEq, Repr

/-- The core's control registers held once, its clocks and its scheduler. cur is the running strand and last the strand
that gave up the core last; gtFrac counts eighteenths of a nanosecond below GTIME. -/
structure CoreRegs where
  edtb : Word
  gdtb : Word
  prof : BitVec 2
  jl : Bool
  cyc : Word
  gtime : Word
  gtFrac : Nat
  cur : Option StrandId
  last : StrandId
  hold : BitVec 4
  halted : Bool
  jabtOut : Bool
  jabtIn : Bool
  deriving DecidableEq, Repr

/-- The E3 block. near is the near physical memory as the block's coherent accesses find it, home as the die network holds it
(they differ in the lines that the caches hold dirty); free is the model's own
counter behind the free values; out is what the block has put out; pending are the commands that wait. fetching is the model's own too: whether
a step on an empty queue fetches the running strand's next instruction from memory. -/
structure State where
  hw : Hw
  feat : Vector Word 8
  core : CoreRegs
  strands : Vector Strand 4
  near : Mem
  home : Mem
  spad : Mem
  tiles : Tiles
  weevils : Vector Engine 4
  ms : MemSys
  far : Far
  queues : Queues
  intu : Intu
  rel : Rel
  marks : List ErrMark
  pwr : Pwr
  image : Image
  shadow : Image
  defrec : DefRec
  serial : Serial
  mgmt : Mgmt
  strdbg : Strdbg
  telem : Telem
  trace : Trace
  tap : Tap
  free : Nat
  out : List OutMsg
  fetching : Bool
  pending : List Instr
  deriving DecidableEq, Repr

/-- Why the machine stops. No command of the table stops this block: every effect is in the spec, and what the spec leaves
open is a free value; the constructor names the one state no command can act in. [DESIGN CHOICE, log 125] -/
inductive Fault where
  /-- Raised by no meaning: a place for an access to an address that the spec says does not exist (safe). -/
  | noSuchAddress
  deriving DecidableEq, Repr

/-- Why a command is refused. [DESIGN CHOICE, log 125] -/
inductive Refusal where
  /-- A command whose meaning is not written; raised only by an arm of exec (safe). -/
  | notModelled (mnemonic : String)
  deriving DecidableEq, Repr

/-! ### The state after reset

Each value below is the "At reset" value of the spec's tables; where the spec gives none (a register that is undef after
reset, a tie-off, a value of the configuration image), it is the value that notes/assumptions names. -/

/-- n copies of x. -/
abbrev vrep {α : Type} (n : Nat) (x : α) : Vector α n := Vector.replicate n x

/-- A save set of zeros. [DESIGN CHOICE, log 6] -/
def SaveSet.zero : SaveSet := { pc := 0, st := 0, ca := 0, fa := 0 }

/-- A machine save stack frame of zeros. -/
def MFrame.zero : MFrame := { save := SaveSet.zero, loops := [] }

/-- The registers of a strand after reset. [DESIGN CHOICE, log 6] -/
def Regs.zero : Regs := { g := vrep 16 0, g15 := vrep 3 0, f := vrep 32 0 }

/-- The window ring after reset: RESW 1, WCUR 0, every tag ML (Table 2-11). [DESIGN CHOICE, log 6] -/
def Win.zero : Win :=
  { ring := vrep 12 { l := vrep 8 0, i := vrep 8 0, tag := .ml }, wcur := 0, resw := 1 }

/-- The save sets after reset (Table 3-4). -/
def Saves.zero : Saves :=
  { u := SaveSet.zero, s := SaveSet.zero, m := MFrame.zero, mV := false, mOld := [], stkU := 0, stkS := 0, stkM := 0 }

/-- No MTC waits for SYNC.C. -/
def Pend.none : Pend :=
  { edtb := .none, gdtb := .none, tshape := .none, nprof := .none, ptb := .none, asid := .none, lvl := .none,
    sap := .none, sep := .none }

/-- STATUS after reset (Table 2-11). -/
def Status.zero : Status := { lvl := .ml, sap := false, sep := false, ie := false }

/-- The numeric registers after reset (Tables 1-11, 7-5, 9-6, 9-7, 10-9). -/
def NumRegs.zero : NumRegs := { tshape := 0b11, xpass := 0b01, numcnt := 0, numev := 0, sumr := 0, rowf := 0 }

/-- The translation registers after reset (14). -/
def XlRegs.zero : XlRegs := { ptb := 0, asid := 0, idx := 0, ftlo := 0, fthi := 0 }

/-- A tile context in NONE. -/
def Ctx.zero : Ctx := { st := .none, fa := 0, pad := 0, att := false, bank := 0, last := 0, pos := 0 }

/-- An invalid descriptor slot. -/
def DSlot.zero : DSlot := { valid := false, tag := .ml, lda := 0, dw := vrep 8 0 }

/-- An IDLE chain. -/
def Chain.zero : Chain :=
  { st := .idle, cause := 0, rsn := 0, step := 0, dbase := 0, dcnt := 0, io := 0, ii := 0, no := 0, ni := 0, faddr := 0,
    prog := [], paddr := 0, record := .none, killed := false }

/-- What waits for a strand after reset: nothing. -/
def RunInfo.zero (st : StState) : RunInfo :=
  { st := st, cond := .none, retBuf := .none, late := 0, merged := .none, entering := .none, profWait := false, pendEv := [], mchk := [],
    pend := Pend.none, dbgPend := Pend.none }

/-- A strand after cold reset: at the boot vector, at ML (R44). [DESIGN CHOICE, log 6] -/
def Strand.zero (st : StState) (boot : Word) : Strand :=
  { pc := boot, regs := Regs.zero, win := Win.zero, status := Status.zero, saves := Saves.zero,
    fctl := { rm := 0, flags := 0 }, loops := [], num := NumRegs.zero, xl := XlRegs.zero, run := RunInfo.zero st,
    ctx := vrep 3 Ctx.zero, cslots := vrep 64 0, dslots := vrep 64 DSlot.zero, chains := vrep 3 Chain.zero }

/-- A free Runnel entry. -/
def RnEntry.zero : RnEntry :=
  { st := .free, owner := { k := 0, lv := .ul }, int := false, shape := 0b11, data := [], res := 0, bound := false,
    drop := false }

/-- The governor after boot (Table 7-9, step 8 of Table 18-10). -/
def Governor.zero : Governor :=
  { lock := true, hold := false, cap := 16, step := 8, floor := 16, occ := 0, any := false, still := false }

/-- A partner of the cluster that has offered nothing. -/
def PartnerWord.zero : PartnerWord :=
  { st := .own, size := 0, point := 0b10, permit := true, ready := true, dispB := 0, dispA := 0, bTagEq := true, busy := false,
    reset := false, op := .none, rep := .none }

/-- No gang (Table 7-14). -/
def Gang.zero : Gang :=
  { st := .own, size := 0, master := 0, ctx := { k := 0, lv := .ul }, dispB := 0, dispA := 0, forming := .none,
    partners := vrep 8 PartnerWord.zero }

/-- The TMU after reset. -/
def Tmu.zero : Tmu :=
  { opcnt := 0, molt := 0, failc := 0x7F, counts := vrep 66 0, degr := false, gated := false, gov := Governor.zero,
    gang := Gang.zero }

/-- A bank that no context holds. [DESIGN CHOICE, log 48] -/
def Bank.zero : Bank := { owner := .none, cells := [] }

/-- Tile work after reset. -/
def Tiles.zero : Tiles :=
  { banks := vrep 2 Bank.zero, claims := [], claim := .none, inflight := [], runnel := vrep 8 RnEntry.zero,
    tmu := Tmu.zero, stamp := 0 }

/-- An IDLE gather engine. -/
def Engine.zero : Engine :=
  { st := .idle, k := 0, lv := .ul, sap := false, ptb := 0, asid := 0, blk := vrep 8 0, baddr := 0, next := 0, row := 0,
    off := 0, elem := .none, ahead := .none, pieces := [], rsn := 0, frsp := 0, cause := 0, faddr := 0, fail := .none, killed := false, stamp := 0,
    record := .none }

/-- An empty cache array with no way disabled. [DESIGN CHOICE, log 30] -/
def CacheArr.zero : CacheArr := { lines := [], plru := [], dis := 0, counts := [] }

/-- A region of type 0 and no extent. -/
def Region.zero : Region := { base := 0, lim := 0, typ := 0 }

/-- The CACHE page after reset (Table 13-6). -/
def CachePage.zero : CachePage :=
  { rlock := false, wlim := false, cmd := .none, sthr := 8, pfdepth := 4, ssen := true, pfen := true, pren := false,
    prew := 0, lock := 0, down := 0, l2off := 0, cleaning := [], regions := vrep 16 Region.zero }

/-- Caches and TLBs after cold reset: nothing held. -/
def MemSys.zero : MemSys :=
  { l1i := CacheArr.zero, l1d := CacheArr.zero, l2 := CacheArr.zero, mshr := [], lmiss := [], imiss := [], evbuf := [], snoops := [], maint := [], engAt := [], preads := [], lateW := [], side := [],
    trackers := vrep 16 { page := 0, last := 0, stride := 0, n := 0 },
    strackers := vrep 4 { last := 0, dir := 0, n := 0 }, page := CachePage.zero, itlb := [], dtlb := [],
    l2tlb := [], ftlb := vrep 256 (0, 0), vict := 0, ntlbi := .none, ntlbiDone := false, ackDue := 0 }

/-- The FAR page after reset (Table 15-12). -/
def FarRegs.zero (node : BitVec 14) : FarRegs :=
  { lock := false, tfollow := false, ufred := false, eplog2 := 0, en := false, lstate := .down, pver := 0, retrains := 0,
    istat := 0, ien := 0, node := node, epoch := 0, auth := false, aep := 0, anode := 0, floor := 3, jepoch := 0,
    jreason := 0, jstate := .unjoined, rvmask := 1, jrprof := 0b11, jrfloor := 3, jrefep := 0, jmap := 0, scb := 0,
    expb := 0, expl := 0, rtry := 8, rtime := 50, wto := 10000, alarm := false, skew := 0, ldly := 0 }

/-- A link that is down with nothing sent. -/
def Link.zero : Link :=
  { snd := .down, fseq := 0, buf := [], replays := 0, nacked := false, erx := 0, recvAny := false,
    credits := #v[128, 128, 16], rx := vrep 3 [], waiting := [], freed := vrep 3 0, linkup := false, retrain := false }

/-- An IDLE reduction window. -/
def RWin.zero : RWin :=
  { st := .idle, cntm1 := 0, nm1 := 0, int := false, op := 0, qp := false, fwd := false, spa := 0, rpa := 0, qnum := 0,
    handle := 0, gen := 0, next := 0, present := [], sat := 0, flush := 0, lastSat := 0, lastFlush := 0, since := 0 }

/-- The far port after reset. -/
def Far.zero (node : BitVec 14) : Far :=
  { regs := FarRegs.zero node, link := Link.zero, src := [], tgt := [], reqs := [], nextReq := 0,
    wins := vrep 64 RWin.zero, rxMsgs := [], jtok := 0, jmsg := .none, jsends := 0, jsent := 0, slew := 0, sgens := [] }

/-- The INTU page after reset (Tables 3-11, 3-12). [DESIGN CHOICE, log 26] -/
def Intu.zero : Intu :=
  { vcfg := vrep 192 { en := false, pend := false, strand := 0, prio := 0 }, tcmp := vrep 4 0, armed := vrep 4 true,
    lines := 0 }

/-- The REL page after cold reset (Table 17-2). -/
def Rel.zero : Rel :=
  { abfwd := true, ffen := true, frozen := false, aborted := false, halted := false, ceth := false, cethIen := false,
    nextf := 0, nextc := 0, cethr := 16, cecount := 0, abst := 0, abt := 0, ffL2 := 0, ffSp := 0, fovf := 0, ckga := 0,
    ckoff := 0, cklen0 := 0, ckst := .idle, ckerr := 0, ckcrc := 0, cklen := 0, ckbanks := 0, cktime := 0,
    ckpos := 0, ckacc := 0, crec := vrep 16 (vrep 8 0), frec := vrep 4 (vrep 8 0) }

/-- The PWR page after power-up and boot (Table 18-12). [DESIGN CHOICE, log 5] -/
def Pwr.zero : Pwr :=
  { c2idle := 20, c2en := true, point := 0b10, dv := .none, held := .none, hold := false, vwarn := 0, pfw := false,
    romfw := true, istat := 0, ien := 0b01, dvfs := 0b10, cerr := 0, clast := 0, creq := .none, wkTimers := true,
    wkLines := true, wkStrands := 0b0001, srst := 0, brown := 0, rstc := 1, berr := 0, bblock := 0, dmdef := false,
    bstate := 2, inth := 24, wbseq := 0, wbfail := false, wbsect := 0, pstate := .c0, c1 := false, vset := 800,
    warmDue := .none, mv := vrep 3 none, rst := .none, coreEn := true, sramEn := true, erase := some 0x20, density := 0x07FFFFFF }

/-- The settings of the image that reset assumes (the set points of Table 18-2's example image). [DESIGN CHOICE, log 5] -/
def Image.zero : Image :=
  { imgver := 0, debug := false, sig := false, sigok := false, csrv := false, nblk := 1, dmbase := 0, bootvec := 0,
    node := 0, dvfs := 0b1111, vsettle := 1, vset := #v[650, 720, 800, 860], rampStep := 8, rampFloor := 16, pfwver := 0,
    regions := vrep 16 Region.zero }

/-- No defect record. [DESIGN CHOICE, log 5] -/
def DefRec.zero : DefRec := { valid := false, seq := 0, sect := 0, ways := 0, cols := 0x007F, counts := vrep 66 0 }

/-- The MGMT page and the TIME latches after reset (Table 19-6). [DESIGN CHOICE, log 118] -/
def Mgmt.zero : Mgmt :=
  { dbin := false, dbinIen := false, dbval := 0, dbcnt := 0, dbout := 0, outPend := false, mbox := vrep 8 0,
    sem := vrep 32 .none, cycLatch := vrep 7 0, gtLatch := vrep 7 0, lastB := false, wait := [], rdata := 0 }

/-- The TELEM page after reset (Table 19-9). -/
def Telem.zero : Telem := { en := false, istat := 0, ien := 0b01, qnum := 0, seq := 0, last := vrep 16 0, due := [], mark := 0 }

/-- The TRACE page after reset (Table 19-11). -/
def Trace.zero : Trace := { en := false, kinds := 0, strands := 0xF, fifo := [], dropped := 0 }

/-- The test access port after TRST_N: Test-Logic-Reset, in which IDCODE is the instruction (IEEE 1149.1). [PRESUMED, log 57] -/
def Tap.zero : Tap := { st := .testLogicReset, ir := 0x01, irOut := 0x01, dr := 0, bypass := false, rdata := 0, dataDone := true, denied := false }

/-- The tie-offs that reset assumes: E3-F, stepping 1, core 0 of a cluster of 8, the far port connected.
[DESIGN CHOICE, log 7] -/
def Hw.zero : Hw :=
  { lean := false, stepping := 1, crb := 0x3C0000, cidx := 0, csize := 8, farp := true, epnum := 0, tapMfr := 0,
    keyHash := 0, vsram := 800, vpll := 800 }

/-- FEAT0 to FEAT7 of that build and image (Tables 1-2 to 1-9). -/
def featReset : Vector Word 8 :=
  #v[0x000000E301010103, 0x0000000007024003, 0x0000000007FF07FF, 0x0000000000080006, 0x000007F100020404,
     0x000000000C040014, 0x0000040040000301, 0x00000000000000F0]

/-- The core's registers after reset, strand 0 running (R44). -/
def CoreRegs.zero : CoreRegs :=
  { edtb := 0, gdtb := 0, prof := 0b11, jl := false, cyc := 0, gtime := 0, gtFrac := 0, cur := some 0, last := 0, hold := 0b1110,
    halted := false, jabtOut := false, jabtIn := false }

/-- The serial memory that reset assumes: a flash of 16 MiB with 4 KiB erase that holds nothing. [DESIGN CHOICE, log 5]
[PRESUMED, log 141] -/
def Serial.zero : Serial :=
  { sfdp := [0x53, 0x46, 0x44, 0x50, 0x00, 0x01, 0x00, 0xFF, 0x00, 0x00, 0x01, 0x02, 0x10, 0x00, 0x00, 0xFF, 0x01, 0x20, 0x00, 0x00, 0xFF, 0xFF, 0xFF, 0x07],
    flash := [], faults := [] }

/-- The machine right after reset: the boot sequence has completed, strand 0 runs at the boot vector at ML, strands 1 to 3
are stopped (R44), and no command waits. [DESIGN CHOICE, log 5] -/
def State.reset : State :=
  { hw := Hw.zero, feat := featReset, core := CoreRegs.zero,
    strands := #v[Strand.zero .running 0, Strand.zero .stopped 0, Strand.zero .stopped 0, Strand.zero .stopped 0],
    near := [], home := [], spad := [], tiles := Tiles.zero, weevils := vrep 4 Engine.zero, ms := MemSys.zero, far := Far.zero 0,
    queues := { lock := false, qtb := 0, hot := [] }, intu := Intu.zero, rel := Rel.zero, marks := [], pwr := Pwr.zero,
    image := Image.zero, shadow := Image.zero, defrec := DefRec.zero, serial := Serial.zero, mgmt := Mgmt.zero,
    strdbg := { sel := 0, derr := false }, telem := Telem.zero, trace := Trace.zero, tap := Tap.zero, free := 0, out := [],
    fetching := false, pending := [] }

end Sys2Proof.Machine
end

