-- ==== Sys2Proof/Machine/Ops.lean ====
section
/-! DEFINITION. The named operations over bytes, strands, registers and levels that every meaning shares. -/

namespace Sys2Proof

/-! ### Levels (Table 2-11) -/

/-- The LVL code of a level. -/
def Lvl.code : Lvl → Nat
  | .ul => 0
  | .sl => 1
  | .ml => 3

/-- The place of a level in the order of privilege, and in vectors indexed U, S, M. -/
def Lvl.rank : Lvl → Fin 3
  | .ul => 0
  | .sl => 1
  | .ml => 2

/-- The level of an LVL code; 0b10 reads as ML (R71, Table 3-3). -/
def lvlOf (c : Nat) : Lvl := if c % 4 = 0 then .ul else if c % 4 = 1 then .sl else .ml

/-- Whether a is less privileged than b. -/
def Lvl.below (a b : Lvl) : Bool := decide (a.rank < b.rank)

/-- The more privileged of two levels. -/
def Lvl.most (a b : Lvl) : Lvl := if a.below b then b else a

/-- The less privileged of two levels. -/
def Lvl.least (a b : Lvl) : Lvl := if a.below b then a else b

/-- The next more privileged level. -/
def Lvl.next : Lvl → Lvl
  | .ul => .sl
  | .sl => .ml
  | .ml => .ml

end Sys2Proof

namespace Sys2Proof.Machine

open Sys2Proof

/-- A meaning's answer: a next state. -/
abbrev Out := Host.Outcome State Fault Refusal

/-! ### Vectors -/

/-- The vector with element i changed by f. -/
def vmod {α : Type} {n : Nat} (v : Vector α n) (i : Fin n) (f : α → α) : Vector α n := v.set i (f v[i]) i.isLt

/-- The vector with element i changed by f, unchanged when i is out of range. -/
def vupd {α : Type} {n : Nat} (v : Vector α n) (i : Nat) (f : α → α) : Vector α n :=
  if h : i < n then v.set i (f v[i]) h else v

/-! ### Bytes and memory -/

/-- The byte at an address; an address that is not listed reads 0. [DESIGN CHOICE, log 8] -/
def Mem.get : Mem → Nat → Byte
  | [], _ => 0
  | (x, b) :: r, a => if a = x then b else if a < x then 0 else Mem.get r a

/-- The memory with byte b at address a, in canonical form. -/
def Mem.put : Mem → Nat → Byte → Mem
  | [], a, b => if b = 0 then [] else [(a, b)]
  | (x, c) :: r, a, b =>
    if a < x then (if b = 0 then (x, c) :: r else (a, b) :: (x, c) :: r)
    else if a = x then (if b = 0 then r else (a, b) :: r)
    else (x, c) :: Mem.put r a b

/-- The canonical form: addresses strictly rising, no entry of 0. -/
def Memory.wf : Mem → Bool
  | [] => true
  | [(_, b)] => b != 0
  | (x, b) :: (y, c) :: r => b != 0 && decide (x < y) && Memory.wf ((y, c) :: r)

/-- n bytes from address a upward. -/
def Mem.getN (m : Mem) (a : Nat) : Nat → List Byte
  | 0 => []
  | n + 1 => m.get a :: Mem.getN m (a + 1) n

/-- The memory with bytes from address a upward. -/
def Mem.putN (m : Mem) (a : Nat) : List Byte → Mem
  | [] => m
  | b :: r => Mem.putN (m.put a b) (a + 1) r

/-- The number whose bytes are given, least significant first. -/
def leNat : List Byte → Nat
  | [] => 0
  | b :: r => b.toNat + 256 * leNat r

/-- The n bytes of a number, least significant first. -/
def toLE : Nat → Nat → List Byte
  | 0, _ => []
  | n + 1, v => BitVec.ofNat 8 v :: toLE n (v / 256)

/-- The n-byte number at address a. -/
def Mem.getLE (m : Mem) (a n : Nat) : Nat := leNat (m.getN a n)

/-- The memory with the n-byte number v at address a. -/
def Mem.putLE (m : Mem) (a n v : Nat) : Mem := m.putN a (toLE n v)

/-- The memory with n bytes from a upward set to 0. -/
def Mem.zeroN (m : Mem) (a n : Nat) : Mem := m.filter (fun c => decide (c.1 < a) || decide (a + n ≤ c.1))

/-- The listed bytes of the n bytes from a upward, at offsets from 0. -/
def Mem.slice (m : Mem) (a n : Nat) : Mem :=
  (m.filter (fun c => decide (a ≤ c.1) && decide (c.1 < a + n))).map (fun c => (c.1 - a, c.2))

/-- A 64-bit field insert: bits [lo + w − 1 : lo] of a number. -/
def fld (v lo : Nat) : Nat := v * 2 ^ lo

/-- The low w bits of a two's complement integer. -/
def wrapInt (w : Nat) (x : Int) : Nat := (x % (2 ^ w : Int)).toNat

/-- A number of w bits read as two's complement. -/
def sInt (w n : Nat) : Int := if n < 2 ^ (w - 1) then (n : Int) else (n : Int) - (2 ^ w : Int)

/-! ### Strands -/

/-- The strand k. -/
def State.str (s : State) (k : StrandId) : Strand := s.strands[k]

/-- Change strand k. -/
def State.modStr (s : State) (k : StrandId) (f : Strand → Strand) : State := { s with strands := vmod s.strands k f }

/-- Change what waits for strand k. -/
def State.modRun (s : State) (k : StrandId) (f : RunInfo → RunInfo) : State :=
  s.modStr k (fun t => { t with run := f t.run })

/-- Change the core's own registers. -/
def State.modCore (s : State) (f : CoreRegs → CoreRegs) : State := { s with core := f s.core }

/-- Change tile work. -/
def State.modTiles (s : State) (f : Tiles → Tiles) : State := { s with tiles := f s.tiles }

/-- Change the TMU. -/
def State.modTmu (s : State) (f : Tmu → Tmu) : State := s.modTiles (fun t => { t with tmu := f t.tmu })

/-- Change caches and TLBs. -/
def State.modMs (s : State) (f : MemSys → MemSys) : State := { s with ms := f s.ms }

/-- Change the CACHE page. -/
def State.modPage (s : State) (f : CachePage → CachePage) : State := s.modMs (fun m => { m with page := f m.page })

/-- Change the far port. -/
def State.modFar (s : State) (f : Far → Far) : State := { s with far := f s.far }

/-- Change the FAR page. -/
def State.modFarRegs (s : State) (f : FarRegs → FarRegs) : State := s.modFar (fun x => { x with regs := f x.regs })

/-- Change the link layer. -/
def State.modLink (s : State) (f : Link → Link) : State := s.modFar (fun x => { x with link := f x.link })

/-- Change the REL page. -/
def State.modRel (s : State) (f : Rel → Rel) : State := { s with rel := f s.rel }

/-- Change the PWR page. -/
def State.modPwr (s : State) (f : Pwr → Pwr) : State := { s with pwr := f s.pwr }

/-- Change the MGMT page. -/
def State.modMgmt (s : State) (f : Mgmt → Mgmt) : State := { s with mgmt := f s.mgmt }

/-- Change the INTU page. -/
def State.modIntu (s : State) (f : Intu → Intu) : State := { s with intu := f s.intu }

/-- Change tile context (k, lv). -/
def State.modCtx (s : State) (c : CtxId) (f : Ctx → Ctx) : State :=
  s.modStr c.k (fun t => { t with ctx := vmod t.ctx c.lv.rank f })

/-- Tile context (k, lv). -/
def State.ctxOf (s : State) (c : CtxId) : Ctx := (s.str c.k).ctx[c.lv.rank]

/-- Change the chain of context (k, lv). -/
def State.modChain (s : State) (c : CtxId) (f : Chain → Chain) : State :=
  s.modStr c.k (fun t => { t with chains := vmod t.chains c.lv.rank f })

/-- The chain of context (k, lv). -/
def State.chainOf (s : State) (c : CtxId) : Chain := (s.str c.k).chains[c.lv.rank]

/-- Put a message out at the boundary; a write reaches the memory that the die network holds. [DESIGN CHOICE, log 11] -/
def State.emit (s : State) (m : OutMsg) : State :=
  match m with
  | .nearWrite pa d _ => { s with out := s.out ++ [m], home := s.home.putN pa d }
  | _ => { s with out := s.out ++ [m] }

/-- Take a free value: a value the spec leaves open, from Config.freeWord, with the counter moved on. [DESIGN CHOICE, log 9] -/
def State.freeVal (s : State) : Word × State := (Config.freeWord s.free, { s with free := s.free + 1 })

/-! ### Register specifiers (R88, R46, R48) -/

/-- The slot of the window after the current one. -/
def Win.nextSlot (w : Win) : Fin 12 := w.wcur + 1

/-- The ring with slot i changed by f. -/
def Win.modSlot (w : Win) (i : Fin 12) (f : Slot → Slot) : Win := { w with ring := vmod w.ring i f }

/-- Whether a specifier names an integer register (Table 4-2). -/
def xOk (r : RSpec) : Bool := decide (r.toNat < 0x28)

/-- Whether a specifier names a floating register (Table 4-2). -/
def fOk (r : RSpec) : Bool := decide (r.toNat < 0x20)

/-- The integer register a specifier names; g0 and reserved codes read 0. -/
def Strand.x (t : Strand) (r : RSpec) : Word :=
  let n := r.toNat
  if n = 0 then 0
  else if n < 15 then t.regs.g.getD n 0
  else if n = 15 then t.regs.g15[t.status.lvl.rank]
  else if n < 0x18 then (t.win.ring[t.win.nextSlot]).i.getD (n - 0x10) 0
  else if n < 0x20 then (t.win.ring[t.win.wcur]).l.getD (n - 0x18) 0
  else if n < 0x28 then (t.win.ring[t.win.wcur]).i.getD (n - 0x20) 0
  else 0

/-- Write the integer register a specifier names; a write to g0 is discarded. -/
def Strand.setX (t : Strand) (r : RSpec) (v : Word) : Strand :=
  let n := r.toNat
  if n = 0 then t
  else if n < 15 then { t with regs := { t.regs with g := vupd t.regs.g n (fun _ => v) } }
  else if n = 15 then { t with regs := { t.regs with g15 := vmod t.regs.g15 t.status.lvl.rank (fun _ => v) } }
  else if n < 0x18 then
    { t with win := t.win.modSlot t.win.nextSlot (fun q => { q with i := vupd q.i (n - 0x10) (fun _ => v) }) }
  else if n < 0x20 then
    { t with win := t.win.modSlot t.win.wcur (fun q => { q with l := vupd q.l (n - 0x18) (fun _ => v) }) }
  else if n < 0x28 then
    { t with win := t.win.modSlot t.win.wcur (fun q => { q with i := vupd q.i (n - 0x20) (fun _ => v) }) }
  else t

/-- The floating register a specifier names. -/
def Strand.f (t : Strand) (r : RSpec) : Word := t.regs.f.getD r.toNat 0

/-- Write the floating register a specifier names. -/
def Strand.setF (t : Strand) (r : RSpec) (v : Word) : Strand :=
  { t with regs := { t.regs with f := vupd t.regs.f r.toNat (fun _ => v) } }

/-- Write an integer register of strand k. -/
def State.setX (s : State) (k : StrandId) (r : RSpec) (v : Word) : State := s.modStr k (fun t => t.setX r v)

/-- Write a floating register of strand k. -/
def State.setF (s : State) (k : StrandId) (r : RSpec) (v : Word) : State := s.modStr k (fun t => t.setF r v)

/-! ### STATUS and the save sets (Table 2-11, Table 3-4, R69) -/

/-- Windows that are free: 11 − RESW (R48). -/
def Win.free (w : Win) : Nat := 11 - w.resw

/-- The slot of the oldest resident window (02, The window ring). -/
def Win.oldest (w : Win) : Fin 12 := w.wcur + 1 - Fin.ofNat 12 w.resw

/-- STATUS as MFC reads it. -/
def statusWord (k : StrandId) (t : Strand) : Word :=
  w64 (fld k.val 28 + fld t.win.resw 24 + fld t.win.wcur.val 20 + fld (t.win.ring[t.win.oldest]).tag.code 18
    + fld (bit t.status.sep) 11 + fld (bit t.status.sap) 10 + fld t.status.lvl.code 8 + bit t.status.ie)

/-- The save set of a level; M is the top of the machine save stack. -/
def Strand.save (t : Strand) : Lvl → SaveSet
  | .ul => t.saves.u
  | .sl => t.saves.s
  | .ml => t.saves.m.save

/-- Change the save set of a level. -/
def Strand.modSave (t : Strand) (y : Lvl) (f : SaveSet → SaveSet) : Strand :=
  match y with
  | .ul => { t with saves := { t.saves with u := f t.saves.u } }
  | .sl => { t with saves := { t.saves with s := f t.saves.s } }
  | .ml => { t with saves := { t.saves with m := { t.saves.m with save := f t.saves.m.save } } }

/-- STKLIM of a level. -/
def Strand.stkLim (t : Strand) : Lvl → Word
  | .ul => t.saves.stkU
  | .sl => t.saves.stkS
  | .ml => t.saves.stkM

/-- g15 of a level. -/
def Strand.g15 (t : Strand) (y : Lvl) : Word := t.regs.g15[y.rank]

/-- Write g15 of a level. -/
def Strand.setG15 (t : Strand) (y : Lvl) (v : Word) : Strand :=
  { t with regs := { t.regs with g15 := vmod t.regs.g15 y.rank (fun _ => v) } }

/-- Frames held on the machine save stack. -/
def Strand.mssFrames (t : Strand) : Nat := if t.saves.mV then t.saves.mOld.length + 1 else 0

/-- SVCA.V. For ML it says whether the machine save stack holds a frame (R69). -/
def Strand.svV (t : Strand) (y : Lvl) : Bool :=
  match y with
  | .ml => t.saves.mV
  | y => (t.save y).ca.getLsbD 63

/-- SVCA.DEPTH. For ML it counts the frames beneath the top (R69). -/
def Strand.svDepth (t : Strand) (y : Lvl) : Nat :=
  match y with
  | .ml => t.mssFrames - 1
  | y => bits (t.save y).ca.toNat 62 48

/-- SVCA of a level as MFC reads it: V and DEPTH of SVCA.M follow the machine save stack (R64). -/
def Strand.svca (t : Strand) (y : Lvl) : Word :=
  match y with
  | .ml => w64 (fld (bit t.saves.mV) 63 + fld (t.mssFrames - 1) 48 + bits (t.save .ml).ca.toNat 47 0)
  | y => (t.save y).ca

/-! ### Loops (R114, Table 4-12) -/

/-- END of a loop: START + 4 × (len − 1). -/
def Loop.last (l : Loop) : Word := l.start + 4 * (w64 l.len.toNat - 1)

/-- The 32-byte loop record of the active loops, outer first. -/
def loopRecord (ls : List Loop) : List Byte :=
  match ls with
  | [] => toLE 32 0
  | [o] => toLE 8 o.start.toNat ++ toLE 8 0 ++ toLE 8 o.count.toNat ++ toLE 8 (fld 1 24 + o.len.toNat)
  | o :: i :: _ =>
    toLE 8 o.start.toNat ++ toLE 8 i.start.toNat ++ toLE 8 (fld i.count.toNat 32 + o.count.toNat)
      ++ toLE 8 (fld 1 25 + fld 1 24 + fld i.len.toNat 12 + o.len.toNat)

/-- The loops that a 32-byte record restores: none when the inner loop is active without the outer (R117).
[DESIGN CHOICE, log 25] -/
def loopsOf (b : List Byte) : List Loop :=
  let d := fun i => leNat ((b.drop (8 * i)).take 8)
  let c := d 3
  let o : Loop := { start := w64 (d 0), len := BitVec.ofNat 12 (bits c 11 0), count := BitVec.ofNat 32 (bits (d 2) 31 0) }
  let i : Loop := { start := w64 (d 1), len := BitVec.ofNat 12 (bits c 23 12), count := BitVec.ofNat 32 (bits (d 2) 63 32) }
  if tbit c 24 then (if tbit c 25 then [o, i] else [o]) else []

/-- Whether the n-byte instruction at pc contains the word at address w. -/
def holdsWord (pc : Word) (n : Nat) (w : Word) : Bool := w == pc || (n == 8 && w == pc + 4)

/-- One loop step after the n-byte instruction at pc completes (R115): the loops left and the PC. -/
def loopStep (ls : List Loop) (pc : Word) (n : Nat) : List Loop × Word :=
  let nx := pc + w64 n
  match ls with
  | [] => ([], nx)
  | [o] =>
    if holdsWord pc n o.last then
      (if o.count - 1 = 0 then ([], nx) else ([{ o with count := o.count - 1 }], o.start))
    else ([o], nx)
  | o :: i :: r =>
    if holdsWord pc n i.last then
      if i.count - 1 = 0 then
        if o.last = i.last then
          (if o.count - 1 = 0 then ([], nx) else ([{ o with count := o.count - 1 }], o.start))
        else ([o], nx)
      else (o :: { i with count := i.count - 1 } :: r, i.start)
    else (ls, nx)

/-! ### Trace (R460, R461) -/

/-- A trace record enters the FIFO, or is dropped while 256 stand in it (R460, R461). [DESIGN CHOICE, log 121] -/
def State.tracePut (s : State) (kind : Nat) (k : Option StrandId) (lv : Nat) (code : Nat) (addr : Word) : State :=
  let t := s.trace
  if t.fifo.length < 256 then
    let w0 := fld kind 28 + fld ((k.getD 0).val) 26 + fld (lv % 4) 24 + fld (code % 256) 16
      + fld (bit (t.dropped != 0)) 15 + t.dropped.toNat
    let r : Vector Word32 4 := #v[w32 w0, w32 s.core.gtime.toNat, w32 addr.toNat, w32 (addr.toNat / 2 ^ 32)]
    { s with trace := { t with fifo := t.fifo ++ [r], dropped := 0 } }
  else { s with trace := { t with dropped := if t.dropped = 0x7FFF then 0x7FFF else t.dropped + 1 } }

/-- Add a trace record of a kind of a strand, while both are enabled (0 entries and returns, 1 switches, 2 gates, as bits of KINDS, R460).
[DESIGN CHOICE, log 121] -/
def State.traceAdd (s : State) (kbit : Nat) (kind : Nat) (k : StrandId) (lv : Nat) (code : Nat) (addr : Word) : State :=
  if s.trace.en && s.trace.kinds.getLsbD kbit && s.trace.strands.getLsbD k.val then s.tracePut kind (some k) lv code addr else s

/-! ### The scratchpad (R283) -/

/-- The scratchpad's size in bytes. -/
def State.spadSize (s : State) : Nat := if s.hw.lean then 0x100000 else 0x400000

/-- SPW, the base of the window. -/
def spw : Nat := 0x7E0000000000

/-- Whether a virtual address is a window address. -/
def isWin (va : Word) : Bool := decide (spw ≤ va.toNat) && decide (va.toNat < spw + 0x1000000)

/-- Gather engines (FEAT4.WEEVILS). -/
def State.nWeevils (s : State) : Nat := if s.hw.lean then 2 else 4

/-- Physical tile banks (FEAT1.BANKS). -/
def State.nBanks (s : State) : Nat := if s.hw.lean then 1 else 2

end Sys2Proof.Machine
end

