-- ==== Sys2Proof/Machine/Flags.lean ====
section
/-! DEFINITION. Scalar floating point: exact values, the rounding of IEEE 754-2019 and the FCTL flags that each operation
raises (04, R105 to R108). -/

namespace Sys2Proof.Machine

open Sys2Proof

/-! ### Formats and values -/

/-- A binary format: exponent bits and stored significand bits. -/
structure FpFmt where
  eb : Nat
  mb : Nat
  deriving DecidableEq, Repr

/-- binary16. -/
def fmtH : FpFmt := { eb := 5, mb := 10 }
/-- binary32. -/
def fmtS : FpFmt := { eb := 8, mb := 23 }
/-- binary64. -/
def fmtD : FpFmt := { eb := 11, mb := 52 }

/-- The width of a format. -/
def FpFmt.width (q : FpFmt) : Nat := 1 + q.eb + q.mb

/-- The exponent of the least significant subnormal bit. -/
def FpFmt.qmin (q : FpFmt) : Int := 2 - (2 ^ (q.eb - 1) : Int) - (q.mb : Int)

/-- A floating value: NaN with its fraction, infinity, or (−1)^s × m × 2^e. -/
inductive Fv where
  | nan (s : Bool) (frac : Nat)
  | inf (s : Bool)
  | fin (s : Bool) (m : Nat) (e : Int)
  deriving DecidableEq, Repr

/-- The value of a bit pattern. -/
def FpFmt.dec (q : FpFmt) (b : Nat) : Fv :=
  let s := tbit b (q.eb + q.mb)
  let x := bits b (q.eb + q.mb - 1) q.mb
  let f := b % 2 ^ q.mb
  if x = 2 ^ q.eb - 1 then (if f = 0 then .inf s else .nan s f)
  else if x = 0 then .fin s f q.qmin
  else .fin s (2 ^ q.mb + f) (q.qmin + ((x : Int) - 1))

/-- A sign bit in place. -/
def FpFmt.sgn (q : FpFmt) (s : Bool) : Nat := if s then 2 ^ (q.eb + q.mb) else 0

/-- The pattern of infinity. -/
def FpFmt.inf (q : FpFmt) (s : Bool) : Nat := q.sgn s + (2 ^ q.eb - 1) * 2 ^ q.mb

/-- The pattern of the largest finite value. -/
def FpFmt.big (q : FpFmt) (s : Bool) : Nat := q.inf s - 1

/-- The positive quiet NaN (R107). -/
def FpFmt.qnan (q : FpFmt) : Nat := q.inf false + 2 ^ (q.mb - 1)

/-- Whether a value is a NaN. -/
def Fv.isNan : Fv → Bool
  | .nan _ _ => true
  | _ => false

/-- Whether a value is a signalling NaN of the format. -/
def FpFmt.isSnan (q : FpFmt) : Fv → Bool
  | .nan _ f => ! tbit f (q.mb - 1)
  | _ => false

/-- A NaN quieted by setting the significand's top bit (R107). -/
def FpFmt.quiet (q : FpFmt) (s : Bool) (f : Nat) : Nat :=
  q.inf s + (if tbit f (q.mb - 1) then f else f + 2 ^ (q.mb - 1))

/-- FCTL flags by name. -/
def fNV : Nat := 16
/-- Division by zero. -/
def fDZ : Nat := 8
/-- Overflow. -/
def fOF : Nat := 4
/-- Underflow. -/
def fUF : Nat := 2
/-- Inexact. -/
def fNX : Nat := 1

/-- A result pattern with the flags raised. -/
abbrev FR := Nat × Nat

/-! ### Rounding (R105, R107) -/

/-- Whether a magnitude with remainder rem of 2^sh rounds up under attribute rm. -/
def roundUp (rm : Nat) (s : Bool) (odd : Bool) (rem sh : Nat) : Bool :=
  if rem = 0 then false
  else
    match rm with
    | 0 => decide (2 ^ sh < 2 * rem) || (2 * rem == 2 ^ sh && odd)
    | 1 => false
    | 2 => s
    | 3 => ! s
    | _ => decide (2 ^ sh ≤ 2 * rem)

/-- m × 2^e rounded to a multiple of 2^t: the multiple and whether it is exact. -/
def roundAt (rm : Nat) (s : Bool) (m : Nat) (e t : Int) : Nat × Bool :=
  if t ≤ e then (m * 2 ^ (e - t).toNat, true)
  else
    let sh := (t - e).toNat
    let z := m / 2 ^ sh
    let rem := m % 2 ^ sh
    (if roundUp rm s (z % 2 == 1) rem sh then z + 1 else z, rem == 0)

/-- The rounded pattern of (−1)^s × m × 2^e with m > 0, tininess detected after rounding. -/
def FpFmt.round (q : FpFmt) (rm : Nat) (s : Bool) (m : Nat) (e : Int) : FR :=
  let top := e + (Nat.log2 m : Int)
  let t := max (top - (q.mb : Int)) q.qmin
  let r := roundAt rm s m e t
  let enc := if r.1 < 2 ^ q.mb then r.1 else ((t - q.qmin).toNat + 1) * 2 ^ q.mb + (r.1 - 2 ^ q.mb)
  let nx := if r.2 then 0 else fNX
  if (2 ^ q.eb - 1) * 2 ^ q.mb ≤ enc then
    let up := rm == 0 || rm == 4 || (rm == 2 && s) || (rm == 3 && ! s)
    (if up then q.inf s else q.big s, fOF + fNX)
  else
    let emin := q.qmin + (q.mb : Int)
    let u := roundAt rm s m e (top - (q.mb : Int))
    let tiny := decide (top < emin) && ! (decide (top + 1 = emin) && u.1 == 2 ^ (q.mb + 1))
    (q.sgn s + enc, nx + (if tiny && ! r.2 then fUF else 0))

/-- An exact sum or product m × 2^e whose sign for zero is given. -/
def FpFmt.pack (q : FpFmt) (rm : Nat) (zs s : Bool) (m : Nat) (e : Int) : FR :=
  if m = 0 then (q.sgn zs, 0) else q.round rm s m e

/-! ### NaN operands -/

/-- The first NaN of the operands, quieted, with NV when any operand signals; none when no operand is a NaN. -/
def FpFmt.nanOf (q : FpFmt) (vs : List Fv) : Option FR :=
  let nv := if vs.any q.isSnan then fNV else 0
  match vs.find? Fv.isNan with
  | some (.nan s f) => some (q.quiet s f, nv)
  | _ => none

/-- An invalid operation without a NaN operand. -/
def FpFmt.invalid (q : FpFmt) : FR := (q.qnan, fNV)

/-! ### Arithmetic -/

/-- The exact sum of two finite values as sign, magnitude and exponent. -/
def addExact (s1 : Bool) (m1 : Nat) (e1 : Int) (s2 : Bool) (m2 : Nat) (e2 : Int) : Bool × Nat × Int :=
  let e := min e1 e2
  let v1 : Int := (m1 * 2 ^ (e1 - e).toNat : Nat)
  let v2 : Int := (m2 * 2 ^ (e2 - e).toNat : Nat)
  let v := (if s1 then -v1 else v1) + (if s2 then -v2 else v2)
  (decide (v < 0), v.natAbs, e)

/-- The sum. -/
def FpFmt.add (q : FpFmt) (rm : Nat) (a b : Fv) : FR :=
  match q.nanOf [a, b] with
  | some r => r
  | none =>
    match a, b with
    | .inf s, .inf t => if s = t then (q.inf s, 0) else q.invalid
    | .inf s, _ => (q.inf s, 0)
    | _, .inf t => (q.inf t, 0)
    | .fin s1 m1 e1, .fin s2 m2 e2 =>
      let r := addExact s1 m1 e1 s2 m2 e2
      let zs := if m1 = 0 ∧ m2 = 0 ∧ s1 = s2 then s1 else rm == 2
      q.pack rm zs r.1 r.2.1 r.2.2
    | _, _ => q.invalid

/-- The negated value. -/
def Fv.neg : Fv → Fv
  | .nan s f => .nan s f
  | .inf s => .inf (! s)
  | .fin s m e => .fin (! s) m e

/-- The product. -/
def FpFmt.mul (q : FpFmt) (rm : Nat) (a b : Fv) : FR :=
  match q.nanOf [a, b] with
  | some r => r
  | none =>
    match a, b with
    | .inf s, .inf t => (q.inf (s != t), 0)
    | .inf s, .fin t m _ => if m = 0 then q.invalid else (q.inf (s != t), 0)
    | .fin s m _, .inf t => if m = 0 then q.invalid else (q.inf (s != t), 0)
    | .fin s m e, .fin t n f => q.pack rm (s != t) (s != t) (m * n) (e + f)
    | _, _ => q.invalid

/-- The quotient: enough bits of it with a sticky last bit. -/
def FpFmt.div (q : FpFmt) (rm : Nat) (a b : Fv) : FR :=
  match q.nanOf [a, b] with
  | some r => r
  | none =>
    match a, b with
    | .inf _, .inf _ => q.invalid
    | .inf s, .fin t _ _ => (q.inf (s != t), 0)
    | .fin s _ _, .inf t => (q.sgn (s != t), 0)
    | .fin s m e, .fin t n f =>
      if n = 0 then (if m = 0 then q.invalid else (q.inf (s != t), fDZ))
      else if m = 0 then (q.sgn (s != t), 0)
      else
        let k := q.mb + 4 + Nat.log2 n
        let num := m * 2 ^ k
        let z := num / n
        q.round rm (s != t) (2 * z + (if num % n = 0 then 0 else 1)) (e - f - (k : Int) - 1)
    | _, _ => q.invalid

/-- The integer square root, n bits of it. -/
def isqrtGo (v : Nat) : Nat → Nat → Nat
  | 0, r => r
  | i + 1, r => isqrtGo v i (if (r + 2 ^ i) * (r + 2 ^ i) ≤ v then r + 2 ^ i else r)

/-- The integer square root. -/
def isqrt (v : Nat) : Nat := isqrtGo v (Nat.log2 v / 2 + 1) 0

/-- The square root. -/
def FpFmt.sqrt (q : FpFmt) (rm : Nat) (a : Fv) : FR :=
  match q.nanOf [a] with
  | some r => r
  | none =>
    match a with
    | .inf s => if s then q.invalid else (q.inf false, 0)
    | .fin s m e =>
      if m = 0 then (q.sgn s, 0)
      else if s then q.invalid
      else
        let m1 := if e % 2 = 0 then m else 2 * m
        let e1 := if e % 2 = 0 then e else e - 1
        let k := q.mb + 4
        let v := m1 * 2 ^ (2 * k)
        let r := isqrt v
        q.round rm false (2 * r + (if r * r = v then 0 else 1)) (e1 / 2 - (k : Int) - 1)
    | _ => q.invalid

/-- a × b + c with one rounding. -/
def FpFmt.fma (q : FpFmt) (rm : Nat) (a b c : Fv) : FR :=
  let nv := if [a, b, c].any q.isSnan then fNV else 0
  match [a, b, c].find? Fv.isNan with
  | some (.nan s f) => (q.quiet s f, nv)
  | _ =>
    let prodInf : Option Bool := match a, b with
      | .inf s, .inf t => some (s != t)
      | .inf s, .fin t m _ => if m = 0 then none else some (s != t)
      | .fin s m _, .inf t => if m = 0 then none else some (s != t)
      | _, _ => none
    match a, b, c with
    | .fin s m e, .fin t n f, .fin u o g =>
      let ps := s != t
      let r := addExact ps (m * n) (e + f) u o g
      let zs := if m * n = 0 ∧ o = 0 ∧ ps = u then ps else rm == 2
      q.pack rm zs r.1 r.2.1 r.2.2
    | .fin _ _ _, .fin _ _ _, .inf u => (q.inf u, 0)
    | _, _, .inf u =>
      match prodInf with
      | some p => if p = u then (q.inf u, 0) else q.invalid
      | none => q.invalid
    | _, _, _ =>
      match prodInf with
      | some p => (q.inf p, 0)
      | none => q.invalid

/-- Whether a fused operation is 0 × ∞ + a quiet NaN, for which IEEE 754 leaves NV to the implementation. [DEDUCED, log 12] -/
def FpFmt.fmaOpen (q : FpFmt) (a b c : Fv) : Bool :=
  let zi := match a, b with
    | .inf _, .fin _ m _ => m == 0
    | .fin _ m _, .inf _ => m == 0
    | _, _ => false
  zi && c.isNan && ! q.isSnan c

/-! ### Comparisons, minimum and maximum -/

/-- Whether a < b for two values that are not NaN. -/
def fvLt (a b : Fv) : Bool :=
  match a, b with
  | .inf s, .inf t => s && ! t
  | .inf s, _ => s
  | _, .inf t => ! t
  | .fin s1 m1 e1, .fin s2 m2 e2 => (addExact s1 m1 e1 (! s2) m2 e2).1
  | _, _ => false

/-- Whether a = b for two values that are not NaN. -/
def fvEq (a b : Fv) : Bool :=
  match a, b with
  | .inf s, .inf t => s == t
  | .fin s1 m1 e1, .fin s2 m2 e2 => (addExact s1 m1 e1 (! s2) m2 e2).2.1 == 0
  | _, _ => false

/-- The sign of a value. -/
def Fv.sgn : Fv → Bool
  | .nan s _ => s
  | .inf s => s
  | .fin s _ _ => s

/-- a before b in the order that puts −0 below +0. -/
def fvBefore (a b : Fv) : Bool := fvLt a b || (fvEq a b && a.sgn && ! b.sgn)

/-- A comparison: its result and flags; signalling ones raise NV on any NaN, quiet ones on a signalling NaN. -/
def FpFmt.cmp (q : FpFmt) (signals : Bool) (rel : Fv → Fv → Bool) (a b : Fv) : FR :=
  if a.isNan || b.isNan then (0, if signals || q.isSnan a || q.isSnan b then fNV else 0) else (bit (rel a b), 0)

/-- minimumNumber and maximumNumber (max), of patterns x and y. -/
def FpFmt.minNum (q : FpFmt) (max : Bool) (x y : Nat) : FR :=
  let a := q.dec x
  let b := q.dec y
  let nv := if q.isSnan a || q.isSnan b then fNV else 0
  if a.isNan && b.isNan then (q.nanOf [a, b]).getD (q.qnan, nv)
  else if a.isNan then (y, nv)
  else if b.isNan then (x, nv)
  else (if (if max then fvBefore a b else fvBefore b a) then y else x, 0)

/-- minimum and maximum (max). -/
def FpFmt.minM (q : FpFmt) (max : Bool) (x y : Nat) : FR :=
  let a := q.dec x
  let b := q.dec y
  match q.nanOf [a, b] with
  | some r => r
  | none => (if (if max then fvBefore a b else fvBefore b a) then y else x, 0)

/-- FCLASS's bit (Table 4-9). -/
def FpFmt.cls (q : FpFmt) (x : Nat) : Nat :=
  match q.dec x with
  | .inf s => if s then 2 ^ 0 else 2 ^ 7
  | .nan s f => if q.isSnan (.nan s f) then 2 ^ 8 else 2 ^ 9
  | .fin s m _ =>
    if m = 0 then (if s then 2 ^ 3 else 2 ^ 4)
    else if m < 2 ^ q.mb then (if s then 2 ^ 2 else 2 ^ 5)
    else (if s then 2 ^ 1 else 2 ^ 6)

/-! ### Conversions -/

/-- To a 64-bit integer (R107): signed or not. -/
def FpFmt.toInt (q : FpFmt) (rm : Nat) (signed : Bool) (x : Nat) : FR :=
  let lo : Int := if signed then -(2 ^ 63 : Int) else 0
  let hi : Int := if signed then 2 ^ 63 - 1 else 2 ^ 64 - 1
  match q.dec x with
  | .nan _ _ => (wrapInt 64 hi, fNV)
  | .inf s => (wrapInt 64 (if s then lo else hi), fNV)
  | .fin s m e =>
    let r := roundAt rm s m e 0
    let v : Int := if s then -(r.1 : Int) else (r.1 : Int)
    if v < lo then (wrapInt 64 lo, fNV)
    else if hi < v then (wrapInt 64 hi, fNV)
    else (wrapInt 64 v, if r.2 then 0 else fNX)

/-- From an integer. -/
def FpFmt.ofInt (q : FpFmt) (rm : Nat) (v : Int) : FR := q.pack rm false (decide (v < 0)) v.natAbs 0

/-- From format q to format p (R107). -/
def FpFmt.conv (q p : FpFmt) (rm : Nat) (x : Nat) : FR :=
  match q.dec x with
  | .nan s f =>
    let g := if q.mb ≤ p.mb then f * 2 ^ (p.mb - q.mb) else f / 2 ^ (q.mb - p.mb)
    (p.quiet s g, if tbit f (q.mb - 1) then 0 else fNV)
  | .inf s => (p.inf s, 0)
  | .fin s m e => p.pack rm s s m e

/-- roundToIntegral; exact says that inexactness raises NX. -/
def FpFmt.rint (q : FpFmt) (rm : Nat) (exact : Bool) (x : Nat) : FR :=
  let a := q.dec x
  match q.nanOf [a] with
  | some r => r
  | none =>
    match a with
    | .fin s m e =>
      let r := roundAt rm s m e 0
      ((q.pack rm s s r.1 0).1, if exact && ! r.2 then fNX else 0)
    | _ => (x, 0)

/-- IEEE remainder. -/
def FpFmt.rem (q : FpFmt) (a b : Fv) : FR :=
  match q.nanOf [a, b] with
  | some r => r
  | none =>
    match a, b with
    | .fin s m e, .fin _ n f =>
      if n = 0 then q.invalid
      else
        let g := min e f
        let x := m * 2 ^ (e - g).toNat
        let y := n * 2 ^ (f - g).toNat
        let r := x % y
        let up := decide (y < 2 * r) || (2 * r == y && x / y % 2 == 1)
        if up then q.pack 0 s (! s) (y - r) g else q.pack 0 s s r g
    | .fin s m e, .inf _ => q.pack 0 s s m e
    | _, _ => q.invalid

/-! ### FCTL and the forms of Table 4-9 -/

/-- The format an opcode names (R106). -/
def fmtOf : FFmt → FpFmt
  | .h => fmtH
  | .s => fmtS
  | .d => fmtD

/-- The rounding attribute of an rm field under FCTL.RM; none when it raises 0x01 (R105). -/
def rmOf (t : Strand) (rm : BitVec 3) : Option Nat :=
  if rm.toNat ≤ 4 then some rm.toNat
  else if rm = 0b111 then (if t.fctl.rm.toNat ≤ 4 then some t.fctl.rm.toNat else none)
  else none

/-- Raise FCTL flags of strand k. -/
def State.raiseF (s : State) (k : StrandId) (fl : Nat) : State :=
  s.modStr k (fun t => { t with fctl := { t.fctl with flags := t.fctl.flags ||| BitVec.ofNat 5 fl } })

/-- The operand of a format in a floating register: its low bits (R106). -/
def Strand.fpat (t : Strand) (q : FpFmt) (r : RSpec) : Nat := (t.f r).toNat % 2 ^ q.width

end Sys2Proof.Machine
end

