-- ==== Sys2Proof/Machine/Amo.lean ====
section
/-! DEFINITION. The values that atomic operations write (Table 4-7), for a core's own AMO and for one it performs as a far
target. -/

namespace Sys2Proof.Machine

open Sys2Proof

/-- Whether an operation of Table 4-7 exists for a size; FADD.S needs D = 0. -/
def amoExists (op : Nat) (d : Bool) : Bool := decide (op ≤ 9) || (op == 0xA && ! d)

/-- Whether an operation is permitted on a far address (Table 4-7). [DEDUCED, log 81] -/
def amoFar (op : Nat) : Bool := [0x0, 0x1, 0x5, 0x6, 0x9, 0xA].contains op

/-- The new memory value of an operation on w bits: old value, rs2, and rd on entry. -/
def amoNew (op w : Nat) (old x c : Nat) : Nat :=
  let o := old % 2 ^ w
  let v := x % 2 ^ w
  match op with
  | 0x0 => v
  | 0x1 => (o + v) % 2 ^ w
  | 0x2 => o &&& v
  | 0x3 => o ||| v
  | 0x4 => o ^^^ v
  | 0x5 => if sInt w v < sInt w o then v else o
  | 0x6 => if sInt w o < sInt w v then v else o
  | 0x7 => min o v
  | 0x8 => max o v
  | 0x9 => if o = c % 2 ^ w then v else o
  | _ => (fmtS.add 0 (fmtS.dec o) (fmtS.dec v)).1 % 2 ^ 32

/-- The old value as the register receives it: a word is sign-extended. -/
def amoOld (w : Nat) (old : Nat) : Word := if w = 32 then (BitVec.ofNat 32 old).signExtend 64 else w64 old

end Sys2Proof.Machine
end

