-- ==== Sys2Proof/Machine/Frame.lean ====
section
/-! DEFINITION. The layout of a tile context in its bank and its save frame, and what an access to a frame meets while the context holds its
bank (06; R132, R135, R150). -/

namespace Sys2Proof.Machine

open Sys2Proof

/-! ### Geometry (R132, R135, Table 7-2) -/

/-- Row length in bytes of a tile register. -/
def rowLen (shape : BitVec 2) : Nat := if shape = 0b11 then 128 else 64
/-- Rows. -/
def nRows (shape : BitVec 2) : Nat := if shape = 0b01 then 32 else 64
/-- Elements per accumulator row. -/
def accCols (shape : BitVec 2) : Nat := if shape = 0b11 then 64 else 32

/-- Offset of the tag of a register in the save frame (Table 6-8); 16 to 19 are the accumulators. [DESIGN CHOICE, log 50] -/
def tagOff (n : Nat) : Nat := if n < 16 then 0x80 + 8 * n else 0x40 + 8 * (n - 16)
/-- Offset of a register in the save frame. [DESIGN CHOICE, log 50] -/
def regOff (n : Nat) : Nat := if n < 16 then 0x100 + 0x2000 * n else 0x20100 + 0x4000 * (n - 16)
/-- Bytes of a register under a geometry. -/
def regLen (shape : BitVec 2) (n : Nat) : Nat :=
  if n < 16 then nRows shape * rowLen shape else nRows shape * accCols shape * 4

/-- The bytes of a dense range; the list must be in canonical form. -/
def denseGo : Nat → Nat → Mem → List Byte
  | 0, _, _ => []
  | n + 1, a, [] => 0 :: denseGo n (a + 1) []
  | n + 1, a, (x, b) :: r => if x = a then b :: denseGo n (a + 1) r else 0 :: denseGo n (a + 1) ((x, b) :: r)

/-- n bytes from a, in one pass over the list. -/
def Mem.dense (m : Mem) (a n : Nat) : List Byte := denseGo n a (m.dropWhile (fun c => decide (c.1 < a)))

/-- The nonzero cells of bytes laid from a. -/
def cellsFrom : Nat → List Byte → Mem
  | _, [] => []
  | a, b :: r => if b = 0 then cellsFrom (a + 1) r else (a, b) :: cellsFrom (a + 1) r

/-- The memory with a dense range replaced. -/
def Mem.splice (m : Mem) (a : Nat) (bs : List Byte) : Mem :=
  m.filter (fun c => decide (c.1 < a)) ++ cellsFrom a bs ++ m.filter (fun c => decide (a + bs.length ≤ c.1))

/-- A tag of a bank. -/
def tagIn (b : Mem) (n : Nat) : Nat := b.getLE (tagOff n) 8

/-- FMT of a TTAG. -/
def tagFmt (t : Nat) : Nat := bits t 3 0
/-- Tile registers of a geometry. -/
def nTiles (shape : BitVec 2) : Nat := if shape = 0b01 then 8 else 16
/-- Accumulators of a geometry. -/
def nAccs (shape : BitVec 2) : Nat := if shape = 0b01 then 2 else 4

/-- The register numbers of a geometry, tile registers then accumulators. -/
def regNums (shape : BitVec 2) : List Nat := List.range (nTiles shape) ++ (List.range (nAccs shape)).map (· + 16)

/-! ### Save frames (R150) -/

/-- Bytes of a save frame. -/
def frameLen : Nat := 196864

/-- A tag as a restore loads it. -/
def restoreTag (n w : Nat) : Nat :=
  if 16 ≤ n then w % 2
  else if tagFmt w ≥ 0xB then 0
  else fld (bits w 37 22) 22 + fld (bits w 11 8) 8 + bits w 4 0

/-- The bank's contents that a frame restores. -/
def restoreCells (frame : Mem) (shape : BitVec 2) : Mem :=
  let b0 := (List.range 20).foldl (fun (b : Mem) n => b.putLE (tagOff n) 8 (restoreTag n (frame.getLE (tagOff n) 8))) []
  (regNums shape).foldl (fun b n => b.splice (regOff n) (frame.dense (regOff n) (regLen shape n))) b0

/-- Whether n bytes at virtual address va touch the save frame of a context, whose frame contents are unpredictable (R150).
[DESIGN CHOICE, log 47] -/
def Ctx.frameHit (c : Ctx) (va n : Nat) : Bool :=
  (c.st == .resident || c.st == .saving || c.st == .restoring) && decide (c.fa.toNat < va + n) && decide (va < c.fa.toNat + frameLen)

/-- Whether a context of strand j has its frame in the virtual addresses of strand k at va: a context of its own, one of a strand with the same
page table base, or one in the scratchpad window. [DESIGN CHOICE, log 47] -/
def State.sameSpace (s : State) (j k : StrandId) (va : Nat) : Bool :=
  j == k || (s.str j).xl.ptb == (s.str k).xl.ptb || decide (spw ≤ va)

/-- Whether an access to n bytes at va in the addresses of strand k touches such a frame. [DESIGN CHOICE, log 47] -/
def State.framesHit (s : State) (k : StrandId) (va n : Nat) : Bool :=
  ([0, 1, 2, 3] : List StrandId).any (fun j => (s.str j).ctx.any (fun c => c.frameHit va n && s.sameSpace j k va))

/-- The bytes that are read at va in place of those in memory: in a frame whose contents are unpredictable, free values (R150).
[DESIGN CHOICE, log 47] -/
def frameLoad (s : State) (k : StrandId) (va : Nat) (bs : List Byte) : List Byte × State :=
  if s.framesHit k va bs.length then
    (bs.mapIdx (fun i b => if s.framesHit k (va + i) 1 then Config.freeByte s.free i else b), { s with free := s.free + 1 })
  else (bs, s)

/-- A store to n bytes at va leaves the later state of the contexts whose frames it touches unpredictable (R150): the bytes of their banks become
free values, a save starts again, and a restore takes nothing more from the frame. [DESIGN CHOICE, log 47] -/
def frameStore (s : State) (k : StrandId) (va n : Nat) : State :=
  if s.framesHit k va n then
    let cells := fun (j : StrandId) => restoreCells (cellsFrom 0 ((List.range frameLen).map (Config.freeByte s.free))) (s.str j).num.tshape
    let s1 := s.modTiles (fun t => { t with banks := t.banks.map (fun b => match b.owner with
      | some c => if (s.ctxOf c).frameHit va n ∧ s.sameSpace c.k k va then { b with cells := cells c.k } else b
      | none => b) })
    let s2 := ([0, 1, 2, 3] : List StrandId).foldl (fun (q : State) j => if s.sameSpace j k va then q.modStr j (fun t => { t with
      ctx := t.ctx.map (fun c => if c.frameHit va n then { c with pos := if c.st = .restoring then frameLen else 0 } else c) }) else q) s1
    { s2 with free := s2.free + 1 }
  else s

end Sys2Proof.Machine
end

