-- ==== Sys2Proof/Machine/FarBase.lean ====
section
/-! DEFINITION. Flits, messages and the sending side of the far port that every user of it shares (15). -/

namespace Sys2Proof

open Sys2Proof.Machine

/-! ### CRC-32C (R350) -/

/-- One bit of the reflected CRC with the Castagnoli polynomial. -/
def crcBit (c : Nat) : Nat := if c % 2 = 1 then (c / 2) ^^^ 0x82F63B78 else c / 2

/-- One byte of the CRC. -/
def crcByte (c : Nat) (b : Byte) : Nat :=
  let x := c ^^^ b.toNat
  crcBit (crcBit (crcBit (crcBit (crcBit (crcBit (crcBit (crcBit x)))))))

/-- CRC-32C of a byte string. -/
def crc32c (bs : List Byte) : Nat := (bs.foldl crcByte 0xFFFFFFFF) ^^^ 0xFFFFFFFF

/-! ### Flits (Table 15-3) -/

/-- The CRC of a flit: bytes 0 to 3, then 8 to 63. -/
def Flit.crcOf (f : Flit) : Nat := crc32c (toLE 4 f.hdr.toNat ++ f.payload)

/-- Whether the receiver accepts a flit (R350). -/
def Flit.good (f : Flit) : Bool := f.payload.length == 56 && f.crc.toNat == Flit.crcOf f

/-- A flit with its CRC. -/
def mkFlit (ltype fseq ack ackv vc sop eop : Nat) (payload : List Byte) : Flit :=
  let hdr : BitVec 32 := BitVec.ofNat 32
    (fld ltype 28 + fld (fseq % 1024) 18 + fld (ack % 1024) 8 + fld ackv 7 + fld vc 5 + fld sop 4 + fld eop 3)
  let pl := (payload ++ toLE 56 0).take 56
  { hdr := hdr, crc := BitVec.ofNat 32 (crc32c (toLE 4 hdr.toNat ++ pl)), payload := pl }

/-- LTYPE of a flit. -/
def Flit.ltype (f : Flit) : Nat := bits f.hdr.toNat 31 28
/-- FSEQ of a flit. -/
def Flit.fseq (f : Flit) : Nat := bits f.hdr.toNat 27 18
/-- ACKSEQ of a flit. -/
def Flit.ackseq (f : Flit) : Nat := bits f.hdr.toNat 17 8
/-- ACKV of a flit. -/
def Flit.ackv (f : Flit) : Bool := f.hdr.getLsbD 7
/-- VC of a flit. -/
def Flit.vc (f : Flit) : Nat := bits f.hdr.toNat 6 5
/-- SOP of a flit. -/
def Flit.sop (f : Flit) : Bool := f.hdr.getLsbD 4
/-- EOP of a flit. -/
def Flit.eop (f : Flit) : Bool := f.hdr.getLsbD 3

end Sys2Proof

namespace Sys2Proof.Machine

open Sys2Proof

/-! ### Messages (R354, Table 15-5) -/

/-- The 32 header bytes of a message. -/
def msgHeader (m : FarMsg) : List Byte :=
  toLE 8 (fld m.kind.toNat 62 + fld m.op.toNat 56 + fld m.dstNode.toNat 42 + fld m.dstEp.toNat 36
    + fld m.srcNode.toNat 22 + fld m.srcEp.toNat 16 + m.len.toNat)
  ++ toLE 8 (fld m.seq.toNat 32 + fld m.sess.toNat 18 + fld m.rcode.toNat 8 + m.attr.toNat)
  ++ toLE 8 (fld m.epoch.toNat 32 + m.aux.toNat) ++ toLE 8 m.addr.toNat

/-- The message whose bytes are given. -/
def msgOf (b : List Byte) : FarMsg :=
  let d := fun i => leNat ((b.drop (8 * i)).take 8)
  let len := bits (d 0) 12 0
  { kind := BitVec.ofNat 2 (bits (d 0) 63 62), op := BitVec.ofNat 6 (bits (d 0) 61 56),
    dstNode := BitVec.ofNat 14 (bits (d 0) 55 42), dstEp := BitVec.ofNat 6 (bits (d 0) 41 36),
    srcNode := BitVec.ofNat 14 (bits (d 0) 35 22), srcEp := BitVec.ofNat 6 (bits (d 0) 21 16),
    len := BitVec.ofNat 13 len, seq := BitVec.ofNat 32 (bits (d 1) 63 32), sess := BitVec.ofNat 14 (bits (d 1) 31 18),
    rcode := BitVec.ofNat 8 (bits (d 1) 15 8), attr := BitVec.ofNat 8 (bits (d 1) 7 0),
    epoch := BitVec.ofNat 32 (bits (d 2) 63 32), aux := BitVec.ofNat 32 (bits (d 2) 31 0), addr := w64 (d 3),
    body := (b.drop 32).take len }

/-- Cut bytes into flit payloads of 56. -/
def chunk56 : Nat → List Byte → List (List Byte)
  | 0, _ => []
  | n + 1, b => if b.isEmpty then [] else b.take 56 :: chunk56 n (b.drop 56)

/-- The DATA flits of a message as they wait for the link: VC, SOP and EOP only. -/
def msgFlits (m : FarMsg) : List (BitVec 2 × Flit) :=
  let cs := chunk56 80 (msgHeader m ++ m.body)
  let n := cs.length
  cs.zipIdx.map (fun (p : List Byte × Nat) =>
    (m.kind, mkFlit 1 0 0 0 m.kind.toNat (bit (p.2 == 0)) (bit (p.2 + 1 == n)) p.1))

/-! ### The link's sender (R351, R352) -/

/-- A waiting or buffered flit as it leaves now: its FSEQ, and the current ACKSEQ. -/
def Link.stamp (l : Link) (fseq : BitVec 10) (f : Flit) : Flit :=
  mkFlit 1 fseq.toNat (l.erx - 1).toNat (bit l.recvAny) f.vc (bit f.sop) (bit f.eop) f.payload

/-- A control flit of the link (IDLE, CREDIT, NACK, INIT) with the current ACKSEQ. -/
def Link.ctl (l : Link) (ltype : Nat) (payload : List Byte) : Flit :=
  mkFlit ltype 0 (l.erx - 1).toNat (bit (l.recvAny || ltype == 3)) 0 0 0 payload

/-- The first waiting flit of VC v, and the rest. -/
def takeVc (v : Nat) : List (BitVec 2 × Flit) → Option (Flit × List (BitVec 2 × Flit))
  | [] => none
  | p :: r => if p.1.toNat = v then some (p.2, r) else (takeVc v r).map (fun q => (q.1, p :: q.2))

/-- The flit to send next: VC 2 before VC 1 before VC 0, while its VC has a credit. [DESIGN CHOICE, log 74] -/
def Link.pick (l : Link) : Option (Nat × Flit × List (BitVec 2 × Flit)) :=
  let try1 := fun v => if l.credits.getD v 0 = 0 then none else (takeVc v l.waiting).map (fun q => (v, q.1, q.2))
  match try1 2 with
  | some x => some x
  | none =>
    match try1 1 with
    | some x => some x
    | none => try1 0

/-- Send waiting flits while the link is up, the replay buffer has room and credits last. [DESIGN CHOICE, log 11]
[DESIGN CHOICE, log 74] -/
def pumpLink : Nat → State → State
  | 0, s => s
  | n + 1, s =>
    let l := s.far.link
    if s.far.regs.lstate = .up ∧ l.snd = .send ∧ l.buf.length < 256 then
      match l.pick with
      | none => s
      | some (v, f, rest) =>
        let g := l.stamp l.fseq f
        let s1 := s.modLink (fun l => { l with
          waiting := rest
          fseq := l.fseq + 1
          buf := l.buf ++ [(l.fseq, BitVec.ofNat 2 v, f)]
          credits := vupd l.credits v (· - 1) })
        pumpLink n (s1.emit (.flit g))
    else s

/-- Whether a message names this endpoint as its destination (R346). -/
def State.isOwn (s : State) (m : FarMsg) : Bool := m.dstNode == s.far.regs.node && m.dstEp == s.hw.epnum

/-- Hand a message to the transport: looped back when the destination is this endpoint, else queued as flits.
[DESIGN CHOICE, log 11] -/
def sendMsg (s : State) (m : FarMsg) : State :=
  let s := s.emit (.msg m)
  if s.isOwn m then s.modFar (fun f => { f with rxMsgs := f.rxMsgs ++ [m] })
  else
    let fs := msgFlits m
    pumpLink (s.far.link.waiting.length + fs.length) (s.modLink (fun l => { l with waiting := l.waiting ++ fs }))

/-- A control message from this endpoint (KIND 2). -/
def ctlMsg (s : State) (op : Nat) (dn : BitVec 14) (de : BitVec 6) (aux : BitVec 32) (addr : Nat) (body : List Byte) : FarMsg :=
  { kind := 2, op := BitVec.ofNat 6 op, dstNode := dn, dstEp := de, srcNode := s.far.regs.node, srcEp := s.hw.epnum,
    len := BitVec.ofNat 13 body.length, seq := 0, sess := 0, rcode := 0, attr := 0, epoch := s.far.regs.epoch, aux := aux,
    addr := w64 addr, body := body }

/-- The response to a request (R354): source and destination exchanged, OP, SEQ, SESS and EPOCH as in the request. -/
def respMsg (m : FarMsg) (code : Nat) (body : List Byte) : FarMsg :=
  { kind := 1, op := m.op, dstNode := m.srcNode, dstEp := m.srcEp, srcNode := m.dstNode, srcEp := m.dstEp,
    len := BitVec.ofNat 13 body.length, seq := m.seq, sess := m.sess, rcode := BitVec.ofNat 8 code, attr := 0,
    epoch := m.epoch, aux := 0, addr := 0, body := body }

/-! ### Requests of this core (R355, R356, R359) -/

/-- The endpoint of a global address: ga[11 + k : 12] with k = EPLOG2 (R346). -/
def State.dstEp (s : State) (ga : Nat) : BitVec 6 := BitVec.ofNat 6 ((ga / 4096) % 2 ^ s.far.regs.eplog2.toNat)

/-- Whether this endpoint may make far requests. -/
def State.farOn (s : State) : Bool := s.far.regs.en && s.far.regs.jstate == .joined

/-- A request message to a node and endpoint; SEQ and SESS are given when it is sent. -/
def reqMsg (s : State) (op : Nat) (dn : BitVec 14) (de : BitVec 6) (attr : Nat) (addr : Nat) (body : List Byte) : FarMsg :=
  { kind := 0, op := BitVec.ofNat 6 op, dstNode := dn, dstEp := de, srcNode := s.far.regs.node, srcEp := s.hw.epnum,
    len := BitVec.ofNat 13 body.length, seq := 0, sess := 0, rcode := 0, attr := BitVec.ofNat 8 attr,
    epoch := s.far.regs.epoch, aux := 0, addr := w64 addr, body := body }

/-- The strand of a strand's request. -/
def ReqOwner.strand : ReqOwner → Option StrandId
  | .load k _ => some k
  | .store k => some k
  | _ => none

/-- Whether a request is an earlier store, AMO or FRED of strand k to the 64-byte line that awaits its response (R359). -/
def blocksFar (k : StrandId) (line : Nat) (r : FarReq) : Bool :=
  r.owner.strand == some k && r.done.isNone && r.msg.addr.toNat / 64 == line
    && (r.msg.op == 2 || r.msg.op == 3 || r.msg.op == 5)

/-- The session this core opened to a target, if any. -/
def State.srcSess (s : State) (n : BitVec 14) (e : BitVec 6) : Option SrcSess :=
  s.far.src.find? (fun x => x.node == n && x.ep == e)

/-- Change the session to a target. -/
def State.modSrc (s : State) (n : BitVec 14) (e : BitVec 6) (f : SrcSess → SrcSess) : State :=
  s.modFar (fun x => { x with src := x.src.map (fun y => if y.node == n && y.ep == e then f y else y) })

/-- Change request id. -/
def State.modReq (s : State) (id : Nat) (f : FarReq → FarReq) : State :=
  s.modFar (fun x => { x with reqs := x.reqs.map (fun r => if r.id == id then f r else r) })

/-- Remove request id. -/
def State.dropReq (s : State) (id : Nat) : State :=
  s.modFar (fun x => { x with reqs := x.reqs.filter (fun r => r.id != id) })

/-- The identity of a target among the generations already used. -/
def tgtKey (n : BitVec 14) (e : BitVec 6) : Nat := n.toNat * 64 + e.toNat

/-- The next SGEN toward a target: one more than the last; the first is a free value (R355). [DESIGN CHOICE, log 77] -/
def nextSgen (s : State) (n : BitVec 14) (e : BitVec 6) : BitVec 32 × State :=
  match s.far.sgens.find? (fun p => p.1 == tgtKey n e) with
  | some p =>
    (p.2 + 1, s.modFar (fun f => { f with sgens := f.sgens.map (fun q => if q.1 == tgtKey n e then (q.1, q.2 + 1) else q) }))
  | none =>
    let v := s.freeVal
    (v.1.setWidth 32, v.2.modFar (fun f => { f with sgens := f.sgens ++ [(tgtKey n e, v.1.setWidth 32)] }))

/-- Add a request; its id is the counter. -/
def addReq (s : State) (owner : ReqOwner) (va : Word) (ftlb : Option Nat) (fill : Bool) (m : FarMsg) : Nat × State :=
  let id := s.far.nextReq
  let r : FarReq :=
    { id := id, owner := owner, va := va, ftlb := ftlb, fill := fill, msg := m, sent := false, tries := 0, busy := false,
      done := none }
  (id, s.modFar (fun f => { f with nextReq := id + 1, reqs := f.reqs ++ [r] }))

/-- An open session none of whose requests awaits its response, and that no waiting request needs. -/
def State.idleSess (s : State) : Option SrcSess :=
  s.far.src.find? (fun x => x.sess.isSome && s.far.reqs.all (fun r => r.done.isSome || r.msg.dstNode != x.node || r.msg.dstEp != x.ep))

/-- A session is closed with SCLOSE, as its next request (R355), which awaits its response as every request does (R356).
[DESIGN CHOICE, log 77] -/
def closeSess (s : State) (x : SrcSess) : State :=
  let m := { reqMsg s 7 x.node x.ep 0 0 [] with seq := x.nextSeq, sess := x.sess.getD 0 }
  let a := addReq (s.modFar (fun f => { f with src := f.src.filter (fun y => ! (y.node == x.node && y.ep == x.ep)) })) .sclose 0 none false m
  sendMsg (a.2.modReq a.1 (fun r => { r with sent := true })) m

/-- Whether the closing of a session to a target awaits its response; the next session to it opens after that. [DESIGN CHOICE, log 77] -/
def State.closing (s : State) (n : BitVec 14) (e : BitVec 6) : Bool :=
  s.far.reqs.any (fun r => r.owner == .sclose && r.done.isNone && r.msg.dstNode == n && r.msg.dstEp == e)

/-- Open a session to a target: SOPEN with the next SGEN. At most 1,024 sessions are open; an idle one is closed to make room (R355).
[DESIGN CHOICE, log 77] -/
def openSess (s0 : State) (n : BitVec 14) (e : BitVec 6) : State :=
  let s := if s0.far.src.length < 1024 then s0 else match s0.idleSess with | some x => closeSess s0 x | none => s0
  if s.far.src.length < 1024 then
    let g := nextSgen s n e
    let s1 := g.2.modFar (fun f => { f with src := f.src ++ [{ node := n, ep := e, sgen := g.1, sess := none, nextSeq := 1 }] })
    let m := { reqMsg s1 6 n e 0 0 [] with aux := g.1 }
    let a := addReq s1 .sopen 0 none false m
    sendMsg (a.2.modReq a.1 (fun r => { r with sent := true })) m
  else s

/-- Send one request when its session is open, its SEQ is within the 64 of R356 and R359 permits. -/
def trySend (s : State) (r : FarReq) : State :=
  if r.sent || r.done.isSome then s
  else
    let n := r.msg.dstNode
    let e := r.msg.dstEp
    match s.srcSess n e with
    | none => if s.closing n e then s else openSess s n e
    | some x =>
      match x.sess with
      | none => s
      | some sn =>
        let olds := s.far.reqs.filter (fun q => q.sent && q.done.isNone && q.msg.dstNode == n && q.msg.dstEp == e && q.msg.op != 6
          && q.msg.op != 7)
        let winOk := olds.all (fun q => decide (x.nextSeq.toNat < q.msg.seq.toNat + 64))
        let ordOk := match r.owner.strand with
          | some k => (s.far.reqs.takeWhile (fun q => q.id != r.id)).all (fun q => ! blocksFar k (r.msg.addr.toNat / 64) q)
          | none => true
        if x.nextSeq.toNat ≥ 0xFFFFFFFE then
          if olds.isEmpty then closeSess s x else s
        else if winOk && ordOk then
          let m := { r.msg with seq := x.nextSeq, sess := sn }
          sendMsg ((s.modReq r.id (fun q => { q with msg := m, sent := true })).modSrc n e
            (fun y => { y with nextSeq := y.nextSeq + 1 })) m
        else s

/-- Send every request that may be sent now, oldest first. -/
def pumpReqs (s : State) : State := s.far.reqs.foldl trySend s

/-- Make a far request: added and sent as soon as its session permits; when the endpoint is not joined or not enabled it
is done at once with the local code 0x08 (Table 15-7). Its id and the state. [DEDUCED, log 83] -/
def farRequest (s : State) (owner : ReqOwner) (va : Word) (ftlb : Option Nat) (fill : Bool) (m : FarMsg) : Nat × State :=
  let a := addReq s owner va ftlb fill m
  if s.farOn then (a.1, pumpReqs a.2)
  else (a.1, a.2.modReq a.1 (fun r => { r with done := some (0x08, []) }))

end Sys2Proof.Machine
end

