-- ==== Sys2Proof/Machine/Errors.lean ====
section
/-! DEFINITION. Error records, job abort and interrupt vectors: what every detected error and every source of a vector
shares (17, 03). -/

namespace Sys2Proof.Machine

open Sys2Proof

/-! ### Error marks -/

/-- The mark of a structure at a place, when an error is present there. [DESIGN CHOICE, log 46] -/
def State.markAt (s : State) (code loc : Nat) : Option ErrMark := s.marks.find? (fun m => m.code == code && m.loc == loc)

/-- Remove the mark of a structure at a place. -/
def State.dropMark (s : State) (code loc : Nat) : State :=
  { s with marks := s.marks.filter (fun m => ! (m.code == code && m.loc == loc)) }

/-- Add a mark. -/
def State.addMark (s : State) (m : ErrMark) : State := { s with marks := s.marks ++ [m] }

/-- Whether the core clock runs. -/
def State.clockOn (s : State) : Bool := s.pwr.pstate == .c0 && s.pwr.bstate == 2

/-! ### Scheduler state (Table 2-5) -/

/-- The strand gives up every unretired instruction (R39): an access that has merged into a miss register, and an event whose entry
still waits, are raised again when the instruction runs again. -/
def giveUp (s : State) (k : StrandId) : State := s.modRun k (fun r => { r with merged := none, entering := none, profWait := false })

/-- The strand gives up the core. [DESIGN CHOICE, log 21] -/
def leaveCore (s : State) (k : StrandId) : State :=
  if s.core.cur = some k then (giveUp s k).modCore (fun c => { c with cur := none, last := k }) else s

/-- The strand becomes held (R44, R405). [DESIGN CHOICE, log 21] -/
def holdStrand (s : State) (k : StrandId) : State :=
  if (s.str k).run.st = .stopped then s
  else leaveCore (s.modRun k (fun r => { r with st := .held })) k

/-- A waiting strand becomes ready (R40), which ends C1 (R417). -/
def readyStrand (s : State) (k : StrandId) : State :=
  match (s.str k).run.st with
  | .waiting => (s.modRun k (fun r => { r with st := .ready, cond := none })).modPwr (fun w => { w with c1 := false })
  | .running => s.modRun k (fun r => { r with cond := none })
  | .held => s.modRun k (fun r => { r with cond := none })
  | _ => s

/-- Wake every strand whose switch case is c. -/
def wakeCond (s : State) (c : Cond) : State :=
  [0, 1, 2, 3].foldl (fun s k => if (s.str k).run.cond = some c then readyStrand s k else s) s

/-- The first ready strand in round-robin order after k (R38). -/
def nextReady (s : State) (k : StrandId) : Option StrandId :=
  [k + 1, k + 2, k + 3].find? (fun j => (s.str j).run.st == .ready)

/-! ### Interrupt vectors (R75, R76, Table 3-1) -/

/-- Whether a vector is level-sensitive (Table 3-11). [DEDUCED, log 16] -/
def vecLevel (v : Nat) : Bool := decide (0x60 ≤ v) && decide (v ≤ 0x7F)

/-- Whether a vector exists (Table 3-1): 0x4A to 0x5F are reserved. -/
def vecExists (v : Nat) : Bool := (decide (0x40 ≤ v) && decide (v ≤ 0x49)) || (decide (0x60 ≤ v) && decide (v ≤ 0xFF))

/-- VCFG of a vector. -/
def State.vcfg (s : State) (v : Nat) : VCfg := s.intu.vcfg.getD (v - 0x40) { en := false, pend := false, strand := 0, prio := 0 }

/-- The strand that takes a vector: 0x40 to 0x43 go to strands 0 to 3. -/
def State.vecStrand (s : State) (v : Nat) : StrandId := if v < 0x44 then Fin.ofNat 4 (v - 0x40) else (s.vcfg v).strand

/-- PEND of a vector: the die line, the condition of the page for 0x44 to 0x47 (R399, R442, Tables 19-6 and 19-9), else the latch.
[DEDUCED, log 16] -/
def State.vecPend (s : State) (v : Nat) : Bool :=
  if vecLevel v then s.intu.lines.getLsbD (v - 0x60)
  else if v = 0x44 then (s.pwr.istat &&& s.pwr.ien) != 0
  else if v = 0x45 then (s.telem.istat &&& s.telem.ien) != 0
  else if v = 0x46 then s.rel.ceth && s.rel.cethIen
  else if v = 0x47 then s.mgmt.dbin && s.mgmt.dbinIen
  else (s.vcfg v).pend

/-- Every vector in the order in which ties are broken. -/
def allVecs : List Nat := (List.range 192).map (· + 0x40)

/-- An EDT entry (Table 3-3): HANDLER, KIE, TLVL. -/
structure EdtE where
  handler : Word
  kie : Bool
  tlvl : Lvl
  deriving DecidableEq, Repr

/-- EDTB.BASE + 32 × n (R61). -/
def State.edtAddr (s : State) (n : Nat) : Nat := bits s.core.edtb.toNat 51 13 * 8192 + 32 * n

/-- The line number of a near physical address (128 bytes). -/
def line128 (pa : Nat) : Nat := pa / 128

/-- Whether the near port answers a read of a line with an error, or the line is poisoned. -/
def State.badLine (s : State) (pa : Nat) : Bool := (s.markAt 0x15 (line128 pa)).isSome || (s.markAt 0x16 (line128 pa)).isSome

/-- The EDT entry of a number; none when EDTB.V is 0 or the read fails (R62). [DEDUCED, log 17] -/
def State.edt (s : State) (n : Nat) : Option EdtE :=
  let a := s.edtAddr n
  if s.core.edtb.getLsbD 0 && ! s.badLine a then
    let d := s.near.getLE (a + 8) 8
    some { handler := w64 (s.near.getLE a 8), kie := tbit d 2, tlvl := lvlOf d }
  else none

/-- Whether strand k can take a vector of target level y at its next boundary (R76). [DEDUCED, log 17] -/
def canTake (t : Strand) (y : Lvl) : Bool := t.status.lvl.below y || (y == t.status.lvl && t.status.ie)

/-- A vector that is pending for a waiting strand makes it ready: any at supervisor or user level (R42), and one at machine
level that the strand can take (Table 2-2, machine event elsewhere). -/
def wakeVec (s : State) (v : Nat) : State :=
  let k := s.vecStrand v
  if (s.vcfg v).en && s.vecPend v && (s.str k).run.st == .waiting then
    match s.edt v with
    | none => readyStrand s k
    | some e => if e.tlvl != .ml || canTake (s.str k) .ml then readyStrand s k else s
  else s

/-- Wake what any pending vector wakes. -/
def wakeAllVecs (s : State) : State := allVecs.foldl wakeVec s

/-- A latched vector's source signals. [DEDUCED, log 16] -/
def setPend (s : State) (v : Nat) : State :=
  if vecExists v && ! vecLevel v then
    wakeVec (s.modIntu (fun i => { i with vcfg := vupd i.vcfg (v - 0x40) (fun c => { c with pend := true }) })) v
  else s

/-! ### Error records (R399, R401, Table 17-4) -/

/-- An error record's eight words. [DESIGN CHOICE, log 121] -/
def mkRec (s : State) (fatal : Bool) (k : StrandId) (lv : Lvl) (addr : Option Nat) (fire : Bool) (code cause loc extra : Nat) :
    ErrRec :=
  let a := addr.getD 0
  let g := s.core.gtime.toNat
  #v[w32 (fld 1 31 + fld (bit fatal) 30 + fld k.val 28 + fld lv.code 26 + fld (bit addr.isSome) 25 + fld (bit fire) 24
      + fld (code % 256) 16 + fld cause 8 + (Config.syndrome code loc).toNat),
     w32 loc, w32 a, w32 (a / 2 ^ 32), w32 g, w32 (g / 2 ^ 32), w32 extra, 0]

/-- Whether a record is valid and names the same STRUCT and LOC. -/
def ErrRec.same (r : ErrRec) (code loc : Nat) : Bool :=
  r[0].getLsbD 31 && bits r[0].toNat 23 16 == code % 256 && r[1] == w32 loc

/-- The record with REPEAT one higher, stopping at 0xFFFF. -/
def ErrRec.again (r : ErrRec) : ErrRec :=
  if bits r[7].toNat 31 16 = 0xFFFF then r else r.set 7 (r[7] + 0x10000)

/-- Count a corrected error; at the threshold CETH is set, and vector 0x46 is pending while IEN allows it (R399). -/
def countCorr (s : State) : State :=
  let s1 := s.modRel (fun r =>
    let c := if r.cecount = 0xFFFF then r.cecount else r.cecount + 1
    { r with cecount := c, ceth := r.ceth || (r.cethr != 0 && c == r.cethr) })
  if s1.rel.ceth && ! s.rel.ceth then wakeVec s1 0x46 else s1

/-- Log and count a corrected error, of data that a strand consumed, if any (R399, R401, R402). [DESIGN CHOICE, log 99] -/
def logCorr (s : State) (who : Option StrandId) (code loc : Nat) (addr : Option Nat) (fire : Bool) : State :=
  let s := countCorr s
  if s.rel.frozen then s
  else
    let newest := s.rel.nextc.val + 15
    let old := s.rel.crec.getD (newest % 16) (vrep 8 0)
    if old.same code loc then s.modRel (fun r => { r with crec := vupd r.crec (newest % 16) ErrRec.again })
    else s.modRel (fun r => { r with
      crec := vupd r.crec r.nextc.val (fun _ =>
        mkRec s false (who.getD 0) (match who with | some k => (s.str k).status.lvl | none => .ul) addr fire code 0 loc 0)
      nextc := r.nextc + 1 })

/-- Log a fatal error: the slot it wrote, or 4 when all four slots were valid (R394, R401, R402). [DESIGN CHOICE, log 99] -/
def logFatal (s : State) (k : StrandId) (lv : Lvl) (code cause loc : Nat) (addr : Option Nat) (fire : Bool) (extra : Nat) :
    Nat × State :=
  let i := s.rel.nextf
  if s.rel.frec[i][0].getLsbD 31 || s.rel.frozen then
    (4, s.modRel (fun r => { r with fovf := if r.fovf = 0xFFFF then r.fovf else r.fovf + 1 }))
  else (i.val, s.modRel (fun r => { r with
    frec := vmod r.frec i (fun _ => mkRec s true k lv addr fire code cause loc extra)
    nextf := r.nextf + 1 }))

/-! ### Job abort (R403, R405, R371, Tables 17-6, 17-7, 15-11) -/

/-- Set JSTAT.STATE; every change sets ISTAT.JCHG (R366), and vector 0x48 signals while IEN.JCHG is 1 (Table 15-12). -/
def setJState (s : State) (j : JState) : State :=
  if s.far.regs.jstate = j then s
  else
    let s1 := s.modFarRegs (fun r => { r with jstate := j, istat := r.istat ||| 1 })
    if s.far.regs.ien.getLsbD 0 then setPend s1 0x48 else s1

/-- A gather engine at job abort (R300): every engine, whatever its state; its far pieces are discarded. -/
def abortEngine (e : Engine) : Engine :=
  { e with st := .aborted, rsn := 0x86, frsp := 0, fail := none, pieces := e.pieces.filter (fun p => p.req.isNone) }

/-- The checkpoint engine at job abort. -/
def abortCkpt (r : Rel) : Rel :=
  if r.ckst == .drain || r.ckst == .copy then { r with ckst := .failed, ckerr := 0xFE } else r

/-- The flits that wait for the link once the requests not yet sent are discarded: those of VC 0 go from the first request of which no flit has
left. -/
def dropUnsent : Bool → List (BitVec 2 × Flit) → List (BitVec 2 × Flit)
  | _, [] => []
  | gone, p :: r =>
    if p.1 = 0 then (if gone || p.2.sop then dropUnsent true r else p :: dropUnsent gone r) else p :: dropUnsent gone r

/-- The far port at job abort (Table 15-11). -/
def abortFar (f : Far) : Far :=
  { f with
    reqs := []
    rxMsgs := f.rxMsgs.filter (fun m => m.kind == 2)
    jmsg := none
    link := { f.link with waiting := dropUnsent false f.link.waiting } }

/-- A strand at job abort: below ML it stops and shows held (Table 17-7). [DESIGN CHOICE, log 21] -/
def abortStrand (s : State) (k : StrandId) : State := if (s.str k).status.lvl = .ml then s else holdStrand s k

/-- JABT_OUT rises as the core enters job abort, and stays high until job reset (R477). -/
def raiseJabt (s : State) : State := (s.modCore (fun c => { c with jabtOut := true })).emit (.jabtOut true)

/-- What the core does on entering job abort. -/
def enterAbort (s0 : State) : State :=
  let s := raiseJabt s0
  let s1 := s.modRel (fun r => abortCkpt { r with aborted := true, frozen := true })
  let s2 : State := abortStrand (abortStrand (abortStrand (abortStrand s1 0) 1) 2) 3
  let s3 : State := { s2 with weevils := s2.weevils.map abortEngine }
  setJState (s3.modFar abortFar) .aborted

/-- Send a control message over the link; its destination is not read on the way (ABORT and TSYNC reach whom the fabric
delivers them to), so DSTNODE and DSTEP hold a free value. [DESIGN CHOICE, log 76] -/
def sendCtl (s : State) (op : Nat) (body : List Byte) : State :=
  let v := s.freeVal
  let m := ctlMsg v.2 op (v.1.setWidth 14) ((v.1 >>> 14).setWidth 6) 0 0 body
  let fs := msgFlits m
  let s1 := (v.2.emit (.msg m)).modLink (fun l => { l with waiting := l.waiting ++ fs })
  pumpLink s1.far.link.waiting.length s1

/-- The ABORT body (Table 15-6): cause, origin node and origin endpoint. -/
def abortBody (cause : Nat) (n : BitVec 14) (e : BitVec 6) : List Byte :=
  toLE 8 (fld cause 0 + fld n.toNat 16 + fld e.toNat 32)

/-- ABST of an abort (Table 17-2). [DESIGN CHOICE, log 121] -/
def abstWord (orig : Bool) (cause : Nat) (n : BitVec 14) (e : BitVec 6) : Word32 :=
  w32 (fld 1 31 + fld (bit orig) 30 + fld e.toNat 24 + fld cause 16 + n.toNat)

/-- Originate a job abort with a cause (R403); a second abort changes nothing (R404). [DESIGN CHOICE, log 84]
[DESIGN CHOICE, log 89] -/
def origAbort (s : State) (cause : Nat) : State :=
  if s.rel.aborted then s
  else
    let n := s.far.regs.node
    let e := s.hw.epnum
    let s1 := s.modRel (fun r => { r with abst := abstWord true cause n e, abt := s.core.gtime })
    enterAbort (if s.far.regs.jstate = .joined then sendCtl s1 0x22 (abortBody cause n e) else s1)

/-- The core halts and raises job abort (R62): a halted core fetches nothing on any strand until a reset. [DEDUCED, log 17] -/
def haltCore (s : State) : State :=
  origAbort ((s.modRel (fun r => { r with halted := true })).modCore (fun c => { c with halted := true })) 0x05

/-- A fatal error with no consumer (Table 17-6, cause 0x04). [DEDUCED, log 102] -/
def fatalNoEvent (s : State) (code loc : Nat) (addr : Option Nat) (fire : Bool) : State :=
  origAbort (logFatal s 0 .ul code 0 loc addr fire 0).2 0x04

/-- An uncorrectable error that strand k consumes: a fatal record, and machine check 0x30 pending on the strand (R394, R395).
The job abort is originated when its entry commits. -/
def consume30 (s : State) (k : StrandId) (code loc : Nat) (addr : Option Nat) : State :=
  let r := logFatal s k (s.str k).status.lvl code 0x30 loc addr false 0
  r.2.modRun k (fun u => { u with
    mchk := u.mchk ++ [{ num := 0x30, fa := w64 (addr.getD 0), info := BitVec.ofNat 16 (fld r.1 8 + code), rel := .ml,
                         src := .instr, asid := 0 }] })

/-- A parity error of tile work on strand k: machine check 0x31 pending with R394's INFO. -/
def consume31 (s : State) (k : StrandId) (code loc : Nat) : State :=
  let r := logFatal s k (s.str k).status.lvl code 0x31 loc none false 0
  r.2.modRun k (fun u => { u with
    mchk := u.mchk ++ [{ num := 0x31, fa := 0, info := BitVec.ofNat 16 loc, rel := .ml, src := .instr, asid := 0 }] })

/-- Whether a checkpoint holds the strands' work (R409). -/
def State.ckHold (s : State) : Bool := s.rel.ckst == .drain || s.rel.ckst == .copy

/-! ### Pending synchronous events -/

/-- A pending synchronous event of a strand, last in the order of pendency (R481); it makes a waiting strand ready (R42). -/
def addPendEv (s : State) (k : StrandId) (e : Ev) : State :=
  let s1 := s.modRun k (fun r => { r with pendEv := r.pendEv ++ [e] })
  if (s.str k).run.st = .waiting then readyStrand s1 k else s1

/-- The far transaction error 0x1A of a store, FRED or far QPUSH of strand k, which becomes pending (R360). [DEDUCED, log 83] -/
def farError (s : State) (k : StrandId) (va : Word) (code : BitVec 8) : State :=
  addPendEv s k { num := 0x1A, fa := va, info := code.setWidth 16, rel := .sl, src := .far, asid := 0 }

/-- Strand k posts a far request that it does not wait for; with the endpoint not joined or not enabled it ends at once with the
local code 0x08 (R360, Table 15-7). [DEDUCED, log 83] -/
def farPost (s : State) (k : StrandId) (va : Word) (ftlb : Option Nat) (m : FarMsg) : State :=
  let r := farRequest s (.store k) va ftlb false m
  if s.farOn then r.2 else farError (r.2.dropReq r.1) k va 0x08

end Sys2Proof.Machine
end

