-- ==== Sys2Proof/Machine/Cache.lean ====
section
/-! DEFINITION. The caches: memory types, arrays and replacement, miss registers, the eviction buffer, the prefetcher and
the streaming-store detector, and the near accesses that go through them (13). -/

namespace Sys2Proof.Machine

open Sys2Proof

/-! ### Memory types (R304) -/

/-- The types of near physical memory. -/
inductive MType where
  | normal
  | uncached
  | device
  deriving DecidableEq, Repr

/-- Whether region r is enabled and holds pa: BASE ≤ pa ≤ LIM + 0xFFF. -/
def Region.has (r : Region) (pa : Nat) : Bool :=
  r.typ != 0 && decide (r.base.toNat * 4096 ≤ pa) && decide (pa ≤ r.lim.toNat * 4096 + 0xFFF)

/-- The type of a near physical address: that of the lowest-numbered enabled region that holds it, else Normal. -/
def State.mtype (s : State) (pa : Nat) : MType :=
  match s.ms.page.regions.toList.find? (fun r => r.has pa) with
  | none => .normal
  | some r => if r.typ = 0b10 then .uncached else if r.typ = 0b11 then .device else .normal

/-! ### Tree pseudo-LRU (Table 13-1) -/

/-- The tree bits of a set. -/
def CacheArr.bitsOf (c : CacheArr) (set : Nat) : Nat :=
  match c.plru.find? (fun p => p.1 == set) with
  | some p => p.2
  | none => 0

/-- The tree bits after a use of way w: every node on the way's path points away from it. d is the depth left. -/
def plruTouch : Nat → Nat → Nat → Nat → Nat
  | 0, _, _, b => b
  | d + 1, node, w, b =>
    let right := tbit w d
    let b1 := if right then (if tbit b node then b - 2 ^ node else b) else (if tbit b node then b else b + 2 ^ node)
    plruTouch d (2 * node + (if right then 1 else 0)) w b1

/-- The usable way that the tree bits name: each node's bit names the side used longest ago; a side with no usable way is
passed over. [DESIGN CHOICE, log 30] -/
def plruVictim : Nat → Nat → Nat → Nat → (Nat → Bool) → Nat
  | 0, _, base, _, _ => base
  | d + 1, node, base, b, ok =>
    let some' := fun lo => (List.range (2 ^ d)).any (fun i => ok (lo + i))
    let right := if tbit b node then some' (base + 2 ^ d) else ! some' base
    plruVictim d (2 * node + (if right then 1 else 0)) (base + (if right then 2 ^ d else 0)) b ok

/-- Set the tree bits of a set. -/
def CacheArr.touch (c : CacheArr) (depth set way : Nat) : CacheArr :=
  { c with plru := (set, plruTouch depth 1 way (c.bitsOf set)) :: c.plru.filter (fun p => p.1 != set) }

/-- The line held for a line number. -/
def CacheArr.find (c : CacheArr) (far : Bool) (line : Nat) : Option Line := c.lines.find? (fun l => l.far == far && l.line == line)

/-- Remove a line. -/
def CacheArr.drop (c : CacheArr) (far : Bool) (line : Nat) : CacheArr :=
  { c with lines := c.lines.filter (fun l => ! (l.far == far && l.line == line)) }

/-- Change a line. -/
def CacheArr.upd (c : CacheArr) (far : Bool) (line : Nat) (f : Line → Line) : CacheArr :=
  { c with lines := c.lines.map (fun l => if l.far == far && l.line == line then f l else l) }

/-- The line that holds a place. -/
def CacheArr.at (c : CacheArr) (set way : Nat) : Option Line := c.lines.find? (fun l => l.set == set && l.way == way)

/-- The way to fill in a set: an empty usable way, lowest first, else the tree's choice; none while no way is usable (R303).
[DESIGN CHOICE, log 30] -/
def CacheArr.pickWay (c : CacheArr) (depth set : Nat) (ok : Nat → Bool) : Option Nat :=
  match (List.range (2 ^ depth)).find? (fun w => ok w && (c.at set w).isNone) with
  | some w => some w
  | none => if (List.range (2 ^ depth)).any ok then some (plruVictim depth 1 0 (c.bitsOf set) ok) else none

/-- Put a line into a place, in place of what it held. -/
def CacheArr.put (c : CacheArr) (depth : Nat) (l : Line) : CacheArr :=
  ({ c with lines := l :: c.lines.filter (fun q => ! (q.set == l.set && q.way == l.way)) } : CacheArr).touch depth l.set l.way

/-- Whether an L2 way is usable: neither disabled, powered down nor locked (R303). -/
def State.l2Usable (s : State) (w : Nat) : Bool :=
  let p := s.ms.page
  ! (s.ms.l2.dis.getLsbD w || p.l2off.getLsbD w || p.down.getLsbD w || p.lock.getLsbD w || p.cleaning.contains (2, w))

/-- Whether an L1D way is usable. -/
def State.l1dUsable (s : State) (w : Nat) : Bool := ! (s.ms.l1d.dis.getLsbD w || s.ms.page.cleaning.contains (1, w))

/-- Whether an L1I way is usable. -/
def State.l1iUsable (s : State) (w : Nat) : Bool := ! (s.ms.l1i.dis.getLsbD w || s.ms.page.cleaning.contains (0, w))

/-! ### Error counts of ways (R322) -/

/-- The cache arrays that count errors. -/
inductive CId where
  | l1i
  | l1d
  | l2
  deriving DecidableEq, Repr

/-- The number of a cache in CachePage.cleaning; 3 is a power-down of an L2 way. -/
def CId.num : CId → Nat
  | .l1i => 0
  | .l1d => 1
  | .l2 => 2

/-- An array. -/
def MemSys.arr (m : MemSys) : CId → CacheArr
  | .l1i => m.l1i
  | .l1d => m.l1d
  | .l2 => m.l2

/-- Change an array. -/
def State.modArr (s : State) (c : CId) (f : CacheArr → CacheArr) : State :=
  s.modMs (fun m =>
    match c with
    | .l1i => { m with l1i := f m.l1i }
    | .l1d => { m with l1d := f m.l1d }
    | .l2 => { m with l2 := f m.l2 })

/-- How many ways of a cache may be disabled. -/
def CId.limit : CId → Nat
  | .l1i => 2
  | .l1d => 4
  | .l2 => 8

/-- Set bits of a way mask. -/
def popWays (b : BitVec 16) : Nat := ((List.range 16).filter (fun i => b.getLsbD i)).length

/-- One count for a way; the fourth in a window starts the clean that disables it, or sets WLIM at the limit.
[DEDUCED, log 142] -/
def wayCount (s : State) (c : CId) (way : Nat) : State :=
  let a := s.ms.arr c
  let n := (match a.counts.find? (fun p => p.1 == way) with | some p => p.2 | none => 0) + 1
  let s1 := s.modArr c (fun a => { a with counts := (way, n) :: a.counts.filter (fun p => p.1 != way) })
  if n = 4 && ! s.ms.page.cleaning.contains (c.num, way) then
    let busy := (s.ms.page.cleaning.filter (fun p => p.1 == c.num)).length
    if popWays a.dis + busy < c.limit then s1.modPage (fun p => { p with cleaning := p.cleaning ++ [(c.num, way)] })
    else s1.modPage (fun p => { p with wlim := true })
  else s1

/-- The counts of every way start again. -/
def clearCounts (s : State) : State :=
  s.modMs (fun m => { m with
    l1i := { m.l1i with counts := [] }
    l1d := { m.l1d with counts := [] }
    l2 := { m.l2 with counts := [] } })

/-- A window of counts ends where CYC[23:0] comes to 0 (R322). [DEDUCED, log 142] -/
def countWindow (s : State) : State := if s.core.cyc.toNat % 2 ^ 24 = 0 then clearCounts s else s

/-- LOC of a cache word (Table 17-3). -/
def cacheLoc (set way word : Nat) : Nat := fld word 24 + fld way 16 + set

/-- New data in a place has new check bits: the errors of its words and of its tag are gone. -/
def clearPlace (s : State) (code set way : Nat) : State :=
  { s with marks := s.marks.filter (fun m => ! ((m.code == code || m.code == code + 3) && m.loc % 2 ^ 24 == cacheLoc set way 0)) }

/-! ### Lines leaving the L2 (R303, R312, R320) -/

/-- Whether a half of a 128-byte line is Modified in the L1D. -/
def State.l1dDirty (s : State) (line : Nat) : Bool :=
  s.ms.l1d.lines.any (fun l => ! l.far && l.line / 2 == line && l.st == .modified)

/-- Invalidate the L1 copies of a 128-byte line. -/
def dropL1 (s : State) (line : Nat) : State :=
  s.modMs (fun m => { m with
    l1d := { m.l1d with lines := m.l1d.lines.filter (fun l => l.far || l.line / 2 != line) }
    l1i := { m.l1i with lines := m.l1i.lines.filter (fun l => l.line / 2 != line) } })

/-- The newest copy of near bytes is lost with its line: the bytes are again those of home memory (below), or of an older copy in the L2,
which are free. [DEDUCED, log 136] -/
def loseBytes (s : State) (pa n : Nat) (below : Bool) : State :=
  if below then { s with near := s.near.putN pa (s.home.getN pa n) }
  else { s with near := s.near.putN pa ((List.range n).map (Config.freeByte s.free)), free := s.free + 1 }

/-- A tag of a place is read, by an access or by Firefly (R321, R396): a clean line is invalidated and refetched; a dirty one, or copies
that disagree, is a fatal error without an event, and the line is lost. The L1 copies of an L2 line leave with it.
[DEDUCED, log 136] -/
def readTag (fire : Bool) (s : State) (c : CId) (set way : Nat) : State :=
  let code := match c with | .l1i => 4 | .l1d => 5 | .l2 => 6
  let loc := cacheLoc set way 0
  match s.markAt code loc with
  | none => s
  | some m =>
    let s1 := s.dropMark code loc
    match (s.ms.arr c).at set way with
    | none => wayCount (logCorr s1 none code loc none fire) c way
    | some l =>
      let size := if c = .l2 then 128 else 64
      let below := fun (n : Nat) => c == .l2 || (match s.ms.l2.find false (n / 2) with | some q => q.st != .modified | none => true)
      let dirty := l.st == .modified || (c == .l2 && s.l1dDirty l.line)
      let s2 := (if c = .l2 then dropL1 s1 l.line else s1).modArr c (fun a => a.drop l.far l.line)
      if m.unc || dirty then fatalNoEvent (if dirty && ! l.far then loseBytes s2 (l.line * size) size (below l.line) else s2) code loc none fire
      else wayCount (logCorr s2 none code loc (some (l.line * size)) fire) c way

/-- An access reads a tag. -/
def meetTag (s : State) (c : CId) (set way : Nat) : State := readTag false s c set way

/-- A lookup of the L2: the tag of the line's place is met first. -/
def lookL2 (s : State) (line : Nat) : Option Line × State :=
  match s.ms.l2.find false line with
  | none => (none, s)
  | some l => let s1 := meetTag s .l2 l.set l.way; (s1.ms.l2.find false line, s1)

/-- A lookup of a near line in the L1D. -/
def lookL1D (s : State) (l64 : Nat) : Option Line × State :=
  match s.ms.l1d.find false l64 with
  | none => (none, s)
  | some l => let s1 := meetTag s .l1d l.set l.way; (s1.ms.l1d.find false l64, s1)

/-- A lookup of a near line for a snoop, maintenance, an eviction or a clean: the tags of its L1D halves and of its L2 line are met first
(R321). -/
def probeLine (s : State) (line : Nat) : State := (lookL2 (lookL1D (lookL1D s (2 * line)).2 (2 * line + 1)).2 line).2

/-- A word of a line is met by eviction, snoop, maintenance or Firefly (Table 13-5): a single-bit error is corrected and counted; an
uncorrectable one in a dirty line is logged, the line is poisoned and the job aborts; in a clean line it is counted and the line is
invalidated. -/
def meetWord (s : State) (c : CId) (l : Line) (near : Nat) (dirty : Bool) (w : Nat) : State :=
  let code := match c with | .l1i => 1 | .l1d => 2 | .l2 => 3
  let loc := cacheLoc l.set l.way w
  match s.markAt code loc with
  | none => s
  | some m =>
    let s1 := s.dropMark code loc
    if ! m.unc then wayCount (logCorr s1 none code loc (some (near * 128)) false) c l.way
    else if ! dirty then
      wayCount (logCorr ((if c = .l2 then dropL1 s1 l.line else s1).modArr c (fun a => a.drop l.far l.line)) none code loc (some (near * 128)) false)
        c l.way
    else fatalNoEvent (s1.addMark { code := 0x15, loc := near, unc := true }) code loc (some (near * 128)) false

/-- The words of a line's dirty L1D halves, which are merged into it. -/
def meetHalves (s : State) (line : Nat) : State :=
  if s.marks.isEmpty then s
  else
    (s.ms.l1d.lines.filter (fun q => ! q.far && q.line / 2 == line && q.st == .modified)).foldl (fun s q =>
      (List.range 8).foldl (fun s w => meetWord s .l1d q line true w) s) s

/-- Every word of an L2 line that leaves, or is read whole, and of the L1D halves merged into it. -/
def meetLeaving (s : State) (l : Line) (dirty : Bool) : State :=
  if s.marks.isEmpty then s else (List.range 16).foldl (fun s w => meetWord s .l2 l l.line dirty w) (meetHalves s l.line)

/-- The errors of a line of a buffer beside the L2 are gone, as new data stands in it or it has left: the side buffer's (0x103) or the eviction
buffer's (0x203). [DESIGN CHOICE, log 46] -/
def clearBuf (s : State) (code line : Nat) : State :=
  { s with marks := s.marks.filter (fun m => ! (m.code == code && m.loc / 16 == line)) }

/-- The victim leaves the L2: its tag and those of its halves are met, its L1 copies are invalidated, and a dirty line enters the eviction
buffer in WAIT. None while the buffer is full and the line is dirty. [DEDUCED, log 34] [DESIGN CHOICE, log 126] -/
def evictL2 (s0 : State) (l : Line) : Option State :=
  let s := probeLine s0 l.line
  let dirty := l.st == .modified || s.l1dDirty l.line
  if (s.ms.l2.find false l.line).isNone then some s
  else if dirty && s.ms.evbuf.length == 16 then none
  else
    let s1 := dropL1 (meetLeaving s l dirty) l.line
    let s2 := (clearBuf s1 0x203 l.line).modMs (fun m => { m with
      l2 := m.l2.drop false l.line
      evbuf := if dirty then m.evbuf ++ [{ line := l.line, sent := false }] else m.evbuf })
    some s2

/-- Put a line into the L2, into way w where one is named; none while no way is usable or a dirty victim cannot leave.
[DESIGN CHOICE, log 126] -/
def installL2 (s : State) (line : Nat) (st : Mesi) (way : Option Nat) : Option State :=
  let set := line % 1024
  match (match way with | some w => some w | none => s.ms.l2.pickWay 4 set s.l2Usable) with
  | none => none
  | some w =>
    let go := fun (s : State) =>
      (clearPlace s 3 set w).modArr .l2 (fun c => c.put 4 { set := set, way := w, line := line, far := false, st := st, data := [] })
    match s.ms.l2.at set w with
    | none => some (go s)
    | some v => if v.line = line then some (go s) else (evictL2 s v).map go

/-- An L1D victim leaves: its tag is met, and a dirty near line is merged into its L2 line. -/
def evictL1D (s0 : State) (v : Line) : State :=
  let s := meetTag s0 .l1d v.set v.way
  if v.st == Mesi.modified && ! v.far && (s.ms.l1d.find v.far v.line).isSome then
    let s1 := if s.marks.isEmpty then s else (List.range 8).foldl (fun s w => meetWord s .l1d v (v.line / 2) true w) s
    s1.modArr .l2 (fun c => c.upd false (v.line / 2) (fun q => { q with st := .modified }))
  else s

/-- Put a 64-byte line into the L1D. -/
def installL1D (s : State) (line : Nat) (far : Bool) (st : Mesi) (data : List Byte) : State :=
  let set := line % 128
  match s.ms.l1d.pickWay 3 set s.l1dUsable with
  | none => s
  | some w =>
    let s1 := match s.ms.l1d.at set w with
      | some v => if v.line = line && v.far == far then s else evictL1D s v
      | none => s
    (clearPlace s1 2 set w).modArr .l1d (fun c => c.put 3 { set := set, way := w, line := line, far := far, st := st, data := data })

/-! ### Prefetcher and miss registers (R310, R311, R313) -/

/-- The prefetch trackers after a demand miss or side-buffer hit of a line: a tracker per 4 KiB page. [DESIGN CHOICE, log 44] -/
def trackMiss (s : State) (line : Nat) : State :=
  let page := line / 32
  let ts := s.ms.trackers.toList
  match ts.findIdx? (fun t => t.n != 0 && t.page == page) with
  | some i =>
    s.modMs (fun m => { m with trackers := vupd m.trackers i (fun t =>
      let d : Int := (line : Int) - (t.last : Int)
      if d = 0 then t
      else if d = t.stride then { t with last := line, n := t.n + 1 }
      else { t with last := line, stride := d, n := 1 }) })
  | none =>
    let i := (ts.findIdx? (fun t => t.n == 0)).getD (page % 16)
    s.modMs (fun m => { m with trackers := vupd m.trackers i (fun _ => { page := page, last := line, stride := 0, n := 1 }) })

/-- The miss register of a line. -/
def State.mshrOf (s : State) (line : Nat) : Option Mshr := s.ms.mshr.find? (fun m => m.line == line)

/-- What asks for a line in an L2 miss register. -/
inductive Asker where
  | demand
  | cpre
  | eng (g : Ag)
  deriving DecidableEq, Repr

/-- The engine access that asks. -/
def Asker.ags : Asker → List Ag
  | .eng g => [g]
  | _ => []

/-- Ask for a line: merge into its L2 miss register, up to 16 accesses, or take a free one of the 64; none when it must wait (R310,
R311). An engine access that asks again has merged. up says that the line is held Shared and ownership is asked for: no demand miss; whole that
the line is written whole, so that only ownership is asked for (Table 13-2). [DEDUCED, log 28] -/
def missL2 (s : State) (line : Nat) (own : Bool) (who : Asker) (up whole : Bool) (store : List MStore) : Option State :=
  let tracked := fun (s : State) => if who = .cpre ∨ up then s else trackMiss s line
  match s.mshrOf line with
  | some m =>
    if ! whole && who.ags.any (fun g => m.engs.contains g) then some s
    else if m.n < 16 then
      some (tracked (s.modMs (fun x => { x with mshr := x.mshr.map (fun q =>
        if q.line == line then { q with n := q.n + 1, pre := false, cpre := q.cpre || who == .cpre, engs := q.engs ++ who.ags,
                                        stores := q.stores ++ store } else q) })))
    else none
  | none =>
    if s.ms.mshr.length < 64 then
      some (tracked ((s.modMs (fun x => { x with
        mshr := x.mshr ++ [{ line := line, own := own, pre := false, cpre := who == .cpre, n := 1, engs := who.ags, nodata := whole,
                             stores := store }] })).emit (.nearRead (line * 128) (if whole then 0 else 128) own)))
    else none

/-- A scalar access that misses the L1D and the L2 takes one of the 32 L1D miss registers, or merges into the one of its 64-byte line,
up to 8 accesses (R310). [DEDUCED, log 28] -/
def missL1D (s : State) (l64 : Nat) (own up : Bool) (store : List MStore) : Option State :=
  let line := l64 / 2
  match s.ms.lmiss.find? (fun m => m.line == l64) with
  | some m =>
    if m.n < 8 then
      some (s.modMs (fun x => { x with
        lmiss := x.lmiss.map (fun q => if q.line == l64 then { q with n := q.n + 1 } else q)
        mshr := x.mshr.map (fun q => if q.line == line then { q with stores := q.stores ++ store } else q) }))
    else none
  | none =>
    if s.ms.lmiss.length < 32 then
      (missL2 s line own .demand up false store).map (fun s1 => s1.modMs (fun x => { x with lmiss := x.lmiss ++ [{ line := l64, n := 1 }] }))
    else none

/-- The strand's access has merged into the miss register of a line. [DEDUCED, log 33] -/
def setMerged (s : State) (k : StrandId) (line : Nat) : State := s.modRun k (fun r => { r with merged := some line })

/-- Whether the strand's access has already merged into the outstanding register of a line. -/
def State.hasMerged (s : State) (k : StrandId) (line : Nat) : Bool := (s.str k).run.merged == some line && (s.mshrOf line).isSome

/-! ### Errors met by an access -/

/-- What an access to a cache word meets. -/
inductive Meet where
  | ok (s : State)
  | again (s : State)
  | check (s : State)

/-- A data word of a line is read by strand k (Table 13-5). [DESIGN CHOICE, log 46] -/
def meetData (s : State) (k : StrandId) (c : CId) (l : Line) (word : Nat) (dirty : Bool) (pa : Nat) : Meet :=
  let code := match c with | .l1i => 1 | .l1d => 2 | .l2 => 3
  let loc := cacheLoc l.set l.way word
  match s.markAt code loc with
  | none => .ok s
  | some m =>
    if ! m.unc then .ok (wayCount (logCorr (s.dropMark code loc) (some k) code loc (some pa) false) c l.way)
    else if dirty then .check (consume30 s k code loc (some pa))
    else
      let s1 := (s.dropMark code loc).modArr c (fun a => a.drop l.far l.line)
      .again (wayCount (logCorr s1 (some k) code loc (some pa) false) c l.way)

/-- The words that a store writes: a whole word takes new check bits, a part of one reads it first. [DESIGN CHOICE, log 127] -/
def storeMeet (s : State) (k : StrandId) (c : CId) (l : Line) (dirty : Bool) (pa n off : Nat) : Meet :=
  let code := match c with | .l1i => 1 | .l1d => 2 | .l2 => 3
  if s.marks.isEmpty || n == 0 then .ok s
  else
    (List.range ((pa + n - 1) / 8 - pa / 8 + 1)).foldl (fun r i =>
      match r with
      | .ok s =>
        let a := (pa / 8 + i) * 8
        let w := off + a % 64 / 8
        if decide (pa ≤ a) && decide (a + 8 ≤ pa + n) then .ok (s.dropMark code (cacheLoc l.set l.way w)) else meetData s k c l w dirty pa
      | r => r) (.ok s)

/-- How an access to a line stands: done in state s; waiting, with its switch case if it has one; a machine check is
pending and the data is not delivered. -/
inductive Look where
  | hit (s : State)
  | wait (s : State) (c : Option Cond)
  | check (s : State)

/-- A line whose data the network marked poisoned, or answered with an error, is consumed by strand k (0x15). -/
def lookPoison (s : State) (k : StrandId) (line : Nat) : Option State :=
  if s.badLine (line * 128) then some (consume30 s k 0x15 line (some (line * 128))) else none

/-! ### What a miss finds on the core (R312, R314) -/

/-- Errors of the lines of a buffer that stands beside the L2: the side buffer (0x103) or the eviction buffer (0x203); a word's place is its line
and number. [DESIGN CHOICE, log 46] -/
def bufMarks (s : State) (code line : Nat) : List ErrMark := s.marks.filter (fun m => m.code == code && m.loc / 16 == line)

/-- LOC of a word of such a line: its place in the L2, in way 0. [DESIGN CHOICE, log 46] -/
def bufLoc (m : ErrMark) : Nat := cacheLoc (m.loc / 16 % 1024) 0 (m.loc % 16)

/-- A side-buffer line is met: whether it is good; one with an uncorrectable word is dropped (Table 17-1). -/
def meetSide (s : State) (line : Nat) : Bool × State :=
  let ms := bufMarks s 0x103 line
  (ms.all (fun m => ! m.unc), ms.foldl (fun s m => logCorr s none 0x03 (bufLoc m) (some (line * 128)) false) (clearBuf s 0x103 line))

/-- An eviction-buffer line leaves: an uncorrectable word makes it leave poisoned and raises job abort (Table 17-1). -/
def meetEv (s : State) (line : Nat) : State :=
  (bufMarks s 0x203 line).foldl (fun s m =>
    if m.unc then fatalNoEvent (s.addMark { code := 0x15, loc := line, unc := true }) 0x03 (bufLoc m) (some (line * 128)) false
    else logCorr s none 0x03 (bufLoc m) (some (line * 128)) false) (clearBuf s 0x203 line)

/-- The errors of a line that returns from the eviction buffer to the L2 go with its words. -/
def backMarks (s : State) (line : Nat) : State :=
  match s.ms.l2.find false line with
  | none => s
  | some l => { s with marks := s.marks.map (fun m =>
      if m.code == 0x203 && m.loc / 16 == line then { m with code := 3, loc := cacheLoc l.set l.way (m.loc % 16) } else m) }

/-- A demand access whose line the L2 does not hold searches the eviction buffer and the side buffer: whether the line is now in the
L2; none while it must wait. -/
def demandFind (s : State) (line : Nat) : Option (Bool × State) :=
  match s.ms.evbuf.find? (fun e => e.line == line) with
  | some e =>
    if e.sent then none
    else (installL2 s line .modified none).map (fun s1 =>
      (true, backMarks (s1.modMs (fun m => { m with evbuf := m.evbuf.filter (fun q => q.line != line) })) line))
  | none =>
    if s.ms.side.contains line then
      let q := meetSide s line
      let taken := fun (s : State) => s.modMs (fun m => { m with side := m.side.filter (· != line) })
      if q.1 then (installL2 q.2 line .shared none).map (fun s1 => (true, trackMiss (taken s1) line)) else some (false, taken q.2)
    else some (false, s)

/-- Whether the core may write a line: the L2 holds it Modified or Exclusive. -/
def State.owned (s : State) (line : Nat) : Bool :=
  match s.ms.l2.find false line with
  | some l => l.st != .shared
  | none => false

/-- Whether a line is dirty in the L2 or in the L1D. -/
def State.dirty (s : State) (line : Nat) : Bool :=
  (match s.ms.l2.find false line with | some l => l.st == .modified | none => false) || s.l1dDirty line

/-! ### The streaming-store detector (R315) -/

/-- Whether a line is the next of a tracker's run. -/
def STracker.isNext (t : STracker) (line : Nat) : Bool :=
  t.n != 0 && (if t.dir = 0 then (line == t.last + 1 || line + 1 == t.last) else (t.last : Int) + t.dir == (line : Int))

/-- A store that writes less than a whole line ends the run whose next line it meets. [DEDUCED, log 35] -/
def streamPartial (s : State) (line : Nat) : State :=
  s.modMs (fun m => { m with strackers := m.strackers.map (fun t => if t.isNext line then { t with n := 0 } else t) })

/-- A store of a whole line: whether its run has reached STHR lines, so that a line that the L2 does not hold goes to the near port
and allocates nothing, and the state with the tracker moved on. A line that the L2 holds moves a run on and starts none.
[DEDUCED, log 35] -/
def streamWhole (s : State) (line : Nat) (held : Bool) : Bool × State :=
  if s.ms.page.ssen then
    match s.ms.strackers.toList.findIdx? (fun t => t.isNext line) with
    | some i =>
      let n := ((s.ms.strackers.toList[i]?).map (fun t => t.n)).getD 0
      (decide (s.ms.page.sthr.toNat ≤ n), s.modMs (fun m => { m with strackers := vupd m.strackers i (fun t =>
        { last := line, dir := if t.dir = 0 then (line : Int) - (t.last : Int) else t.dir, n := t.n + 1 }) }))
    | none =>
      if held then (false, s)
      else
        let i := (s.ms.strackers.toList.findIdx? (fun t => t.n == 0)).getD (line % 4)
        (false, s.modMs (fun m => { m with strackers := vupd m.strackers i (fun _ => { last := line, dir := 0, n := 1 }) }))
  else (false, s)

/-! ### Scalar near accesses (Table 13-2) -/

/-- The errors of the half's other words travel with it into an L1: single-bit ones are corrected on the way.
[DESIGN CHOICE, log 127] -/
def moveMarks (s : State) (c : CId) (l2 : Line) (l64 : Nat) : State :=
  if s.marks.isEmpty then s
  else
    match (s.ms.arr c).find false l64 with
    | none => s
    | some l =>
      (List.range 8).foldl (fun s w =>
        let w2 := l64 % 2 * 8 + w
        match s.markAt 3 (cacheLoc l2.set l2.way w2) with
        | none => s
        | some m =>
          if m.unc then s.addMark { code := if c = .l1i then 1 else 2, loc := cacheLoc l.set l.way w, unc := true } else meetWord s .l2 l2 l2.line false w2) s

/-- The L2 line moves into the L1D for a read of word `word` of the 64-byte line. -/
def fromL2 (s : State) (k : StrandId) (l64 word : Nat) : Look :=
  match lookL2 s (l64 / 2) with
  | (none, s0) => .wait s0 none
  | (some l, s0) =>
    match meetData s0 k .l2 l (l64 % 2 * 8 + word) (s0.dirty l.line) (l64 * 64) with
    | .check s1 => .check s1
    | .again s1 => .wait (dropL1 s1 l.line) none
    | .ok s1 =>
      match lookPoison s1 k l.line with
      | some s2 => .check s2
      | none =>
        let s2 := s1.modArr .l2 (fun c => c.touch 4 l.set l.way)
        .hit (moveMarks (installL1D s2 l64 false (if l.st = .shared then .shared else .exclusive) []) .l1d l l64)

/-- A read of a 64-byte near Normal line by strand k. -/
def readLine (s : State) (k : StrandId) (l64 : Nat) (word : Nat) : Look :=
  let line := l64 / 2
  match s.ms.l1d.find false l64 with
  | some _ =>
    match lookL1D s l64 with
    | (none, s0) => .wait s0 none
    | (some l, s0) =>
      match meetData s0 k .l1d l word (l.st == .modified) (l64 * 64) with
      | .check s1 => .check s1
      | .again s1 => .wait s1 none
      | .ok s1 =>
        match lookPoison s1 k line with
        | some s2 => .check s2
        | none => .hit (s1.modArr .l1d (fun c => c.touch 3 l.set l.way))
  | none =>
    if (s.ms.l2.find false line).isSome then fromL2 s k l64 word
    else if s.hasMerged k line then .wait s (some (.longMiss line))
    else
      match demandFind s line with
      | none => .wait s none
      | some (true, s1) => fromL2 s1 k l64 word
      | some (false, s1) =>
        match missL1D s1 l64 false false [] with
        | none => .wait s1 none
        | some s2 => .wait (setMerged s2 k line) (some (.longMiss line))

/-- A half of an owned line becomes Modified in the L1D. -/
def dirtyHalf (s : State) (l64 : Nat) : State :=
  match s.ms.l1d.find false l64 with
  | some l => s.modArr .l1d (fun c => (c.upd false l64 (fun q => { q with st := .modified })).touch 3 l.set l.way)
  | none => installL1D s l64 false .modified []

/-- A store by strand k of n bytes at pa hits an owned line. -/
def storeHit (s : State) (k : StrandId) (pa n : Nat) : Look :=
  let l64 := pa / 64
  match lookL1D s l64 with
  | (some l, s0) =>
    match storeMeet s0 k .l1d l (l.st == .modified) pa n 0 with
    | .check s1 => .check s1
    | .again s1 => .wait s1 none
    | .ok s1 => .hit (dirtyHalf s1 l64)
  | (none, s0) =>
    match lookL2 s0 (l64 / 2) with
    | (none, s1) => .wait s1 none
    | (some l, s1) =>
      match storeMeet s1 k .l2 l (s1.dirty l.line) pa n (l64 % 2 * 8) with
      | .check s2 => .check s2
      | .again s2 => .wait (dropL1 s2 l.line) none
      | .ok s2 => .hit (moveMarks (dirtyHalf s2 l64) .l1d l l64)

/-- An AMO of n bytes at pa needs its line owned: held Modified or Exclusive in the L2. -/
def ownLine (s0 : State) (k : StrandId) (pa n : Nat) : Look :=
  let l64 := pa / 64
  let line := l64 / 2
  let s := streamPartial s0 line
  let ask := fun (s : State) (up : Bool) =>
    match missL1D s l64 true up [] with
    | none => Look.wait s none
    | some s1 => .wait (setMerged s1 k line) none
  if s.owned line then
    match readLine s k l64 (pa % 64 / 8) with
    | .hit s1 => storeHit s1 k pa n
    | r => r
  else if s.hasMerged k line then .wait s none
  else
    match lookL2 s line with
    | (some _, s1) => ask s1 true
    | (none, s1) =>
      match demandFind s1 line with
      | none => .wait s1 none
      | some (true, s2) => .wait s2 none
      | some (false, s2) => ask s2 false

/-- Bytes that the core writes while a near-port read of them is on its way are newer than its data. -/
def MemSys.noted (m : MemSys) (pa : Nat) (bs : List Byte) : MemSys :=
  if m.preads.isEmpty then m
  else { m with preads := m.preads.map (fun r =>
    if ! r.done && decide (pa < r.pa + r.n) && decide (r.pa < pa + bs.length) then { r with newer := r.newer ++ [(pa, bs)] } else r) }

/-- Bytes enter the coherent near memory. -/
def putNear (s : State) (pa : Nat) (bs : List Byte) : State := { s with near := s.near.putN pa bs, ms := s.ms.noted pa bs }

/-- A store by strand k of bytes at pa, all within one 64-byte near Normal line: it hits an owned line, or it waits in the miss
register of its line. [DEDUCED, log 28] -/
def storeLine (s0 : State) (k : StrandId) (pa : Nat) (bs : List Byte) : Look :=
  let l64 := pa / 64
  let line := pa / 128
  let s := streamPartial s0 line
  let wr := fun (s : State) => putNear s pa bs
  let hit := fun (s : State) =>
    match storeHit s k pa bs.length with
    | .hit s1 => Look.hit (wr s1)
    | r => r
  let ask := fun (s : State) (up : Bool) =>
    match missL1D s l64 true up [{ k := some k, pa := pa, bs := bs }] with
    | none => Look.wait s none
    | some s1 => .hit (wr s1)
  if s.owned line then hit s
  else
    match lookL2 s line with
    | (some _, s1) => ask s1 true
    | (none, s1) =>
      if (s1.mshrOf line).isSome then ask s1 false
      else
        match demandFind s1 line with
        | none => .wait s1 none
        | some (true, s2) => if s2.owned line then hit s2 else ask s2 true
        | some (false, s2) => ask s2 false

/-! ### Writes at the near port -/

/-- The near-port data that has yet to come and is to be discarded, once the return buffer is dropped as well (R306). -/
def RunInfo.owed (r : RunInfo) : Nat := r.late + (match r.retBuf with | some b => b.want.length | none => 0)

/-- Another store to the location that an Uncached AMO, or the swap of a leaf's A and D, has read makes it read again: it stays indivisible
(R101, R331). [DEDUCED, log 129] -/
def amoBreak (s0 : State) (pa n : Nat) : State :=
  let hit := fun (r : PRead) => (match r.who with | .swap _ _ => true | _ => false) && r.done && decide (r.pa < pa + n) && decide (pa < r.pa + r.n)
  let s := if s0.ms.preads.any hit then s0.modMs (fun m => { m with preads := m.preads.filter (fun r => ! hit r) }) else s0
  if ([0, 1, 2, 3] : List StrandId).any (fun k => (s.str k).run.retBuf.any (fun b => b.amo)) then
    ([0, 1, 2, 3] : List StrandId).foldl (fun (s : State) k =>
      match (s.str k).run.retBuf with
      | some b =>
        if b.amo && b.apa < pa + n && pa < b.apa + b.size then
          s.modRun k (fun r => { r with retBuf := none, late := r.owed })
        else s
      | none => s) s
  else s

/-- A write leaves on the near port and awaits its acknowledgement. -/
def sendWrite (s : State) (k : Option StrandId) (dev : Bool) (who : Option Agent) (pa : Nat) (bs : List Byte) : State :=
  ((amoBreak s pa bs.length).emit (.nearWrite pa bs false)).modMs (fun m => { m with
    maint := m.maint ++ [{ line := pa / 128, k := k, pre := false, ev := false, dev := dev, agent := who }] })

/-! ### Accesses of the block's engines (Table 13-2) -/

/-- The words of a line that n bytes from pa touch. -/
def wordsIn (line pa n : Nat) : List Nat :=
  (List.range 16).filter (fun w => decide (pa < line * 128 + 8 * w + 8) && decide (line * 128 + 8 * w < pa + n))

/-- Words of an L2 line are read, past the L1D: those of a dirty L1D half come from it. -/
def meetWords (s : State) (k : StrandId) (l : Line) (ws : List Nat) : Meet :=
  if s.marks.isEmpty then .ok s
  else
    ws.foldl (fun r w =>
      match r with
      | .ok s =>
        match s.ms.l1d.find false (l.line * 2 + w / 8) with
        | some q =>
          if q.st == .modified then meetData s k .l1d q (w % 8) true (l.line * 128 + 8 * w)
          else meetData s k .l2 l w (s.dirty l.line) (l.line * 128 + 8 * w)
        | none => meetData s k .l2 l w (s.dirty l.line) (l.line * 128 + 8 * w)
      | r => r) (.ok s)

/-- A dirty L1D copy is merged into the L2 line; its words are met as an eviction meets them. -/
def mergeL1D (s : State) (line : Nat) : State :=
  if s.l1dDirty line then
    ((meetHalves s line).modArr .l2 (fun c => c.upd false line (fun q => { q with st := .modified }))).modArr .l1d (fun c => { c with lines := c.lines.map (fun q =>
      if ! q.far && q.line / 2 == line && q.st == .modified then { q with st := .exclusive } else q) })
  else s

/-- An engine access has been performed, so that none of its agent waits for a line any more (R308). -/
def engDone (s : State) (g : Ag) : State :=
  if s.ms.engAt.any (fun p => p.1 == g) then s.modMs (fun m => { m with engAt := m.engAt.filter (fun p => p.1 != g) }) else s

/-- An engine asks for a line and waits for it. -/
def engAsk (s : State) (g : Ag) (line : Nat) (own up : Bool) : Look :=
  match missL2 s line own (.eng g) up false [] with
  | none => .wait s none
  | some s1 => .wait (s1.modMs (fun m => { m with engAt := (g, line) :: m.engAt.filter (fun p => p.1 != g) })) none

/-- An engine reads n bytes at pa, within one line of Normal memory, past the L1D for its strand: through the L2, where a miss takes a
miss register and allocates. The walker and the table reads use a side-buffer line without promoting it (walk). -/
def readUse (s : State) (g : Ag) (pa n : Nat) (walk : Bool) : Look :=
  let line := pa / 128
  let have' := fun (s : State) =>
    match lookL2 s line with
    | (none, s1) => Look.wait s1 none
    | (some l, s1) =>
      match meetWords s1 g.k l (wordsIn line pa n) with
      | .check s2 => .check s2
      | .again s2 => .wait (dropL1 s2 line) none
      | .ok s2 =>
        match lookPoison s2 g.k line with
        | some s3 => .check s3
        | none => .hit (engDone ((mergeL1D s2 line).modArr .l2 (fun c => c.touch 4 l.set l.way)) g)
  if (s.ms.l2.find false line).isSome then have' s
  else if (s.mshrOf line).isSome then engAsk s g line false false
  else if walk && s.ms.side.contains line then .hit (engDone (trackMiss s line) g)
  else
    match demandFind s line with
    | none => .wait s none
    | some (true, s1) => have' s1
    | some (false, s1) => engAsk s1 g line false false

/-- Words of an L2 line that are written whole take new check bits. -/
def freshWords (s : State) (l : Line) (ws : List Nat) : State :=
  if s.marks.isEmpty then s
  else { s with marks := s.marks.filter (fun m => ! (m.code == 3 && ws.any (fun w => m.loc == cacheLoc l.set l.way w))) }

/-- The words of a line that n bytes at pa fill, and those that they write in part. -/
def fullWords (line pa n : Nat) : List Nat :=
  (wordsIn line pa n).filter (fun w => decide (pa ≤ line * 128 + 8 * w) && decide (line * 128 + 8 * w + 8 ≤ pa + n))
def partWords (line pa n : Nat) : List Nat := (wordsIn line pa n).filter (fun w => ! (fullWords line pa n).contains w)

/-- Bytes go into a line that the L2 owns, past the L1D, whose copies are merged and leave. -/
def writeHeld (s : State) (l : Line) (pa : Nat) (bs : List Byte) : State :=
  let line := pa / 128
  let s1 := dropL1 ((mergeL1D s line).modArr .l2 (fun c => (c.upd false line (fun q => { q with st := .modified })).touch 4 l.set l.way)) line
  putNear (freshWords s1 l (fullWords line pa bs.length)) pa bs

/-- An engine writes bytes at pa, within one line of Normal memory, past the L1D for its strand. A whole line that the core does not hold
is streamed, or allocated without a read: ownership alone is asked for. A save of a tile frame fetches nothing: a part of a line that the core
does not own goes to the near port (R161). [DEDUCED, log 28] -/
def writeUse (s0 : State) (g : Ag) (pa : Nat) (bs : List Byte) : Look :=
  let line := pa / 128
  let n := bs.length
  let whole := pa % 128 == 0 && n == 128
  let s := if whole then s0 else streamPartial s0 line
  let through := fun (s : State) => Look.hit (engDone (putNear (sendWrite (dropL1 s line) (some g.k) false none pa bs) pa bs) g)
  let own := fun (s : State) =>
    match missL2 s line true (.eng g) false true [{ k := some g.k, pa := pa, bs := bs }] with
    | none => Look.wait s0 none
    | some s1 => .hit (engDone (putNear s1 pa bs) g)
  let have' := fun (s : State) =>
    match lookL2 s line with
    | (none, s1) => Look.wait s1 none
    | (some l, s1) =>
      if l.st = .shared then
        (if whole then own s1 else if g.id = 1 then through (freshWords s1 l (fullWords line pa n)) else engAsk s1 g line true true)
      else
        match meetWords s1 g.k l (partWords line pa n) with
        | .check s2 => .check s2
        | .again s2 => .wait (dropL1 s2 line) none
        | .ok s2 => .hit (engDone (writeHeld (if whole then (streamWhole s2 line true).2 else s2) l pa bs) g)
  if (s.ms.l2.find false line).isSome then have' s
  else if (s.mshrOf line).isSome then (if whole then own s else engAsk s g line true false)
  else
    match demandFind s line with
    | none => .wait s none
    | some (true, s1) => have' s1
    | some (false, s1) =>
      if whole then
        let r := streamWhole s1 line false
        if r.1 then
          .hit (engDone (putNear ((r.2.emit (.nearWrite (line * 128) bs false)).modMs (fun m => { m with
            maint := m.maint ++ [{ line := line, k := some g.k, pre := false, ev := false, dev := false, agent := none }] })) pa bs) g)
        else own r.2
      else if g.id = 1 then through s1
      else engAsk s1 g line true false

/-- The lines of n bytes from pa. -/
def linesOf (pa n : Nat) : List Nat := if n = 0 then [] else (List.range ((pa + n - 1) / 128 - pa / 128 + 1)).map (· + pa / 128)

/-! ### Near-port reads that allocate nothing (R295, R306, R466) -/

/-- How such a read stands: its data has come, poisoned or with an error answer (the bytes then stand in near memory); or it is awaited. -/
inductive PortRes where
  | got (bad err : Bool) (s : State)
  | wait (s : State)

/-- Read n bytes at pa, within one line, at the near port: the read leaves once; keep says that its data may be taken again.
[DESIGN CHOICE, log 140] -/
def askPort (s : State) (who : PWho) (pa n : Nat) (own keep : Bool) : PortRes :=
  match s.ms.preads.find? (fun r => r.who == who && r.pa == pa && r.n == n) with
  | none =>
    .wait ((s.modMs (fun m => { m with preads := m.preads.filter (fun r => ! (r.who == who && r.done && ! keep)) ++
      [{ who := who, pa := pa, n := n, done := false, poison := false, err := false, newer := [] }] })).emit (.nearRead pa n own))
  | some r =>
    if ! r.done then .wait s
    else .got r.poison r.err (if keep then s else s.modMs (fun m => { m with preads := m.preads.filter (fun q => q != r) }))

/-- The reads of an agent whose data has come are forgotten; data that is still to come will be nobody's. -/
def dropReads (s : State) (who : PWho) : State :=
  if s.ms.preads.any (fun r => r.who == who) then
    s.modMs (fun m => { m with preads := (m.preads.filter (fun r => ! (r.who == who && r.done))).map (fun r =>
      if r.who == who then { r with who := .own } else r) })
  else s

/-- A table line that the near port answered with an error gives its walk 0x09 (R332); the line is then read afresh by the next access. -/
def dropErrLine (s : State) (line : Nat) : State := ((dropL1 s line).modArr .l2 (fun c => c.drop false line)).dropMark 0x16 line

/-- How a table read ends: its bytes stand in near memory; it waits; a machine check is pending; the near port answered with an error. -/
inductive TRead where
  | hit (s : State)
  | wait (s : State)
  | check (s : State)
  | err (s : State)

/-- A table read of n bytes at pa, within one line, by strand k for va, with no translation (R61, R304, R330, R332). What the near port has
answered stands until the table has been read to its end. -/
def tableRead (s : State) (k : StrandId) (va : Word) (pa n : Nat) : TRead :=
  if s.mtype pa = .normal then
    if (s.ms.l2.find false (line128 pa)).isSome && (s.markAt 0x16 (line128 pa)).isSome then .err (dropErrLine s (line128 pa))
    else
      match readUse s { k := k, id := 0 } pa n true with
      | .hit s1 => .hit s1
      | .wait s1 _ => .wait s1
      | .check s1 => .check s1
  else
    match askPort s (.table k va) pa n false true with
    | .wait s1 => .wait s1
    | .got bad err s1 =>
      if err then .err (dropReads s1 (.table k va))
      else if bad then .check (consume30 (dropReads s1 (.table k va)) k 0x15 (line128 pa) (some pa))
      else .hit s1

/-! ### Writes of agents beside the caches (R295, R312, R347, R377) -/

/-- Bytes, within one line, that an agent beside the caches writes. An owned line is updated in the L2, its L1 copies merged first; a line of the
eviction buffer that has not left returns there. Any other line is written at the near port with no allocation: a Shared copy is updated
and stays, a side-buffer copy dies; a line whose miss is outstanding is written at its fill, one whose eviction has left after that write's
acknowledgement. [DESIGN CHOICE, log 128] -/
def agentLine (s0 : State) (who : Agent) (pa : Nat) (bs : List Byte) : State :=
  let line := pa / 128
  let ev := s0.ms.evbuf.find? (fun e => e.line == line)
  let s1 := streamPartial s0 line
  let s2 := if ev.any (fun e => ! e.sent) then (match demandFind s1 line with | some (_, s) => s | none => s1) else s1
  match lookL2 s2 line with
  | (some l, s3) =>
    let s4 := (partWords line pa bs.length).foldl (fun s w => meetWord s .l2 l line (s.dirty line) w) s3
    if l.st = .shared then sendWrite (putNear (freshWords (dropL1 s4 line) l (fullWords line pa bs.length)) pa bs) none false (some who) pa bs
    else writeHeld s4 l pa bs
  | (none, s3) =>
    let s4 := s3.modMs (fun m => { m with side := m.side.filter (· != line) })
    if (s4.mshrOf line).isSome then
      putNear (s4.modMs (fun m => { m with mshr := m.mshr.map (fun q =>
        if q.line == line then { q with pre := false, stores := q.stores ++ [{ k := none, pa := pa, bs := bs }] } else q) })) pa bs
    else
      match ev with
      | some e => if e.sent then putNear (s4.modMs (fun m => { m with lateW := m.lateW ++ [(pa, bs, who)] })) pa bs else putNear s4 pa bs
      | none => putNear (sendWrite s4 none false (some who) pa bs) pa bs

/-- Bytes cut where lines of 128 bytes begin; f bounds the cuts. -/
def lineCuts : Nat → Nat → List Byte → List (Nat × List Byte)
  | 0, _, _ => []
  | f + 1, pa, bs =>
    if bs.isEmpty then []
    else (pa, bs.take (128 - pa % 128)) :: lineCuts f (pa + (128 - pa % 128)) (bs.drop (128 - pa % 128))

/-- Bytes written to near memory by an agent beside the caches. [DESIGN CHOICE, log 128] [DEDUCED, log 34] -/
def nearWrite (s : State) (pa : Nat) (bs : List Byte) : State :=
  (lineCuts (bs.length / 128 + 2) pa bs).foldl (fun s p => agentLine s .other p.1 p.2) s

end Sys2Proof.Machine
end

