-- ==== Sys2Proof/Machine/Xlate.lean ====
section
/-! DEFINITION. Near and far translation, probes, and the accesses that the block makes on its own through them (14, 12). -/

namespace Sys2Proof.Machine

open Sys2Proof

/-- The kinds of access that translation tells apart (R329, R330). -/
inductive AK where
  | fetch
  | load
  | store
  | pload
  | pstore
  deriving DecidableEq, Repr

/-- The page fault of a kind (R325, Table 3-9). -/
def AK.pf : AK → BitVec 8
  | .fetch => 0x04
  | .load => 0x05
  | .pload => 0x05
  | .store => 0x06
  | .pstore => 0x06

/-- With whose level, prevention bits and translation an access is made (R290, R274, R51). -/
structure XCtx where
  k : StrandId
  lv : Lvl
  sap : Bool
  sep : Bool
  ptb : Word
  asid : BitVec 16
  deriving DecidableEq, Repr

/-- The strand's own accesses. -/
def State.xctx (s : State) (k : StrandId) : XCtx :=
  let t := s.str k
  { k := k, lv := t.status.lvl, sap := t.status.sap, sep := t.status.sep, ptb := t.xl.ptb, asid := t.xl.asid }

/-- The strand's accesses with the privilege of another level (R51, R66). -/
def State.xctxAt (s : State) (k : StrandId) (y : Lvl) : XCtx := { s.xctx k with lv := y }

/-- An event with nothing but its number, SVFA and INFO. -/
def mkEv (num : BitVec 8) (fa : Word) (info : Nat) (rel : Lvl) : Ev :=
  { num := num, fa := fa, info := BitVec.ofNat 16 info, rel := rel, src := .instr, asid := 0 }

/-- How a translation ends: the address and type; an event; a machine check, or a table line that it waits for. -/
inductive XRes where
  | ok (pa : Nat) (t : MType) (s : State)
  | fault (e : Ev) (s : State)
  | check (s : State)

/-! ### Permissions (R329) -/

/-- Whether a leaf has a bit. -/
def leafBit (leaf : Nat) (i : Nat) : Bool := tbit leaf i

/-- The cause of Table 14-5 that a leaf gives an access, if any. -/
def permCause (leaf : Nat) (kind : AK) (x : XCtx) : Option (BitVec 8) :=
  let u := leafBit leaf 2
  let w := leafBit leaf 1
  let userNo := x.lv == .ul && ! u
  match kind with
  | .fetch => if leafBit leaf 63 || userNo then some 0x04 else if x.lv != .ul && x.sep && u then some 0x08 else none
  | .load => if userNo then some 0x05 else if x.lv != .ul && x.sap && u then some 0x07 else none
  | .pload => if userNo then some 0x05 else if x.lv != .ul && x.sap && u then some 0x07 else none
  | .store => if ! w || userNo then some 0x06 else if x.lv != .ul && x.sap && u then some 0x07 else none
  | .pstore => if ! w || userNo then some 0x06 else if x.lv != .ul && x.sap && u then some 0x07 else none

/-- log2 of the page size of a leaf at a level (Table 14-3). -/
def pageShift (level : Nat) : Nat := 12 + 9 * (level - 1)

/-- The physical address and type that a leaf gives va (R328). -/
def leafPa (s : State) (leaf level : Nat) (va : Nat) : Nat × MType :=
  let sh := pageShift level
  let pa := bits leaf 51 12 * 4096 / 2 ^ sh * 2 ^ sh + va % 2 ^ sh
  let t := s.mtype pa
  (pa, if t = .normal ∧ bits leaf 4 3 ≠ 0 then .uncached else t)

/-! ### The walk (R330 to R332) -/

/-- How a walk ends: the leaf, its level and its address; an event; a machine check, or a line that it waits for. -/
inductive WRes where
  | leaf (e level ea : Nat) (s : State)
  | fault (e : Ev) (s : State)
  | check (s : State)

/-- The levels of the walk from level n down, the table at t; a table read that must wait leaves the walk to be made again from the
root. -/
def walkFrom (x : XCtx) (kind : AK) (va : Word) : Nat → Nat → State → WRes
  | 0, _, s => .fault (mkEv kind.pf va 0 .ul) s
  | n + 1, t, s =>
    let k := n + 1
    let ea := t + 8 * bits va.toNat (11 + 9 * k) (3 + 9 * k)
    if s.mtype ea = .device then .fault (mkEv 0x0A va k .ul) s
    else
      match tableRead s x.k va ea 8 with
      | .wait s1 => .check s1
      | .check s1 => .check s1
      | .err s1 => .fault (mkEv 0x09 va k .ul) s1
      | .hit s1 =>
        let e := s1.near.getLE ea 8
        if ! tbit e 0 then .fault (mkEv kind.pf va 0 .ul) s1
        else if k = 1 ∨ tbit e 7 then
          if (bits e 51 12 * 4096) % 2 ^ pageShift k ≠ 0 then .fault (mkEv kind.pf va 0 .ul) s1 else .leaf e k ea s1
        else walkFrom x kind va n (bits e 51 12 * 4096) s1

/-- The number with bit i set. -/
def setBit (v i : Nat) : Nat := if tbit v i then v else v + 2 ^ i

/-! ### Near TLBs (R334) -/

/-- Whether an entry serves va for an ASID. -/
def TlbE.hit (e : TlbE) (asid : BitVec 16) (va : Nat) : Bool :=
  e.vpn == va % 2 ^ 48 / 2 ^ pageShift e.level && (leafBit e.leaf.toNat 8 || e.asid == asid)

/-- Put an entry into a TLB set of n entries; which entry a full set gives up is a free value. [DESIGN CHOICE, log 32] -/
def tlbPut (free n : Nat) (l : List TlbE) (e : TlbE) : List TlbE :=
  let l := l.filter (fun q => ! (q.level == e.level && q.vpn == e.vpn && q.asid == e.asid))
  if l.length < n then e :: l else e :: l.eraseIdx (Config.tlbVictim free n % n)

/-- The set of the L2 TLB that holds an entry: its page number modulo 256. [DESIGN CHOICE, log 32] -/
def TlbE.set (e : TlbE) : Nat := e.vpn % 256

/-- Put an entry into its set of the L2 TLB, 8 ways of 256 sets (Table 14-6). -/
def tlbPut2 (free : Nat) (l : List TlbE) (e : TlbE) : List TlbE :=
  tlbPut free 8 (l.filter (fun q => q.set == e.set)) e ++ l.filter (fun q => q.set != e.set)

/-- Install an entry in the TLB of the access, and in the L2 TLB when a walk made it. [DESIGN CHOICE, log 32] -/
def tlbInstall (s : State) (fetch walked : Bool) (e : TlbE) : State :=
  let full := decide (32 ≤ s.ms.itlb.length) || decide (64 ≤ s.ms.dtlb.length)
    || decide (8 ≤ (s.ms.l2tlb.filter (fun q => q.set == e.set)).length)
  let s1 := s.modMs (fun m => { m with
    itlb := if fetch then tlbPut s.free 32 m.itlb e else m.itlb
    dtlb := if fetch then m.dtlb else tlbPut s.free 64 m.dtlb e
    l2tlb := if walked then tlbPut2 s.free m.l2tlb e else m.l2tlb })
  if full then { s1 with free := s1.free + 1 } else s1

/-- An entry whose parity has failed is discarded by the access that meets it (R334), which then looks further and walks.
[DESIGN CHOICE, log 32] -/
def dropBadTlb (s : State) (fetch : Bool) (asid : BitVec 16) (va : Nat) : State :=
  let bad := fun (e : TlbE) => e.bad && e.hit asid va
  if (if fetch then s.ms.itlb else s.ms.dtlb).any bad || s.ms.l2tlb.any bad then
    s.modMs (fun m => { m with
      itlb := if fetch then m.itlb.filter (fun e => ! bad e) else m.itlb
      dtlb := if fetch then m.dtlb else m.dtlb.filter (fun e => ! bad e)
      l2tlb := m.l2tlb.filter (fun e => ! bad e) })
  else s

/-- The answer of a leaf: its permission, then the address. -/
def answer (s : State) (x : XCtx) (kind : AK) (va : Word) (leaf level : Nat) : XRes :=
  match permCause leaf kind x with
  | some c => .fault (mkEv c va 0 .ul) s
  | none => let p := leafPa s leaf level va.toNat; .ok p.1 p.2 s

/-- What the near port has answered of a walk's tables is forgotten with the end of the walk. -/
def endWalk (s : State) (x : XCtx) (va : Word) : State := dropReads (dropReads s (.table x.k va)) (.swap x.k va)

/-- A walk from PTB, with A and D set by compare-and-swap and the entry installed (R330, R331): the swap needs the line owned, and a
walk that waits for ownership starts again from the root. In an Uncached region the swap reads the leaf once more, and swaps what
that read returns. [DESIGN CHOICE, log 123] -/
def walkAll (s : State) (x : XCtx) (kind : AK) (va : Word) : XRes :=
  match walkFrom x kind va 4 (bits x.ptb.toNat 51 12 * 4096) s with
  | .fault e s1 => .fault e (endWalk s1 x va)
  | .check s1 => .check s1
  | .leaf e level ea s1 =>
    match permCause e kind x with
    | some c => .fault (mkEv c va 0 .ul) (endWalk s1 x va)
    | none =>
      let n := if kind = .store then setBit (setBit e 5) 6 else setBit e 5
      let done := fun (s : State) =>
        let s3 := tlbInstall (endWalk s x va) (kind == .fetch) true
          { asid := x.asid, level := level, vpn := va.toNat % 2 ^ 48 / 2 ^ pageShift level, leaf := w64 n, bad := false }
        let p := leafPa s3 n level va.toNat
        XRes.ok p.1 p.2 s3
      if n = e then done s1
      else if s1.mtype ea != .normal then
        match askPort s1 (.swap x.k va) ea 8 true true with
        | .wait s2 => .check s2
        | .got bad err s2 =>
          if err then .fault (mkEv 0x09 va level .ul) (endWalk s2 x va)
          else if bad then .check (consume30 (endWalk s2 x va) x.k 0x15 (line128 ea) (some ea))
          else done (putNear (sendWrite s2 none false (some .other) ea (toLE 8 n)) ea (toLE 8 n))
      else
        match writeUse s1 { k := x.k, id := 0 } ea (toLE 8 n) with
        | .hit s2 => done s2
        | .wait s2 _ => .check s2
        | .check s2 => .check s2

/-- Translate a near virtual address that is not a window address (R325 to R335). -/
def translate (s : State) (x : XCtx) (kind : AK) (va : Word) : XRes :=
  if va.toNat ≥ 2 ^ 48 then .fault (mkEv kind.pf va 0 .ul) s
  else if ! x.ptb.getLsbD 0 then
    if x.lv = .ml then .ok va.toNat (s.mtype va.toNat) s else .fault (mkEv kind.pf va 0 .ul) s
  else
    let s := dropBadTlb s (kind == .fetch) x.asid va.toNat
    let tlb := if kind = .fetch then s.ms.itlb else s.ms.dtlb
    let usable := fun (e : TlbE) => e.hit x.asid va.toNat && ! (kind == .store && ! leafBit e.leaf.toNat 6)
    match tlb.find? usable with
    | some e => answer s x kind va e.leaf.toNat e.level
    | none =>
      match s.ms.l2tlb.find? usable with
      | some e =>
        match answer s x kind va e.leaf.toNat e.level with
        | .ok pa t s1 => .ok pa t (tlbInstall s1 (kind == .fetch) false e)
        | r => r
      | none => walkAll s x kind va

/-! ### Ranges -/

/-- A range of n bytes from va cut at 4 KiB pages. -/
def pageSegs : Nat → Nat → Nat → List (Nat × Nat)
  | 0, _, _ => []
  | f + 1, va, n =>
    if n = 0 then []
    else
      let m := min n (4096 - va % 4096)
      (va, m) :: pageSegs f (va + m) (n - m)

/-- The pages of n bytes from va. -/
def segs (va n : Nat) : List (Nat × Nat) := pageSegs (n / 4096 + 2) va n

/-- Whether n bytes from va lie partly in the window (R285). -/
def winPart (va : Word) (n : Nat) : Bool :=
  decide (va.toNat < spw + 0x1000000) && decide (spw < va.toNat + n)
    && ! (decide (spw ≤ va.toNat) && decide (va.toNat + n ≤ spw + 0x1000000))

/-! ### The scratchpad's words (R287) -/

/-- The 8-byte words that n bytes from o touch. -/
def spWords (o n : Nat) : List Nat := if n = 0 then [] else (List.range ((o + n - 1) / 8 - o / 8 + 1)).map (fun i => (i + o / 8) * 8)

/-- Errors met by a read of scratchpad bytes for strand k: whether the data is delivered, and the state. -/
def spMeet (s : State) (k : StrandId) (o n : Nat) : Bool × State :=
  if s.marks.isEmpty then (true, s)
  else
    (spWords o n).foldl (fun r w =>
      if ! r.1 then r
      else
        match r.2.markAt 0x07 w with
        | none => r
        | some m =>
          if m.unc then (false, consume30 r.2 k 0x07 0 (some w)) else (true, logCorr (r.2.dropMark 0x07 w) (some k) 0x07 0 (some w) false))
      (true, s)

/-- Write scratchpad bytes for strand k (R287): a whole word takes new check bits; a part of a word is a read-modify-write, which corrects
and logs a single-bit error; one that finds an uncorrectable word writes nothing and raises 0x30. -/
def spWrite (s : State) (k : StrandId) (o : Nat) (bs : List Byte) : State :=
  if s.marks.isEmpty then { s with spad := s.spad.putN o bs }
  else
    let whole := fun w => decide (o ≤ w) && decide (w + 8 ≤ o + bs.length)
    let bad := (spWords o bs.length).filter (fun w => ! whole w && (match s.markAt 0x07 w with | some m => m.unc | none => false))
    match bad with
    | [] =>
      let s1 := (spWords o bs.length).foldl (fun s w =>
        if whole w then s.dropMark 0x07 w
        else if (s.markAt 0x07 w).isSome then logCorr (s.dropMark 0x07 w) (some k) 0x07 0 (some w) false else s) s
      { s1 with spad := s1.spad.putN o bs }
    | w :: _ => consume30 s k 0x07 0 (some w)

/-! ### Whole accesses of the block -/

/-- How an access to a range ends. -/
inductive XB where
  | ok (b : List Byte) (s : State)
  | fault (e : Ev) (s : State)
  | check (s : State)

/-- One physical segment of an access. -/
structure Seg where
  pa : Nat
  n : Nat
  t : MType
  deriving DecidableEq, Repr

/-- Translate every page of a range, first page first. -/
def probeSegs (x : XCtx) (kind : AK) (devOk : Bool) : List (Nat × Nat) → List Seg → State → XB × List Seg
  | [], acc, s => (.ok [] s, acc)
  | (va, n) :: r, acc, s =>
    match translate s x kind (w64 va) with
    | .fault e s1 => (.fault e s1, acc)
    | .check s1 => (.check s1, acc)
    | .ok pa t s1 =>
      if t = .device ∧ devOk = false then (.fault (mkEv kind.pf (w64 va) 0 .ul) s1, acc)
      else probeSegs x kind devOk r (acc ++ [{ pa := pa, n := n, t := t }]) s1

/-- A probe of n bytes at va (R480): nothing is read or written. dev says that Device bytes pass. -/
def probe (s : State) (x : XCtx) (kind : AK) (va : Word) (n : Nat) (devOk : Bool) : XB :=
  if winPart va n then
    let hi := spw + s.spadSize
    if va.toNat < spw then
      match (probeSegs x kind devOk (segs va.toNat (spw - va.toNat)) [] s).1 with
      | .ok _ s1 => if va.toNat + n ≤ hi then .ok [] s1 else .fault (mkEv kind.pf (w64 hi) 0 .ul) s1
      | r => r
    else .fault (mkEv kind.pf (w64 (max va.toNat hi)) 0 .ul) s
  else if isWin va then
    if va.toNat + n ≤ spw + s.spadSize then .ok [] s
    else .fault (mkEv kind.pf (w64 (max va.toNat (spw + s.spadSize))) 0 .ul) s
  else if va.getLsbD 63 then .fault (mkEv kind.pf va 0 .ul) s
  else (probeSegs x kind devOk (segs va.toNat n) [] s).1

/-! ### Far translation (R338, R339) -/

/-- log2 of an FTLB entry's page size. -/
def ftShift (hi : Word) : Nat := match bits hi.toNat 47 46 with | 0 => 24 | 1 => 30 | _ => 36

/-- Whether FTLB entry (FTHI, FTLO) matches va for an ASID. -/
def ftMatch (e : Word × Word) (asid : BitVec 16) (va : Nat) : Bool :=
  let sh := ftShift e.1
  tbit e.2.toNat 7 && (tbit e.2.toNat 6 || bits e.1.toNat 63 48 == asid.toNat)
    && bits va 61 sh == bits e.1.toNat 37 0 / 2 ^ (sh - 24)

/-- The global address that an entry gives va. -/
def ftGa (e : Word × Word) (va : Nat) : Nat :=
  let sh := ftShift e.1
  fld (bits e.2.toNat 61 48) 48 + bits e.2.toNat 47 24 * 2 ^ 24 / 2 ^ sh * 2 ^ sh + va % 2 ^ sh

/-- The kinds of far access. -/
inductive FK where
  | load
  | store
  | amo
  deriving DecidableEq, Repr

/-- How a far translation ends: global address, entry, whether C is set. -/
inductive FRes where
  | ok (ga idx : Nat) (c : Bool) (s : State)
  | fault (e : Ev) (s : State)

/-- Invalidate FTLB entry i. -/
def ftDrop (s : State) (i : Nat) : State :=
  s.modMs (fun m => { m with ftlb := vupd m.ftlb i (fun e => (e.1, e.2 &&& ~~~(0x80 : Word))) })

/-- The checks of Table 14-10 for a far access. -/
def farXlate (s : State) (x : XCtx) (kind : FK) (va : Word) : FRes :=
  let pf : BitVec 8 := if kind = .load then 0x05 else 0x06
  let miss := fun (s : State) => FRes.fault { mkEv 0x0B va 0 .ul with asid := x.asid } s
  if va.getLsbD 62 then .fault (mkEv pf va 0 .ul) s
  else
    match s.ms.ftlb.toList.findIdx? (fun e => ftMatch e x.asid va.toNat) with
    | none => miss s
    | some i =>
      if (s.markAt 0x0D i).isSome then miss (logCorr ((ftDrop s i).dropMark 0x0D i) (some x.k) 0x0D i none false)
      else
        let e := s.ms.ftlb.getD i (0, 0)
        let lo := e.2.toNat
        let r := tbit lo 3
        let w := tbit lo 4
        let u := tbit lo 5
        let perm := (match kind with | .load => r | .store => w | .amo => r && w) && (x.lv != .ul || u)
        if ! perm then .fault (mkEv 0x0C va i .ul) s
        else if x.lv != .ul && x.sap && u then .fault (mkEv 0x07 va 0 .ul) s
        else .ok (ftGa e va.toNat) i (tbit lo 2) s

end Sys2Proof.Machine
end

