-- ==== Sys2Proof/Machine/Access.lean ====
section
/-! DEFINITION. How a strand's own accesses reach memory: near Normal lines through the L1D, Device and Uncached addresses at the near
port, far addresses at the far port, and the blocks that window moves, returns and descriptor loads access (02, R51; 12, R283, R285; 13,
R305, R306; 14, R338, R339; 15, R359, R360). -/

namespace Sys2Proof.Machine

open Sys2Proof

/-- How the body of an instruction ends: it completes; it completes and goes to pc; it set the PC itself; it raises an
event; it does not complete and its command is to be sent again. -/
inductive Res where
  | done (s : State)
  | jump (s : State) (pc : Word)
  | put (s : State)
  | event (e : Ev) (s : State)
  | wait (s : State)

/-- How an access that reads ends: its bytes and the state, or what the instruction does instead. -/
abbrev Got := Except Res (List Byte × State)

/-! ### Pieces and waits -/

/-- n bytes from pa cut where a multiple of w begins; f bounds the pieces. -/
def cutAt (w : Nat) : Nat → Nat → Nat → List (Nat × Nat)
  | 0, _, _ => []
  | f + 1, pa, n =>
    if n = 0 then []
    else
      let m := min n (w - pa % w)
      (pa, m) :: cutAt w f (pa + m) (n - m)

/-- The tag and the words of a held line that an agent beside the caches reads: errors are met as a snoop meets them (R320, R321). -/
def portMeet (s : State) (line pa n : Nat) : State :=
  if s.marks.isEmpty then s
  else
    match lookL2 s line with
    | (none, s1) => s1
    | (some l, s1) =>
      (wordsIn line pa n).foldl (fun s w =>
        match s.ms.l1d.find false (line * 2 + w / 8) with
        | some q => if q.st == .modified then meetWord s .l1d q line true (w % 8) else meetWord s .l2 l line (s.dirty line) w
        | none => meetWord s .l2 l line (s.dirty line) w) s1

/-- Near memory as an agent beside the caches reads back what it alone has written (R363, R387): the core answers for a line that it holds, and
the near port is read for every other, whose data is what the agent wrote. [DESIGN CHOICE, log 128] -/
def portRead (s : State) (pa n : Nat) : List Byte × State :=
  (s.near.getN pa n,
    (cutAt 128 (n / 128 + 2) pa n).foldl (fun s c =>
      if (s.ms.l2.find false (c.1 / 128)).isSome then portMeet s (c.1 / 128) c.1 c.2
      else (s.modMs (fun m => { m with preads := m.preads ++
        [{ who := .own, pa := c.1, n := c.2, done := false, poison := false, err := false, newer := [] }] })).emit (.nearRead c.1 c.2 false)) s)

/-- How an agent's read of near memory ends: its bytes, and the structure and place of an uncorrectable word among them (R320, R393); it waits
for the near port; it waits for an acknowledgement. -/
inductive AgRead where
  | got (bs : List Byte) (bad : Option (Nat × Nat)) (s : State)
  | wait (s : State)

/-- The uncorrectable error that a word of a line shows to an agent that reads it: in the L2, or in a dirty L1D half. -/
def lineBad (s : State) (line pa n : Nat) : Option (Nat × Nat) :=
  if s.marks.isEmpty then none
  else
    let unc := fun (code loc : Nat) => match s.markAt code loc with | some m => if m.unc then some (code, loc) else none | none => none
    (wordsIn line pa n).findSome? (fun w =>
      match s.ms.l1d.find false (line * 2 + w / 8) with
      | some q =>
        if q.st == .modified then unc 2 (cacheLoc q.set q.way (w % 8))
        else (s.ms.l2.find false line).bind (fun l => if s.dirty line then unc 3 (cacheLoc l.set l.way w) else none)
      | none => (s.ms.l2.find false line).bind (fun l => if s.dirty line then unc 3 (cacheLoc l.set l.way w) else none))

/-- One line of an agent's read: the core answers for a line that it holds, one of the eviction buffer that has not left returns to the L2, a
side-buffer copy is used, and any other line is read at the near port (R295, R311, R312, R314). [DESIGN CHOICE, log 128]
[DESIGN CHOICE, log 140] -/
def agentLook (s0 : State) (who : PWho) (pa n : Nat) : AgRead :=
  let line := pa / 128
  let ev := s0.ms.evbuf.find? (fun e => e.line == line)
  let s := if ev.any (fun e => ! e.sent) then (match demandFind s0 line with | some (_, s) => s | none => s0) else s0
  let here := fun (s : State) =>
    let s1 := probeLine s line
    if (s1.ms.l2.find false line).isNone then AgRead.wait s1
    else
      match lineBad s1 line pa n with
      | some b => .got [] (some b) s1
      | none =>
        let s2 := portMeet s1 line pa n
        if (s2.ms.l2.find false line).isNone then .wait s2
        else if s2.badLine pa then .got [] (some (0x15, line)) s2 else .got (s2.near.getN pa n) none s2
  if (s.ms.l2.find false line).isSome then here s
  else if (s.mshrOf line).isSome || ev.any (fun e => e.sent) then .wait s
  else if ev.isSome then .got (s.near.getN pa n) none s
  else if s.ms.side.contains line then .got (s.near.getN pa n) none (trackMiss s line)
  else
    match askPort s who pa n false true with
    | .wait s1 => .wait s1
    | .got bad err s1 => .got (s1.near.getN pa n) (if bad || err then some (0x15, line) else none) s1

/-- An agent's read of a range, line by line; what the near port has answered stands until the whole range has been read.
[DESIGN CHOICE, log 140] -/
def agentRead (who : PWho) : List (Nat × Nat) → List Byte → State → AgRead
  | [], acc, s => .got acc none (dropReads s who)
  | (pa, n) :: r, acc, s =>
    match agentLook s who pa n with
    | .wait s1 => .wait s1
    | .got _ (some b) s1 => .got [] (some b) (dropReads s1 who)
    | .got bs none s1 => agentRead who r (acc ++ bs) s1

/-- The switch case of the instruction that waits (Table 2-2). [DESIGN CHOICE, log 4] -/
def waitFor (s : State) (k : StrandId) (c : Option Cond) : State := s.modRun k (fun r => { r with cond := c })

/-- Whether a store of strand k waits in a miss register for its line. [DESIGN CHOICE, log 29] -/
def storesWait (s : State) (k : StrandId) : Bool := s.ms.mshr.any (fun m => m.stores.any (fun q => q.k == some k))

/-- Whether a near-port write of strand k awaits its acknowledgement. [DEDUCED, log 36] -/
def writesOpen (s : State) (k : StrandId) : Bool := s.ms.maint.any (fun m => ! m.pre && m.k == some k)

/-- Whether a Device write of strand k, or the write of its Uncached AMO with AQ, awaits its acknowledgement, or a Device read that another
instruction of the strand has made its data: no later access of the strand is performed before it (R305, R103). [DEDUCED, log 36] -/
def devOpen (s : State) (k : StrandId) : Bool :=
  s.ms.maint.any (fun m => m.dev && m.k == some k)
    || (s.str k).run.retBuf.any (fun b => b.dev && ! b.want.isEmpty && b.pc != (s.str k).pc)

/-- Whether a near access of strand k that a Device access must follow is still to be performed: a store in a miss register, a write that awaits
its acknowledgement, a tile move; a chain's moves are not ordered against it (R305, R274). [DEDUCED, log 36] -/
def nearBefore (s : State) (k : StrandId) : Bool :=
  storesWait s k || s.ms.maint.any (fun m => ! m.pre && m.k == some k)
    || s.tiles.inflight.any (fun o => o.ctx.k == k && ! o.chain && o.unit == .move)

/-- Whether a tile move that strand k has dispatched is still to write bytes in a range (or, for a store over it, to read them): the
strand's later access waits for it (R102, R142). A chain's moves are not ordered against later accesses of the strand (R274).
[DESIGN CHOICE, log 49] -/
def moveHits (s : State) (k : StrandId) (sp wr : Bool) (a n : Nat) : Bool :=
  s.tiles.inflight.any (fun o =>
    let hit := fun (q : MvPiece) => (q.pl == .sp) == sp && decide (q.a < a + n) && decide (a < q.a + q.n)
    o.ctx.k == k && ! o.chain && (match o.body with
      | .load p => wr && p.todo.any hit
      | .store p => p.todo.any hit
      | _ => false))

/-- Whether any of the segments of a near access meets such a move. -/
def segsHeld (s : State) (k : StrandId) (wr : Bool) (ps : List Seg) : Bool := ps.any (fun p => moveHits s k false wr p.pa p.n)

/-! ### Near translation of a scalar access -/

/-- Every segment is translated, lowest address first, before any byte is accessed (R83). [DEDUCED, log 38] -/
def xlateSegs (x : XCtx) (kind : AK) : List (Nat × Nat) → List Seg → State → Except Res (List Seg × State)
  | [], acc, s => .ok (acc, s)
  | (va, n) :: r, acc, s =>
    match translate s x kind (w64 va) with
    | .fault e s1 => .error (.event e s1)
    | .check s1 => .error (.wait s1)
    | .ok pa t s1 => xlateSegs x kind r (acc ++ [{ pa := pa, n := n, t := t }]) s1

/-- Whether a physical address lies in the core's own register block (R444). [DEDUCED, log 37] -/
def State.ownBlock (s : State) (pa : Nat) : Bool := pa / 2 ^ 18 == s.hw.crb.toNat

/-- What a translated access is. -/
inductive Where where
  | block (off : Nat)
  | dev
  | unc
  | mem

/-- The kind of the segments of an access of n bytes at ea: a Device access that is not a multiple of its size raises 0x0D (R305).
[DEDUCED, log 36] [DEDUCED, log 37] -/
def placeOf (s : State) (ea : Word) (n : Nat) (ps : List Seg) : Except Res Where :=
  if ps.any (fun p => p.t == .device) && ea.toNat % n != 0 then .error (.event (mkEv 0x0D ea 0 .ul) s)
  else
    match ps.find? (fun p => s.ownBlock p.pa) with
    | some p => .ok (.block (if n = 4 ∧ p.n = 4 then p.pa % 2 ^ 18 else 1))
    | none =>
      if ps.any (fun p => p.t == .device) then .ok .dev
      else if ps.any (fun p => p.t == .uncached) then .ok .unc
      else .ok .mem

/-! ### Near Normal reads and writes -/

/-- Every word of a Normal access is looked up in turn; each line must be in the L1D before the load completes.
[DEDUCED, log 38] [DESIGN CHOICE, log 99] -/
def lookAll (k : StrandId) : List (Nat × Nat) → State → Except Res State
  | [], s => .ok s
  | (pa, _) :: r, s =>
    match readLine s k (pa / 64) (pa % 64 / 8) with
    | .hit s1 => lookAll k r s1
    | .wait s1 c => .error (.wait (waitFor s1 k c))
    | .check s1 => .error (.wait s1)

/-- The bytes of physical segments. -/
def segBytes (s : State) (ps : List Seg) : List Byte := ps.flatMap (fun p => s.near.getN p.pa p.n)

/-- The words of physical segments. -/
def segWords (ps : List Seg) : List (Nat × Nat) := ps.flatMap (fun p => cutAt 8 (p.n / 8 + 2) p.pa p.n)

/-- Every piece of a Normal store is made, or none: each lies in one 64-byte line. A piece that waits, or meets a machine check, leaves
what it alone asked for. [DEDUCED, log 38] -/
def storePieces (k : StrandId) (s0 : State) : List (Nat × List Byte) → State → Except Res State
  | [], s => .ok s
  | (pa, bs) :: r, s =>
    match storeLine s k pa bs with
    | .hit s1 => storePieces k s0 r s1
    | _ => match storeLine s0 k pa bs with
      | .hit _ => .error (.wait s0)
      | .wait s1 _ => .error (.wait s1)
      | .check s1 => .error (.wait s1)

/-- The bytes of segments, cut at 64-byte lines. -/
def segCuts : List Seg → List Byte → List (Nat × List Byte)
  | [], _ => []
  | p :: r, bs =>
    (cutAt 64 (p.n / 64 + 2) p.pa p.n).map (fun c => (c.1, (bs.drop (c.1 - p.pa)).take c.2)) ++ segCuts r (bs.drop p.n)

/-! ### Device and Uncached addresses: the near port (R305, R306) -/

/-- Whether the return buffer is bound to this load. -/
def RetBuf.isFor (b : RetBuf) (t : Strand) (ea : Word) (n : Nat) (amo : Bool) : Bool :=
  b.pc == t.pc && b.addr == ea && b.size == n && b.lvl == t.status.lvl && b.amo == amo

/-- The reads of a strand's return buffer are given up: data still to arrive is discarded when it does. -/
def dropRet (s : State) (k : StrandId) : State := s.modRun k (fun r => { r with retBuf := none, late := r.owed })

/-- The parts, at most 8 bytes each, in which the data of a read of n bytes at pa arrives; f bounds them. -/
def beats : Nat → Nat → Nat → List (Nat × Nat)
  | 0, _, _ => []
  | f + 1, pa, n => if n = 0 then [] else (pa, min n 8) :: beats f (pa + 8) (n - 8)

/-- A read of n bytes at ea that goes to the near port, once for each of the given segments: the held data is taken, or the port is
read and the strand waits. A Device read waits for the strand's earlier near accesses (R305). [DEDUCED, log 36]
[DEDUCED, log 129] [DESIGN CHOICE, log 130] -/
def portLoad (s : State) (k : StrandId) (ea : Word) (n : Nat) (segs : List (Nat × Nat)) (dev amo : Bool) : Got :=
  let t := s.str k
  let pa := (segs.headD (0, 0)).1
  let start := fun (_ : Unit) =>
    if dev && nearBefore s k then .error (.wait s)
    else
      let b : RetBuf := { pc := t.pc, addr := ea, size := n, lvl := t.status.lvl, want := segs.flatMap (fun c => beats (c.2 / 8 + 1) c.1 c.2), got := [],
                          err := false, dev := dev, amo := amo, apa := pa }
      let s1 := segs.foldl (fun s c => s.emit (.nearRead c.1 c.2 amo)) (dropRet s k)
      .error (.wait (waitFor (s1.modRun k (fun r => { r with retBuf := some b })) k (some .device)))
  match t.run.retBuf with
  | none => start ()
  | some b =>
    if ! b.isFor t ea n amo then start ()
    else if ! b.want.isEmpty then .error (.wait (waitFor s k (some .device)))
    else
      let s1 := s.modRun k (fun r => { r with retBuf := none })
      if b.err then .error (.wait (consume30 s1 k 0x15 (line128 pa) (some pa))) else .ok (b.got, s1)

/-- A store of strand k that goes to the near port as it is, once for each of the given pieces; its acknowledgement is awaited by a FENCE,
and by every later access when it is a Device write or the write of an AMO with AQ (bar). -/
def portStore (k : StrandId) : List (Nat × List Byte) → (dev bar : Bool) → State → State
  | [], _, _, s => s
  | (pa, bs) :: r, dev, bar, s =>
    let s1 := sendWrite s (some k) bar none pa bs
    portStore k r dev bar (if dev then s1 else putNear s1 pa bs)

/-- The bytes of segments, one piece for each. -/
def segPieces : List Seg → List Byte → List (Nat × List Byte)
  | [], _ => []
  | p :: r, bs => (p.pa, bs.take p.n) :: segPieces r (bs.drop p.n)

/-! ### Far loads and stores (R309, R338, R339, R359, R360) -/

/-- What a far load or AMO of strand k at its PC waits for, if its request has been made. [DEDUCED, log 82] -/
def farPending (s : State) (k : StrandId) (ea : Word) : Option FarReq :=
  s.far.reqs.find? (fun r => r.owner == .load k (s.str k).pc && r.va == ea)

/-- Answers to loads that strand k has given up are dropped. [DEDUCED, log 82] -/
def dropStale (s : State) (k : StrandId) : State :=
  s.modFar (fun f => { f with reqs := f.reqs.filter (fun r =>
    ! ((match r.owner with | .load j _ => j == k | _ => false) && r.done.isSome)) })

/-- A far load or AMO: its response, or a wait for it. A request that is refused at once is taken at once. -/
def farWait (s : State) (k : StrandId) (ea : Word) (make : State → Nat × State) : Except Res (FarReq × List Byte × State) :=
  let take := fun (s : State) (r : FarReq) =>
    match r.done with
    | none => .error (.wait (waitFor s k (some (.far r.id))))
    | some (code, body) =>
      let s1 := s.dropReq r.id
      if code = 0 then .ok (r, body, s1) else .error (.event (mkEv 0x1A ea code.toNat .ul) s1)
  match farPending s k ea with
  | some r => take s r
  | none =>
    let q := make (dropStale s k)
    match q.2.far.reqs.find? (fun r => r.id == q.1) with
    | some r => take q.2 r
    | none => .error (.wait q.2)

/-- The message of a far load of n bytes at a global address. -/
def fldMsg (s : State) (ga n : Nat) : FarMsg := reqMsg s 1 (BitVec.ofNat 14 (ga / 2 ^ 48)) (s.dstEp ga) n ga []

/-- The translation of a far access: a request that its instruction has issued keeps the address and entry it was translated to (R338). -/
def farPlace (s : State) (x : XCtx) (kind : FK) (ea : Word) : FRes :=
  match farPending s x.k ea with
  | some r => .ok (r.msg.addr.toNat / 64 * 64 + ea.toNat % 64) (r.ftlb.getD 0) r.fill s
  | none => farXlate s x kind ea

/-- A far load of n bytes at ea. -/
def farLoad (s : State) (k : StrandId) (ea : Word) (n : Nat) : Got :=
  if 64 < ea.toNat % 64 + n then .error (.event (mkEv 0x0D ea 0 .ul) s)
  else
    match farPlace s (s.xctx k) .load ea with
    | .fault e s1 => .error (.event e s1)
    | .ok ga idx c s1 =>
      let ask := fun (_ : Unit) =>
        let m := if c then fldMsg s1 (ga - ga % 64) 64 else fldMsg s1 ga n
        match farWait s1 k ea (fun s => farRequest s (.load k (s.str k).pc) ea (some idx) c m) with
        | .error r => .error r
        | .ok (r, body, s2) =>
          .ok ((body.drop (ga - r.msg.addr.toNat)).take n, if r.fill then installL1D s2 (ga / 64) true .exclusive body else s2)
      match (if c && (farPending s1 k ea).isNone then s1.ms.l1d.find true (ga / 64) else none) with
      | none => ask ()
      | some l =>
        let s2 := meetTag s1 .l1d l.set l.way
        if (s2.ms.l1d.find true (ga / 64)).isNone then .error (.wait s2)
        else match meetData s2 k .l1d l (ga % 64 / 8) false ga with
          | .check s3 => .error (.wait s3)
          | .again s3 => .error (.wait s3)
          | .ok s3 => .ok ((l.data.drop (ga % 64)).take n, s3.modArr .l1d (fun a => a.touch 3 l.set l.way))

/-- The bytes of a line with some replaced from offset o. -/
def patch (d : List Byte) (o : Nat) (bs : List Byte) : List Byte := d.take o ++ bs ++ d.drop (o + bs.length)

/-- The outstanding far loads whose line a test names deliver their data and install no line. -/
def noFill (s : State) (hit : Nat → Bool) : State :=
  if s.far.reqs.any (fun r => r.fill && hit (r.msg.addr.toNat / 64)) then
    s.modFar (fun f => { f with reqs := f.reqs.map (fun r => if r.fill && hit (r.msg.addr.toNat / 64) then { r with fill := false } else r) })
  else s

/-- A far line of the L1D, its tag met, takes the bytes of a far store (R309, R321); a load of the line on its way brings the bytes of before the
store, and installs no line that would hide it (R102). -/
def patchFar (s0 : State) (ga : Nat) (bs : List Byte) : State :=
  let s1 := noFill s0 (· == ga / 64)
  let s := match s1.ms.l1d.find true (ga / 64) with | some l => meetTag s1 .l1d l.set l.way | none => s1
  s.modArr .l1d (fun a => a.upd true (ga / 64) (fun l => { l with data := patch l.data (ga % 64) bs }))

/-- A translated far store of strand k is sent, and updates a far line of the L1D that holds its bytes. -/
def farSend (s : State) (k : StrandId) (ea : Word) (ga idx : Nat) (bs : List Byte) : State :=
  let s1 := patchFar s ga bs
  farPost s1 k ea (some idx) (reqMsg s1 2 (BitVec.ofNat 14 (ga / 2 ^ 48)) (s1.dstEp ga) 0 ga bs)

/-- A far store. -/
def farStore (s : State) (k : StrandId) (ea : Word) (bs : List Byte) : Res :=
  if 64 < ea.toNat % 64 + bs.length then .event (mkEv 0x0D ea 0 .ul) s
  else
    match farXlate s (s.xctx k) .store ea with
    | .fault e s1 => .event e s1
    | .ok ga idx _ s1 => .done (farSend s1 k ea ga idx bs)

/-! ### Blocks: accesses of several words by one instruction -/

/-- Where one unit of a block lies. -/
inductive UPl where
  | sp (o : Nat)
  | near (ps : List Seg) (w : Where)
  | far (ga idx : Nat)

/-- A unit of a block: its address and place. -/
abbrev Unit1 := Word × UPl

/-- The places of the units of a block, each of u bytes, lowest address first: the first that fails decides.
[DESIGN CHOICE, log 131] -/
def placeUnits (x : XCtx) (st : Bool) (u : Nat) : List Word → List Unit1 → State → Except Res (List Unit1 × State)
  | [], acc, s => .ok (acc, s)
  | va :: r, acc, s =>
    if va.getLsbD 63 then
      if 64 < va.toNat % 64 + u then .error (.event (mkEv 0x0D va 0 .ul) s)
      else
        match farPlace s x (if st then .store else .load) va with
        | .fault e s1 => .error (.event e s1)
        | .ok ga idx _ s1 => placeUnits x st u r (acc ++ [(va, .far ga idx)]) s1
    else if winPart va u then .error (.event (mkEv 0x0D va 0 .ul) s)
    else if isWin va then
      let o := va.toNat - spw
      if s.spadSize < o + u then .error (.event (mkEv 0x0D (w64 (max va.toNat (spw + s.spadSize))) 0 .ul) s)
      else placeUnits x st u r (acc ++ [(va, .sp o)]) s
    else
      match xlateSegs x (if st then .store else .load) (segs va.toNat u) [] s with
      | .error e => .error e
      | .ok (ps, s1) =>
        match placeOf s1 va (min u 8) ps with
        | .error e => .error e
        | .ok w => placeUnits x st u r (acc ++ [(va, .near ps w)]) s1

/-- The addresses of the units of n bytes from ea. -/
def unitAddrs (ea : Word) (n u : Nat) : List Word := (List.range ((n + u - 1) / u)).map (fun i => ea + w64 (u * i))

/-- The Normal segments of a block. -/
def memSegs (us : List Unit1) : List Seg := us.flatMap (fun q => match q.2 with | .near ps .mem => ps | _ => [])

/-- The parts of a block that go to the near port: one read for each unit, and for each page of one (R305, R306). -/
def portCuts (us : List Unit1) : List (Nat × Nat) :=
  us.flatMap (fun q => match q.2 with
    | .near ps .dev => ps.map (fun p => (p.pa, p.n))
    | .near ps .unc => ps.map (fun p => (p.pa, p.n))
    | _ => [])

/-- Whether a unit of a block meets a tile move of the strand that comes first. -/
def unitsHeld (s : State) (k : StrandId) (wr : Bool) (u : Nat) (us : List Unit1) : Bool :=
  us.any (fun q => match q.2 with | .sp o => moveHits s k true wr o u | .near ps _ => segsHeld s k wr ps | .far _ _ => false)

/-- Whether a block has a Device unit. -/
def hasDev (us : List Unit1) : Bool := us.any (fun q => match q.2 with | .near _ .dev => true | _ => false)

/-- Whether a block has a unit in near memory. -/
def hasNear (us : List Unit1) : Bool := us.any (fun q => match q.2 with | .near _ _ => true | _ => false)

/-- The far units of a block. -/
def farUnits (us : List Unit1) : List (Word × Nat × Nat) := us.flatMap (fun q => match q.2 with | .far ga idx => [(q.1, ga, idx)] | _ => [])

/-- The requests of a block's far units, made once; then every response has arrived, or the strand waits.
[DESIGN CHOICE, log 131] -/
def farAll (s : State) (k : StrandId) (u : Nat) (fs : List (Word × Nat × Nat)) : Except Res (List (Nat × Word × BitVec 8 × List Byte) × State) :=
  let fresh := fs.all (fun f => (farPending s k f.1).isNone)
  let s0 := if fresh && ! fs.isEmpty then dropStale s k else s
  let s1 := fs.foldl (fun (s : State) f =>
    if (farPending s k f.1).isSome then s
    else (farRequest s (.load k (s.str k).pc) f.1 (some f.2.2) false (fldMsg s f.2.1 u)).2) s0
  let rs := fs.map (fun f => (f.1, farPending s1 k f.1))
  match rs.find? (fun r => match r.2 with | some q => q.done.isNone | none => true) with
  | some r => .error (.wait (waitFor s1 k (r.2.map (fun q => .far q.id))))
  | none => .ok (rs.flatMap (fun r => match r.2 with | some q => (match q.done with | some d => [(q.id, r.1, d.1, d.2)] | none => []) | none => []), s1)

/-- A block's far responses are taken: the first that failed raises 0x1A. -/
def farTake (s : State) (rs : List (Nat × Word × BitVec 8 × List Byte)) : Except Res State :=
  let s1 := rs.foldl (fun (s : State) r => s.dropReq r.1) s
  match rs.find? (fun r => r.2.2.1 != 0) with
  | some r => .error (.event (mkEv 0x1A r.2.1 r.2.2.1.toNat .ul) s1)
  | none => .ok s1

/-- The scratchpad words of a block are read; a machine check ends it. -/
def spUnits (k : StrandId) (u : Nat) : List Unit1 → State → Bool × State
  | [], s => (true, s)
  | (_, .sp o) :: r, s => let m := spMeet s k o u; if m.1 then spUnits k u r m.2 else m
  | _ :: r, s => spUnits k u r s

/-- The bytes of a block's units: those from the near port stand in pb in order, those from the far port in fs. -/
def unitBytes (s : State) (u : Nat) : List Unit1 → List Byte → List (List Byte) → List Byte
  | [], _, _ => []
  | (_, .sp o) :: r, pb, fs => s.spad.getN o u ++ unitBytes s u r pb fs
  | (_, .near ps .mem) :: r, pb, fs => segBytes s ps ++ unitBytes s u r pb fs
  | (_, .near _ (.block _)) :: r, pb, fs => List.replicate u 0 ++ unitBytes s u r pb fs
  | (_, .near _ _) :: r, pb, fs => pb.take u ++ unitBytes s u r (pb.drop u) fs
  | (_, .far _ _) :: r, pb, fs => (fs.headD []).take u ++ unitBytes s u r pb (fs.drop 1)

/-- The end of an access that did not complete: an instruction that makes blocks of accesses meets none of the wait cases of Table 2-2 (R37,
R54). -/
def Res.stop : Res → XB
  | .event e s => .fault e s
  | .wait s => .check s
  | .done s => .check s
  | .put s => .check s
  | .jump s _ => .check s

/-- A wait that is no case of Table 2-2. -/
def Res.noCase (r : Res) (k : StrandId) : Res :=
  match r with
  | .wait s => .wait (waitFor s k none)
  | r => r

/-- The strand's own reads of n bytes at va with a given context, in units of u bytes, as loads of R98 each: near memory, the window,
Device or Uncached addresses, far memory. A unit other than a 4-byte access to the core's own register block reads 0 (R444).
[DESIGN CHOICE, log 131] [DEDUCED, log 36] -/
def loadBlock (s : State) (x : XCtx) (va : Word) (n u : Nat) : XB :=
  match placeUnits x false u (unitAddrs va n u) [] s with
  | .error r => r.stop
  | .ok (us, s1) =>
    if (devOpen s1 x.k && ! us.isEmpty) || unitsHeld s1 x.k false u us then .check s1
    else
      match lookAll x.k (segWords (memSegs us)) s1 with
      | .error r => (r.noCase x.k).stop
      | .ok s2 =>
        match farAll s2 x.k u (farUnits us) with
        | .error r => (r.noCase x.k).stop
        | .ok (fr, s3) =>
          match (if (portCuts us).isEmpty then .ok ([], s3) else portLoad s3 x.k va n (portCuts us) (hasDev us) false : Got) with
          | .error r => (r.noCase x.k).stop
          | .ok (pb, s4) =>
            match farTake s4 fr with
            | .error r => r.stop
            | .ok s5 =>
              let m := spUnits x.k u us s5
              let q := frameLoad m.2 x.k va.toNat (unitBytes m.2 u us pb (fr.map (fun r => r.2.2.2)))
              if m.1 then .ok q.1 q.2 else .check m.2

/-- The bytes of a block for each of its units. -/
def unitData (u : Nat) : List Unit1 → List Byte → List (Unit1 × List Byte)
  | [], _ => []
  | q :: r, bs => (q, bs.take u) :: unitData u r (bs.drop u)

/-- The strand's own writes of bytes at va with a given context, in units of u bytes, as stores of R98 each: nothing is written unless
every unit passes its checks. [DESIGN CHOICE, log 131] -/
def storeBlock (s : State) (x : XCtx) (va : Word) (bs : List Byte) (u : Nat) : XB :=
  match placeUnits x true u (unitAddrs va bs.length u) [] s with
  | .error r => r.stop
  | .ok (us, s1) =>
    if (devOpen s1 x.k && ! us.isEmpty) || (hasDev us && nearBefore s1 x.k) || unitsHeld s1 x.k true u us then .check s1
    else
      let ds := unitData u us bs
      match storePieces x.k s1 (ds.flatMap (fun d => match d.1.2 with | .near ps .mem => segCuts ps d.2 | _ => [])) s1 with
      | .error r => r.stop
      | .ok s2 =>
        .ok [] (frameStore (ds.foldl (fun (s : State) d =>
          match d.1.2 with
          | .sp o => spWrite s x.k o d.2
          | .near ps .dev => portStore x.k (segPieces ps d.2) true true s
          | .near ps .unc => portStore x.k (segPieces ps d.2) false false s
          | .near _ _ => s
          | .far ga idx => farSend s x.k d.1.1 ga idx d.2) s2) x.k va.toNat bs.length)

end Sys2Proof.Machine
end

