-- ==== Sys2Proof/Machine/Events.lean ====
section
/-! DEFINITION. Windows, pending sync-required writes, event entry and return, gates, and the frame that every instruction
shares (02, 03, 04). -/

namespace Sys2Proof.Machine

open Sys2Proof

/-! ### Windows (R49 to R53) -/

/-- The slot j after the oldest resident one. -/
def Win.nth (w : Win) (j : Nat) : Fin 12 := w.oldest + Fin.ofNat 12 j

/-- The 128 bytes of a slot in the layout of Table 2-8. -/
def slotBytes (q : Slot) : List Byte :=
  (q.i.toList.flatMap (fun v => toLE 8 v.toNat)) ++ (q.l.toList.flatMap (fun v => toLE 8 v.toNat))

/-- The doublewords of a byte string. -/
def dwords (b : List Byte) : Nat → List Word
  | 0 => []
  | n + 1 => w64 (leNat (b.take 8)) :: dwords (b.drop 8) n

/-- The slot read from a save area. -/
def slotOf (b : List Byte) (tag : Lvl) : Slot :=
  { i := Vector.ofFn (fun j : Fin 8 => (dwords b 8).getD j.val 0),
    l := Vector.ofFn (fun j : Fin 8 => (dwords (b.drop 64) 8).getD j.val 0), tag := tag }

/-- Change the window ring of strand k. -/
def State.modWin (s : State) (k : StrandId) (f : Win → Win) : State := s.modStr k (fun t => { t with win := f t.win })

/-- Store the oldest resident window (R51); a fault carries number c, its first faulting byte, and changes neither ring nor
RESW (R52). [DEDUCED, log 15] -/
def spillOldest (s : State) (k : StrandId) : XB :=
  let w := (s.str k).win
  let old := w.ring[w.oldest]
  let a := (w.ring[w.nth 1]).i[0]
  if a.toNat % 16 ≠ 0 then .fault (mkEv 0x11 a 0 .ul) s
  else if s.ckHold && isWin a then .check s
  else
    match storeBlock s (s.xctxAt k old.tag) a (slotBytes old) 8 with
    | .ok _ s1 => .ok [] (s1.modWin k (fun w => { w with resw := w.resw - 1 }))
    | .fault e s1 => .fault (mkEv 0x11 e.fa 0 .ul) s1
    | .check s1 => .check s1

/-- Load the window below the oldest (R51) with the privilege of lv. [DEDUCED, log 15] -/
def fillOldest (s : State) (k : StrandId) (lv : Lvl) : XB :=
  let w := (s.str k).win
  let a := (w.ring[w.oldest]).i[0]
  if a.toNat % 16 ≠ 0 then .fault (mkEv 0x12 a 0 .ul) s
  else
    match loadBlock s (s.xctxAt k lv) a 128 8 with
    | .ok b s1 => .ok [] (s1.modWin k (fun w => { w.modSlot (w.oldest - 1) (fun _ => slotOf b lv) with resw := w.resw + 1 }))
    | .fault e s1 => .fault (mkEv 0x12 e.fa 0 .ul) s1
    | .check s1 => .check s1

/-- Whether a resident window older than the target has a tag more privileged than y; newer counts the target and the
windows newer than it. -/
def needSpill (w : Win) (y : Lvl) (newer : Nat) : Bool :=
  (List.range (w.resw - newer)).any (fun j => y.below (w.ring[w.nth j]).tag)

/-- The downward spill of R53. -/
def spillDown : Nat → State → StrandId → Lvl → Nat → XB
  | 0, s, _, _, _ => .ok [] s
  | n + 1, s, k, y, newer =>
    if needSpill (s.str k).win y newer then
      match spillOldest s k with
      | .ok _ s1 => spillDown n s1 k y newer
      | r => r
    else .ok [] s

/-- A new current window of level y (CALL, CALLR, event entry). -/
def Win.push (w : Win) (y : Lvl) : Win :=
  { w.modSlot (w.wcur + 1) (fun q => { q with tag := y }) with wcur := w.wcur + 1, resw := w.resw + 1 }

/-- Back to the window below (RET, event return). -/
def Win.pop (w : Win) : Win := { w with wcur := w.wcur - 1, resw := w.resw - 1 }

/-! ### Pending sync-required writes (R20, R25, R110, R111, R81) -/

/-- Whether a dispatched tile operation of the given contexts is still in progress. -/
def State.busyCtx (s : State) (p : CtxId → Bool) : Bool := s.tiles.inflight.any (fun o => p o.ctx)

/-- Every context of strand k that is not NONE becomes CLEARED and its bank free (R153). [DESIGN CHOICE, log 51] -/
def clearCtxs (s : State) (k : StrandId) : State :=
  let s1 := s.modStr k (fun t => { t with ctx := t.ctx.map (fun c => if c.st == .none then c else { c with st := .cleared, pos := 0 }) })
  s1.modTiles (fun t => { t with
    banks := t.banks.map (fun b => if b.owner.any (fun c => c.k == k) then { owner := none, cells := [] } else b) })

/-- A chain has stopped as DKILL stops it: no pins, no pending event (R278). [DESIGN CHOICE, log 66] -/
def stopChain (s : State) (c : CtxId) : State :=
  let s1 := s.modChain c (fun (q : Chain) => { q with st := .idle, cause := 0, rsn := 0, record := none, killed := false })
  s1.modRun c.k (fun r => { r with pendEv := r.pendEv.filter (fun e => e.src != .chain c) })

/-- Whether a dispatched step of the context's chain is still in progress. -/
def chainBusy (s : State) (c : CtxId) : Bool := s.tiles.inflight.any (fun o => o.chain && o.ctx == c)

/-- A chain is killed (R278): it issues no further step; once its dispatched steps have completed it is IDLE. Whether it has stopped, and
the state. -/
def killChain (s : State) (c : CtxId) : Bool × State :=
  if chainBusy s c then (false, s.modChain c (fun q => { q with killed := true })) else (true, stopChain s c)

/-- Every chain of a strand is killed. -/
def killChains (s : State) (k : StrandId) : Bool × State :=
  [Lvl.ul, .sl, .ml].foldl (fun r y => let q := killChain r.2 { k := k, lv := y }; (r.1 && q.1, q.2)) (true, s)

/-- The VDD_CORE set point of a point in mV; VR_CORE_SET has 12 bits (R473). -/
def Image.setPoint (i : Image) (p : BitVec 2) : Nat := (i.vset[p.toNat]).toNat % 4096

/-- A DVFS transition begins (R418): a raise sets the regulator first, and waits while the ramp governor is held (R420); a
lowering relocks first. -/
def beginDvfs (s : State) (p : BitVec 2) : State :=
  if s.pwr.point < p then
    if s.tiles.tmu.gov.hold then s.modPwr (fun w => { w with dv := some (p, .holdWait) })
    else
      let mv := s.image.setPoint p
      (s.modPwr (fun w => { w with dv := some (p, .settle), vset := mv })).emit (.vcore mv)
  else s.modPwr (fun w => { w with dv := some (p, .relock) })

/-- A requested point takes effect (R418): it is ignored when the point is not enabled, a transition runs or the point is in effect. -/
def dvfsGo (s : State) (p : BitVec 2) : State :=
  if ! s.image.dvfs.getLsbD p.toNat || s.pwr.dv.isSome || p == s.pwr.point then s
  else beginDvfs (s.modPwr (fun w => { w with dvfs := p })) p

/-- This core's gang state returns to OWN: its pins are released, and a DVFS point held while the gang stood takes effect
(R187, R188, R470). A strand in the tile wait for the lent TMU becomes ready (Table 2-2). -/
def ungang (s : State) : State :=
  let s0 := s.modTmu (fun t => { t with gang := { t.gang with st := .own, size := 0, forming := none } })
  let claims := fun (c : CtxId) => s.tiles.claims.contains c || (match s.tiles.claim with | some q => q.ctx == c | none => false)
  let s1 := ([0, 1, 2, 3] : List StrandId).foldl (fun (s : State) k =>
    if (s.str k).run.cond = some .tile ∧ ! claims { k := k, lv := (s.str k).status.lvl } then readyStrand s k else s) s0
  match s1.pwr.held with
  | none => s1
  | some p => dvfsGo (s1.modPwr (fun w => { w with held := none })) p

/-- Whether a TSHAPE change of strand k may take effect now (R20): its tile operations have completed, its Runnel entries have been
consumed, its lazy saves have been written, and no restore for it is in progress (R153). -/
def tshapeReady (s : State) (k : StrandId) : Bool :=
  ! s.busyCtx (fun c => c.k == k)
    && s.tiles.runnel.all (fun e => e.st == .free || e.drop || e.owner.k != k)
    && (match s.tiles.claim with
        | some c => (match c.ph with | .waiting _ => true | .saving v => v.k != k | .restoring => c.ctx.k != k | .zeroing => true)
        | none => true)

/-- Whether the gang operations that this core has begun or received have completed, with their retirements, and for a master, BROKEN or not, those on
every core that its gang still has (R187, R188). [DESIGN CHOICE, log 56] -/
def gangQuiet (s : State) : Bool :=
  let g := s.tiles.tmu.gang
  ! s.busyCtx (fun c => c == g.ctx)
    && s.tiles.runnel.all (fun e => e.owner != g.ctx || (e.st != .reserved && e.st != .filling))
    && ((g.st != .master && g.st != .broken) || g.partners.toList.zipIdx.all (fun p =>
        ! (p.1.busy && p.1.st != .own && decide (g.master ≤ p.2) && decide (p.2 < g.master + g.size))))

/-- A gang whose pinned context belongs to strand k ends first, as by TUNGANG or TRECALL (R186), and so does an offer of its context, which R186
does not name since nothing pins it. Whether it has ended, and the state. [DESIGN CHOICE, log 56] -/
def leaveGang (s : State) (k : StrandId) : Bool × State :=
  let g := s.tiles.tmu.gang
  if g.st == .own || g.ctx.k != k then (true, s) else if g.st == .offered || gangQuiet s then (true, ungang s) else (false, s)

/-- How the pending writes of a strand end. -/
inductive PendRes where
  | ok (s : State)
  | wait (s : State)
  | fault (e : Ev) (s : State)
  | check (s : State)

/-- The pending TSHAPE value is applied: the strand's chains stop (R278), its gang ends (R186), and the waits of R20 follow.
[DESIGN CHOICE, log 13] -/
def applyTshape (s : State) (k : StrandId) (v : BitVec 2) : PendRes :=
  let clr := fun (s : State) => s.modRun k (fun r => { r with pend := { r.pend with tshape := none } })
  if (s.str k).num.tshape = v then .ok (clr s)
  else
    let c := killChains s k
    let g := leaveGang c.2 k
    if c.1 && g.1 && tshapeReady g.2 k then
      .ok (clr ((clearCtxs g.2 k).modStr k (fun t => { t with num := { t.num with tshape := v } })))
    else .wait g.2

/-- The pending NPROF value is applied once no TMMA, Rill operation or Cistern reduction is in progress; while it waits, the other
strands issue none (R25). A value that was pending before a join set JL is applied, and changes PROF under JL = 1.
[DESIGN CHOICE, log 13] -/
def applyNprof (s : State) (k : StrandId) (v : BitVec 2) : PendRes :=
  let clr := fun (s : State) => s.modRun k (fun r => { r with pend := { r.pend with nprof := none }, profWait := false })
  if s.core.prof = v then .ok (clr s)
  else if s.tiles.inflight.any (fun o => o.unit == .tmu || o.unit == .rill || o.unit == .cistern) then
    .wait (s.modRun k (fun r => { r with profWait := true }))
  else .ok (clr (s.modCore (fun c => { c with prof := v })))

/-- Whether an NPROF change of another strand holds the issue of TMMA, Rill operations and Cistern reductions of strand k (R25).
[DESIGN CHOICE, log 13] -/
def profHold (s : State) (k : StrandId) : Bool :=
  ([0, 1, 2, 3] : List StrandId).any (fun j => j != k && (s.str j).run.profWait)

/-- The pending writes that need no wait: EDTB, GDTB, PTB, ASID, SAP, SEP. -/
def applySimple (s : State) (k : StrandId) : State :=
  let p := (s.str k).run.pend
  let s1 := s.modCore (fun c => { c with edtb := p.edtb.getD c.edtb, gdtb := p.gdtb.getD c.gdtb })
  let s2 := s1.modStr k (fun t => { t with
    xl := { t.xl with ptb := p.ptb.getD t.xl.ptb, asid := p.asid.getD t.xl.asid }
    status := { t.status with sap := p.sap.getD t.status.sap, sep := p.sep.getD t.status.sep } })
  s2.modRun k (fun r => { r with pend :=
    { r.pend with edtb := none, gdtb := none, ptb := none, asid := none, sap := none, sep := none } })

/-- The pending LVL, with the spills of R53; a spill fault drops the level write (R52, R111). [DESIGN CHOICE, log 14] -/
def applyLvl (s : State) (k : StrandId) : PendRes :=
  match (s.str k).run.pend.lvl with
  | none => .ok s
  | some y =>
    let clr := fun (s : State) => s.modRun k (fun r => { r with pend := { r.pend with lvl := none } })
    if y.below (s.str k).status.lvl then
      match spillDown 12 s k y 1 with
      | .ok _ s1 =>
        let s2 := s1.modWin k (fun w => w.modSlot w.wcur (fun q => { q with tag := y }))
        .ok (clr (s2.modStr k (fun t => { t with status := { t.status with lvl := y } })))
      | .fault e s1 => .fault e (clr s1)
      | .check s1 => .check s1
    else .ok (clr s)

/-- Continue with the state of a pending write. -/
def PendRes.bind (r : PendRes) (f : State → PendRes) : PendRes :=
  match r with
  | .ok s => f s
  | r => r

/-- Every pending sync-required write of strand k is applied (R111 steps 2 and 3). -/
def applyPend (s : State) (k : StrandId) : PendRes :=
  let p := (s.str k).run.pend
  if p = Pend.none then .ok s
  else
    let r1 : PendRes := match p.tshape with | some v => applyTshape s k v | none => .ok s
    let r2 := r1.bind (fun s => match p.nprof with | some v => applyNprof s k v | none => .ok s)
    r2.bind (fun s => applyLvl (applySimple s k) k)

/-- The state that the application of pending writes leaves. -/
def PendRes.state : PendRes → State
  | .ok s => s
  | .wait s => s
  | .fault _ s => s
  | .check s => s

/-- The writes made through STRDBG that wait are tried again (R57): whether none waits any more, and the state. The strand's own pending writes
stay as they are. -/
def settleDbg (s : State) (k : StrandId) : Bool × State :=
  let r := (s.str k).run
  if r.dbgPend = Pend.none then (true, s)
  else
    let s1 := (applyPend (s.modRun k (fun u => { u with pend := u.dbgPend })) k).state
    let left := (s1.str k).run.pend
    (left == Pend.none, s1.modRun k (fun u => { u with pend := r.pend, dbgPend := left }))

/-! ### Event entry (R65 to R70) -/

/-- The level at which a synchronous cause is taken, given the level that raises it and the entry's TLVL (Table 3-9). -/
def entryLevel (c : Nat) (rel tlvl : Lvl) : Lvl :=
  if c ≥ 0x30 then .ml
  else if c = 0x0E ∨ c = 0x0F ∨ c = 0x19 then rel
  else if c = 0x10 ∨ c = 0x11 ∨ c = 0x12 ∨ c = 0x13 ∨ c = 0x15 then rel.next
  else if c = 0x14 then .ml
  else if (0x04 ≤ c ∧ c ≤ 0x0C) ∨ c = 0x16 ∨ c = 0x1A ∨ c = 0x1B then (rel.most .sl).most tlvl
  else rel.most tlvl

/-- An entry in progress: number, level, SVFA, INFO, what it escalates from, the handler and KIE, and the resume PC. -/
structure EntryReq where
  num : Nat
  y : Lvl
  fa : Word
  info : Nat
  esc : Option (Nat × Lvl)
  handler : Word
  kie : Bool
  rpc : Word
  gate : Bool
  ev : Ev

/-- Free windows that an entry to a level needs (R49). -/
def winNeed : Lvl → Nat
  | .ul => 3
  | .sl => 2
  | .ml => 1

/-- SVCA of an entry. -/
def mkSvca (v : Nat) (depth : Nat) (r : EntryReq) (lp : Bool) : Word :=
  let o : Nat × Nat := match r.esc with | some (c, l) => (c, l.code) | none => (0, 0)
  w64 (fld v 63 + fld (depth % 2 ^ 15) 48 + fld o.1 40 + fld o.2 38 + fld (bit r.esc.isSome) 37 + fld (bit lp) 36 + fld (r.info % 65536) 16
    + r.num % 256)

/-- The four doublewords of a save set. -/
def saveBytes (v : SaveSet) : List Byte := toLE 8 v.pc.toNat ++ toLE 8 v.st.toNat ++ toLE 8 v.ca.toNat ++ toLE 8 v.fa.toNat

/-- The bits of SVST that are laid out (Table 2-11); reserved bits are 0 (R10). [DEDUCED, log 27] -/
def svstMask : Word := 0x3FFC0F01

/-- The save set read from 32 bytes; reserved bits are ignored (R11). -/
def saveOf (b : List Byte) : SaveSet :=
  let d := dwords b 4
  { pc := d.getD 0 0, st := d.getD 1 0 &&& svstMask, ca := d.getD 2 0, fa := d.getD 3 0 }

/-- The staging registers that an FTLB miss writes (R342). -/
def stage (s : State) (k : StrandId) (r : EntryReq) : State :=
  let gather := match r.ev.src with | .engine n => s.weevils[n].rsn == 0x0B | _ => false
  if r.esc.isNone && (r.num == 0x0B || (r.num == 0x1D && gather)) then
    s.modStr k (fun t => { t with xl := { t.xl with
      idx := s.ms.vict
      fthi := w64 (fld r.ev.asid.toNat 48 + bits r.fa.toNat 61 24)
      ftlo := 0 } })
  else s

/-- The recorded level and DEPTH of a chain's or engine's event (R277, R298). [DEDUCED, log 67] -/
def recordEntry (s : State) (r : EntryReq) (depth : Nat) : State :=
  match r.ev.src with
  | .chain c => s.modChain c (fun q => if q.st = .suspended then { q with record := some (r.y, depth) } else q)
  | .engine n => { s with weevils := vmod s.weevils n (fun e => if e.st = .suspended then { e with record := some (r.y, depth) } else e) }
  | _ => s

/-- What an entry to a level below ML pushes: the loop record, and the older save set above it (R66). -/
def pushBytes (t : Strand) (y : Lvl) : List Byte :=
  (if t.loops.isEmpty then [] else loopRecord t.loops) ++ (if t.svV y then saveBytes (t.save y) else [])

/-- The commit of an entry (R66) whose push, if any, has been stored: save set, window, STATUS, loops, PC. A gate call is a switch case of
its own (R79). -/
def commitEntry (s : State) (k : StrandId) (r : EntryReq) : State :=
  let t := s.str k
  let st := statusWord k t
  let oldV := bit (t.svV r.y)
  let oldD := t.svDepth r.y
  let lp := ! t.loops.isEmpty
  let sp := t.g15 r.y - w64 (32 * oldV + 32 * bit lp)
  let new : SaveSet :=
    { pc := r.rpc, st := st, ca := mkSvca 1 (if r.y = .ml then t.mssFrames else oldD + oldV) r lp, fa := r.fa }
  let s1 :=
    if r.y = .ml then
      s.modStr k (fun t => { t with saves := { t.saves with
        mOld := if t.saves.mV then t.saves.m :: t.saves.mOld else t.saves.mOld
        m := { save := new, loops := t.loops }
        mV := true } })
    else s.modStr k (fun t => (t.setG15 r.y sp).modSave r.y (fun _ => new))
  let s2 := s1.modStr k (fun t => { t with
    win := t.win.push r.y
    status := { t.status with lvl := r.y, ie := if r.kie then t.status.ie else false }
    loops := []
    pc := r.handler &&& ~~~(3 : Word) })
  let s3 := recordEntry (stage s2 k r) r (if r.y = .ml then t.mssFrames else oldD + oldV)
  let s4 := (giveUp s3 k).modRun k (fun u => { u with cond := if r.gate then some .gate else none })
  if r.gate then s4.traceAdd 2 4 k r.y.code r.info (r.handler &&& ~~~(3 : Word))
  else s4.traceAdd 0 1 k r.y.code r.num r.rpc

/-- What follows a commit: a latched vector stops being pending, and a machine check originates the job abort (R75, R395). -/
def afterEntry (s : State) (r : EntryReq) : State :=
  if r.esc.isSome || r.gate then s
  else if r.num ≥ 0x40 then
    s.modIntu (fun i => { i with vcfg := vupd i.vcfg (r.num - 0x40) (fun c => { c with pend := false }) })
  else if r.num = 0x30 then origAbort s 0x01
  else if r.num = 0x31 then origAbort s 0x02
  else if r.num = 0x32 then origAbort s 0x03
  else s

/-- A frame of the machine save stack that an error has reached, and whether it can be used: an uncorrectable one writes a fatal record and the
core halts; a correctable one is corrected (Table 17-1, R395). -/
def mssMeet (s : State) (k : StrandId) : Bool × State :=
  match s.markAt 0x0F k.val with
  | none => (true, s)
  | some m =>
    if m.unc then (false, haltCore (logFatal s k (s.str k).status.lvl 0x0F 0 k.val none false 0).2)
    else (true, logCorr (s.dropMark 0x0F k.val) (some k) 0x0F k.val none false)

/-- How an entry ends: taken, or the core halted; or still to be made, after a line it waits for or a machine check met on the way. -/
inductive Entry where
  | taken (s : State)
  | again (s : State)

/-- The state of an entry's end. -/
def Entry.state : Entry → State
  | .taken s => s
  | .again s => s

/-- How an EDT entry is read: the entry; the core halts (R62); the read waits for its line. -/
inductive EdtR where
  | entry (d : EdtE) (s : State)
  | halt (s : State)
  | wait (s : State)

/-- The EDT entry of a number is read through the L2 (R61, R62). [DESIGN CHOICE, log 138] -/
def edtRead (s : State) (k : StrandId) (n : Nat) : EdtR :=
  if ! s.core.edtb.getLsbD 0 then .halt s
  else
    match tableRead s k (w64 (s.edtAddr n)) (s.edtAddr n) 32 with
    | .wait s1 => .wait s1
    | .check s1 => .halt s1
    | .err s1 => .halt s1
    | .hit s0 =>
      let s1 := dropReads s0 (.table k (w64 (s.edtAddr n)))
      match s1.edt n with
      | some d => .entry d s1
      | none => .halt s1

/-- The entry sequence of R66 with its escalations (R67, Table 3-6); n bounds the escalations. [DEDUCED, log 15]
[DEDUCED, log 137] [DESIGN CHOICE, log 138] -/
def enterGo : Nat → State → StrandId → EntryReq → Entry
  | 0, s, _, _ => .taken (haltCore s)
  | n + 1, s, k, r =>
    let t := s.str k
    let escalate := fun (s : State) (c : Nat) (z : Lvl) (fa : Word) =>
      match edtRead s k c with
      | .halt s1 => Entry.taken (haltCore s1)
      | .wait s1 => .again s1
      | .entry e s1 => enterGo n s1 k { r with
          num := c, y := z, fa := fa, info := 0, esc := some (r.num, r.y), handler := e.handler, kie := e.kie, gate := false }
    if t.win.free < winNeed r.y then (if r.y = .ml then .taken (haltCore s) else escalate s 0x10 r.y.next 0)
    else if r.y = .ml then
      if t.mssFrames = 8 then .taken (haltCore s)
      else match mssMeet s k with
        | (false, s1) => .taken s1
        | (true, s1) => .taken (afterEntry (commitEntry s1 k r) r)
    else
      let len := 32 * bit (t.svV r.y) + 32 * bit (! t.loops.isEmpty)
      let sp := t.g15 r.y - w64 len
      if len = 0 then .taken (afterEntry (commitEntry s k r) r)
      else if (t.g15 r.y).toNat % 16 ≠ 0 then escalate s 0x13 r.y.next (t.g15 r.y)
      else if sp < t.stkLim r.y then escalate s 0x14 .ml sp
      else
        match probe s (s.xctxAt k r.y) .pstore sp len false with
        | .fault e s1 => escalate s1 0x13 r.y.next e.fa
        | .check s1 => .again s1
        | .ok _ s1 =>
          match storeBlock s1 (s1.xctxAt k r.y) sp (pushBytes t r.y) 8 with
          | .fault e s2 => escalate s2 0x13 r.y.next e.fa
          | .check s2 => .again s2
          | .ok _ s2 => .taken (afterEntry (commitEntry s2 k r) r)

/-- The entry that event e of strand k makes once its EDT entry d has been read: its level, and the sequence of R66. pend says that the
event was pending, so that its own raising level counts (R276); for a lazy-save fault the strand's level counts (R148). -/
def enterEv (s : State) (k : StrandId) (e : Ev) (rpc : Word) (pend : Bool) (d : EdtE) : Entry :=
  let y := if e.num.toNat ≥ 0x40 then d.tlvl else entryLevel e.num.toNat (if pend && e.src != .save then e.rel else (s.str k).status.lvl) d.tlvl
  enterGo 4 s k
    { num := e.num.toNat, y := y, fa := e.fa, info := e.info.toNat, esc := none, handler := d.handler, kie := d.kie,
      rpc := rpc, gate := false, ev := e }

/-- Take an event of strand k with resume PC rpc: pending writes are applied first (R81), then the EDT is read (R62). drop removes the
event from where it waits, once it has been taken itself: a spill fault of the pending writes comes instead of it (R52).
[DESIGN CHOICE, log 13] -/
def takeEvent (s : State) (k : StrandId) (e : Ev) (rpc : Word) (pend : Bool) (drop : State → State) : Entry :=
  let go := fun (s : State) (e : Ev) (pend : Bool) (drop : State → State) =>
    match edtRead s k e.num.toNat with
    | .halt s1 => Entry.taken (haltCore s1)
    | .wait s1 => .again s1
    | .entry d s1 =>
      match enterEv s1 k e rpc pend d with
      | .taken s2 => .taken (drop s2)
      | r => r
  match applyPend s k with
  | .ok s1 => go s1 e pend drop
  | .wait s1 => .again s1
  | .check s1 => .again s1
  | .fault f s1 => go s1 f false id

/-! ### What may be taken at a boundary (R76, R276, R481) -/

/-- The event that a boundary takes first. -/
inductive Pick where
  | mchk (e : Ev)
  | own (e : Ev)
  | pend (i : Nat) (e : Ev)
  | irq (v : Nat)
  deriving DecidableEq, Repr

/-- Whether a pending synchronous event may be taken at the strand's level (R276); a lazy-save fault is taken before the
strand's next instruction, whatever its level (R148). -/
def pendOk (s : State) (k : StrandId) (e : Ev) : Bool :=
  match s.edt e.num.toNat with
  | none => true
  | some d => e.src == .save || ! ((entryLevel e.num.toNat e.rel d.tlvl).below (s.str k).status.lvl)

/-- The vectors enabled, pending and directed at strand k that it can take now, with their priorities. [DEDUCED, log 17] -/
def takable (s : State) (k : StrandId) : List (Nat × Nat) :=
  let on := (s.intu.vcfg.toList.zipIdx.filter (fun p => p.1.en)).map (fun p => (p.2 + 0x40, p.1.prio.toNat))
  on.filter (fun p => vecExists p.1 && s.vecPend p.1 && s.vecStrand p.1 == k
    && (match s.edt p.1 with | none => true | some d => canTake (s.str k) d.tlvl))

/-- The highest priority first; a tie goes to the lower number (R76). -/
def bestVec : List (Nat × Nat) → Option Nat
  | [] => none
  | p :: r => some (r.foldl (fun b q => if b.2 < q.2 then q else b) p).1

/-- What the boundary takes first (R481); an event of the strand's instruction whose entry has begun comes right after a machine
check. -/
def nextEvent (s : State) (k : StrandId) : Option Pick :=
  match (s.str k).run.mchk, (s.str k).run.entering with
  | e :: _, _ => some (.mchk e)
  | [], some e => some (.own e)
  | [], none =>
    match (s.str k).run.pendEv.findIdx? (fun e => pendOk s k e) with
    | some i => (s.str k).run.pendEv[i]?.map (fun e => Pick.pend i e)
    | none => (bestVec (takable s k)).map (fun v => Pick.irq v)

/-! ### The frame of every instruction -/

/-- The strand that issues: the running strand, unless the core is halted, its clocks are stopped, it has not booted, or a warm reset is due.
[DESIGN CHOICE, log 4] -/
def issuing (s : State) : Option StrandId :=
  if s.core.halted || s.pwr.pstate != .c0 || s.pwr.bstate != 2 || s.pwr.warmDue.isSome then none else s.core.cur

/-- The fetch of the words of an n-byte instruction at the PC (R90, R325, R329). [DESIGN CHOICE, log 25] -/
def fetchWords (s : State) (k : StrandId) (pc : Word) : XB :=
  if isWin pc then .fault (mkEv 0x04 pc 0 .ul) s
  else
    match translate s (s.xctx k) .fetch pc with
    | .ok _ _ s1 => .ok [] s1
    | .fault e s1 => .fault e s1
    | .check s1 => .check s1

/-- The fetch check of an instruction of n bytes. [DESIGN CHOICE, log 2] -/
def fetchCheck (s : State) (k : StrandId) (n : Nat) : XB :=
  let pc := (s.str k).pc
  match fetchWords s k pc with
  | .ok _ s1 => if n = 8 then fetchWords s1 k (pc + 4) else .ok [] s1
  | r => r

/-- Take an instruction's event; one whose entry must wait is taken at the strand's next boundary. -/
def raise (s : State) (k : StrandId) (e : Ev) : State :=
  match takeEvent s k e (s.str k).pc false id with
  | .taken s1 => s1
  | .again s1 => s1.modRun k (fun r => { r with entering := some e })

/-- Completion: the loop step, the PC and the end of any wait (R115). -/
def retire (s : State) (k : StrandId) (n : Nat) : State :=
  s.modStr k (fun t =>
    let q := loopStep t.loops t.pc n
    { t with loops := q.1, pc := q.2, run := { t.run with cond := none, merged := none } })

/-- Completion with a control transfer to pc. -/
def retireTo (s : State) (k : StrandId) (pc : Word) : State :=
  s.modStr k (fun t => { t with pc := pc, run := { t.run with cond := none, merged := none } })

/-- The state after a body. [DESIGN CHOICE, log 4] -/
def finish (k : StrandId) (n : Nat) : Res → State
  | .done s => retire s k n
  | .jump s pc => retireTo s k pc
  | .put s => s
  | .event e s => raise s k e
  | .wait s => s

/-- Whether the n-byte instruction at the PC is at END of an active loop (R116). [DESIGN CHOICE, log 18] -/
def atEnd (t : Strand) (n : Nat) : Bool := t.loops.any (fun l => holdsWord t.pc n l.last)

/-- Illegal instruction (R85). -/
def illegal (s : State) : Res := .event (mkEv 0x01 0 0 .ul) s

/-- Privilege violation. -/
def privileged (s : State) : Res := .event (mkEv 0x02 0 0 .ul) s

/-- A parity error in a physical register or the window ring that strand k reads: machine check 0x30 (Table 17-1). -/
def regCheck (s : State) (k : StrandId) : Option State :=
  if (s.markAt 0x0E k.val).isSome then some (consume30 (s.dropMark 0x0E k.val) k 0x0E k.val none)
  else if (s.markAt 0x13 k.val).isSome then some (consume30 (s.dropMark 0x13 k.val) k 0x13 k.val none)
  else none

/-- An instruction of n bytes: issued on the running strand when no event is to be taken first (R481) and the strand is not to be held
at this boundary (R44), its fetch checked
(R74 class 1), refused at the end of a loop when it may not stand there (R116, ctl) and in job abort when its group is barred
(R406, barred). [DESIGN CHOICE, log 2] [DESIGN CHOICE, log 4] [DESIGN CHOICE, log 18] [DESIGN CHOICE, log 123] -/
def instr (n : Nat) (ctl barred : Bool) (s : State) (body : StrandId → State → Res) : State :=
  match issuing s with
  | none => s
  | some k =>
    if (nextEvent s k).isSome || s.core.hold.getLsbD k.val then s
    else
      match fetchCheck s k n with
      | .fault e s1 => raise s1 k e
      | .check s1 => s1
      | .ok _ s1 =>
        match regCheck s1 k with
        | some s2 => s2
        | none =>
          if (ctl && atEnd (s1.str k) n) || (barred && s1.rel.aborted) then raise s1 k (mkEv 0x01 0 0 .ul)
          else finish k n (body k s1)

/-- A base instruction. -/
def base (s : State) (body : StrandId → State → Res) : Out := .next (instr 4 false false s body)

/-- A base instruction that may not stand at END of a loop. [DESIGN CHOICE, log 18] -/
def baseCtl (s : State) (body : StrandId → State → Res) : Out := .next (instr 4 true false s body)

/-- An extended instruction. -/
def ext (s : State) (body : StrandId → State → Res) : Out := .next (instr 8 false false s body)

/-- An extended instruction of a group that job abort bars. [DEDUCED, log 19] -/
def extBarred (s : State) (body : StrandId → State → Res) : Out := .next (instr 8 false true s body)

/-- The conditions under which strand k issues an n-byte instruction: it runs, nothing is to be taken first, its HOLD bit is clear, its
fetch succeeds and changes nothing, and no parity error waits in its registers. -/
def Ready (s : State) (k : StrandId) (n : Nat) : Prop :=
  issuing s = some k ∧ nextEvent s k = none ∧ s.core.hold.getLsbD k.val = false ∧ fetchCheck s k n = .ok [] s ∧ regCheck s k = none

end Sys2Proof.Machine
end

