-- ==== Sys2Proof/Machine/Operands.lean ====
section
/-! DEFINITION. The operand forms that instructions share: register specifiers, immediates and the level operand. -/

namespace Sys2Proof.Machine

open Sys2Proof

/-- A sign-extended immediate (R87). -/
abbrev sx {w : Nat} (i : BitVec w) : Word := i.signExtend 64

/-- rd := op of rs1 and rs2, all integer (Table 4-5). -/
def alu2 (op : Word → Word → Word) (rd rs1 rs2 : RSpec) (s : State) : Out :=
  base s (fun k s =>
    if xOk rd && xOk rs1 && xOk rs2 then .done (s.setX k rd (op ((s.str k).x rs1) ((s.str k).x rs2))) else illegal s)

/-- rd := op of rs1, both integer. -/
def alu1 (op : Word → Word) (rd rs1 : RSpec) (s : State) : Out :=
  base s (fun k s => if xOk rd && xOk rs1 then .done (s.setX k rd (op ((s.str k).x rs1))) else illegal s)

/-- rd := op of rs1 and rs2, of an extended instruction. -/
def alu1x (op : Word → Word) (rd rs1 : RSpec) (s : State) : Out :=
  ext s (fun k s => if xOk rd && xOk rs1 then .done (s.setX k rd (op ((s.str k).x rs1))) else illegal s)

/-- The level a two-bit operand names: 0b10 is reserved. -/
def lvOk (lv : BitVec 2) : Bool := lv != 0b10

/-- 1 or 0. -/
def b64 (b : Bool) : Word := if b then 1 else 0

end Sys2Proof.Machine
end

