-- ==== Sys2Proof/Machine/TileNum.lean ====
section
/-! DEFINITION. Tensor number formats, their decoding, encoding and quantization (08), and the chunked dot product (09). -/

namespace Sys2Proof.Machine

open Sys2Proof

/-! ### Formats (Tables 8-1 and 8-2) -/

/-- The tensor formats; b16s is a split binary32 part (FMT 0x4). -/
inductive TFmt where
  | i8
  | i4
  | f16
  | b16
  | b16s
  | f8e4
  | f8e5
  | f6e3
  | f6e2
  | f4e2
  | f32
  | i32
  deriving DecidableEq, Repr

/-- The format of a code of Table 6-2 or Table 10-2. -/
def tfmtOf : Nat → Option TFmt
  | 0x0 => some .i8
  | 0x1 => some .i4
  | 0x2 => some .f16
  | 0x3 => some .b16
  | 0x4 => some .b16s
  | 0x5 => some .f8e4
  | 0x6 => some .f8e5
  | 0x7 => some .f6e3
  | 0x8 => some .f6e2
  | 0x9 => some .f4e2
  | 0xA => some .f32
  | 0xB => some .i32
  | _ => none

/-- Bits of a code. -/
def TFmt.bits : TFmt → Nat
  | .i8 => 8
  | .i4 => 4
  | .f16 => 16
  | .b16 => 16
  | .b16s => 16
  | .f8e4 => 8
  | .f8e5 => 8
  | .f6e3 => 6
  | .f6e2 => 6
  | .f4e2 => 4
  | .f32 => 32
  | .i32 => 32

/-- Whether the format is an integer format. -/
def TFmt.isInt : TFmt → Bool
  | .i8 => true
  | .i4 => true
  | .i32 => true
  | _ => false

/-- Exponent bits W; 0 for integers. -/
def TFmt.w : TFmt → Nat
  | .f16 => 5
  | .b16 => 8
  | .b16s => 8
  | .f8e4 => 4
  | .f8e5 => 5
  | .f6e3 => 3
  | .f6e2 => 2
  | .f4e2 => 2
  | .f32 => 8
  | _ => 0

/-- Fraction bits P. -/
def TFmt.p (f : TFmt) : Nat := f.bits - 1 - f.w

/-- BIAS. -/
def TFmt.bias : TFmt → Nat
  | .f16 => 15
  | .b16 => 127
  | .b16s => 127
  | .f8e4 => 8
  | .f8e5 => 15
  | .f6e3 => 4
  | .f6e2 => 2
  | .f4e2 => 2
  | .f32 => 127
  | _ => 0

/-- EMAX. -/
def TFmt.emax : TFmt → Nat
  | .f16 => 15
  | .b16 => 127
  | .b16s => 127
  | .f8e4 => 7
  | .f8e5 => 15
  | .f6e3 => 3
  | .f6e2 => 1
  | .f4e2 => 1
  | .f32 => 127
  | _ => 0

/-- FTZ: subnormals are flushed. -/
def TFmt.ftz : TFmt → Bool
  | .f16 => true
  | .b16 => true
  | .b16s => true
  | .f32 => true
  | _ => false

/-- HASINF. -/
def TFmt.hasInf : TFmt → Bool
  | .f16 => true
  | .b16 => true
  | .b16s => true
  | .f32 => true
  | .f8e5 => true
  | _ => false

/-- The block-scale column of Table 6-2: never permitted. -/
def TFmt.bsNever : TFmt → Bool
  | .f8e4 => false
  | .f8e5 => false
  | .f6e3 => false
  | .f6e2 => false
  | .f4e2 => false
  | _ => true

/-- The block-scale column of Table 6-2: required. -/
def TFmt.bsReq : TFmt → Bool
  | .f6e3 => true
  | .f6e2 => true
  | .f4e2 => true
  | _ => false

/-- Infinity of sign s. -/
def TFmt.infCode (f : TFmt) (s : Bool) : Nat := fld (bit s) (f.bits - 1) + fld (2 ^ f.w - 1) f.p

/-- The largest finite code of sign s. -/
def TFmt.maxCode (f : TFmt) (s : Bool) : Nat :=
  fld (bit s) (f.bits - 1) + (if f.hasInf then fld (2 ^ f.w - 1) f.p - 1 else 2 ^ (f.bits - 1) - 1)

/-- The NaN code of Table 8-5; the formats without a NaN never encode one. -/
def TFmt.nanCode : TFmt → Nat
  | .f16 => 0x7E00
  | .b16 => 0x7FC0
  | .b16s => 0x7FC0
  | .f32 => 0x7FC00000
  | .f8e5 => 0x7E
  | .f8e4 => 0x80
  | _ => 0

/-! ### Decoded values (R200) -/

/-- The classes of a decoded value. -/
inductive Cls where
  | zero
  | fin
  | inf
  | nan
  deriving DecidableEq, Repr

/-- A decoded value: (−1)^s × m × 2^x when it is finite. -/
structure Dec where
  cls : Cls
  s : Bool
  m : Nat
  x : Int
  deriving DecidableEq, Repr

/-- Zero. -/
def Dec.zero : Dec := { cls := .zero, s := false, m := 0, x := 0 }
/-- NaN. -/
def Dec.nan : Dec := { cls := .nan, s := false, m := 0, x := 0 }
/-- Infinity of sign s. -/
def Dec.inf (s : Bool) : Dec := { cls := .inf, s := s, m := 0, x := 0 }
/-- The value (−1)^s × m × 2^x. -/
def Dec.of (s : Bool) (m : Nat) (x : Int) : Dec := if m = 0 then Dec.zero else { cls := .fin, s := s, m := m, x := x }
/-- An integer times 2^x. -/
def Dec.ofInt (v : Int) (x : Int) : Dec := Dec.of (decide (v < 0)) v.natAbs x

/-- The weight of the leading bit. -/
def Dec.e (v : Dec) : Int := v.x + (Nat.log2 v.m : Int)

/-- Whether a code is a NaN of its format (Table 8-2). -/
def TFmt.isNan (f : TFmt) (c : Nat) : Bool :=
  if f.hasInf then c / 2 ^ f.p % 2 ^ f.w == 2 ^ f.w - 1 && c % 2 ^ f.p != 0 else f == .f8e4 && c == 0x80

/-- Whether a code is an infinity of its format. -/
def TFmt.isInf (f : TFmt) (c : Nat) : Bool := f.hasInf && c / 2 ^ f.p % 2 ^ f.w == 2 ^ f.w - 1 && c % 2 ^ f.p == 0

/-- Decode code c of format f under scale byte sc (R200); the second part counts the flush of R201. -/
def tdec (f : TFmt) (c sc : Nat) : Dec × Nat :=
  let c := c % 2 ^ f.bits
  let r : Dec × Nat :=
    if f.isInt then (Dec.ofInt (sInt f.bits c) 0, 0)
    else
      let s := tbit c (f.bits - 1)
      let ef := c / 2 ^ f.p % 2 ^ f.w
      let fr := c % 2 ^ f.p
      if f.isNan c then (Dec.nan, 0)
      else if f.isInf c then (Dec.inf s, 0)
      else if ef = 0 then
        if fr = 0 then (Dec.zero, 0)
        else if f.ftz then (Dec.zero, 1)
        else (Dec.of s fr (1 - (f.bias : Int) - f.p), 0)
      else (Dec.of s (2 ^ f.p + fr) ((ef : Int) - f.bias - f.p), 0)
  if sc = 0xFF then (Dec.nan, r.2)
  else if r.1.cls = .fin then ({ r.1 with x := r.1.x + (sc : Int) - 127 }, r.2)
  else r

/-! ### Encoding (R207 to R212) -/

/-- m / 2^k to the nearest integer, ties to even. -/
def rne (m : Nat) (k : Int) : Nat :=
  if k ≤ 0 then m * 2 ^ (-k).toNat
  else
    let q := 2 ^ k.toNat
    let t := m / q
    let r := 2 * (m % q)
    if r > q ∨ (r = q ∧ t % 2 = 1) then t + 1 else t

/-- What an encode writes: the code, and whether it saturated or flushed. -/
structure Enc where
  code : Nat
  sat : Bool
  flush : Bool
  deriving DecidableEq, Repr

/-- A code with nothing counted. -/
def Enc.plain (c : Nat) : Enc := { code := c, sat := false, flush := false }
/-- A saturated code. -/
def Enc.satd (c : Nat) : Enc := { code := c, sat := true, flush := false }

/-- Encode into a floating format, flushing subnormals when ftz is set (R208). -/
def tencFz (ftz : Bool) (f : TFmt) (v : Dec) : Enc :=
  match v.cls with
  | .nan => Enc.plain f.nanCode
  | .inf => if f.hasInf then Enc.plain (f.infCode v.s) else Enc.satd (f.maxCode v.s)
  | .zero => Enc.plain 0
  | .fin =>
    let lowq : Int := 1 - (f.bias : Int) - f.p
    let q0 := v.e - f.p
    let q := if ! ftz && decide (q0 < lowq) then lowq else q0
    let r := rne v.m (q - v.x)
    let top : Int := (f.emax : Int) - f.p
    if q > top ∨ (q = top ∧ r = 2 ^ (f.p + 1)) then Enc.satd (f.maxCode v.s)
    else if r = 0 then Enc.plain 0
    else
      let e := q + (Nat.log2 r : Int)
      if e < 1 - (f.bias : Int) then
        (if ftz then { code := 0, sat := false, flush := true } else Enc.plain (fld (bit v.s) (f.bits - 1) + r))
      else
        let sig := r * 2 ^ f.p / 2 ^ Nat.log2 r
        Enc.plain (fld (bit v.s) (f.bits - 1) + fld (e + f.bias).toNat f.p + (sig - 2 ^ f.p))

/-- Encode into a floating format (R208). -/
def tencF (f : TFmt) (v : Dec) : Enc := tencFz f.ftz f v

/-- Encode into an integer format (R209). -/
def tencI (f : TFmt) (v : Dec) : Enc :=
  let w := f.bits
  let hi := 2 ^ (w - 1) - 1
  let lo := 2 ^ (w - 1)
  match v.cls with
  | .nan => Enc.satd 0
  | .inf => Enc.satd (if v.s then lo else hi)
  | .zero => Enc.plain 0
  | .fin =>
    if v.e > 32 then Enc.satd (if v.s then lo else hi)
    else
      let r := rne v.m (-v.x)
      if v.s then (if r > lo then Enc.satd lo else Enc.plain ((2 ^ w - r) % 2 ^ w))
      else if r > hi then Enc.satd hi else Enc.plain r

/-- Encode into a format. -/
def tenc (f : TFmt) (v : Dec) : Enc := if f.isInt then tencI f v else tencF f v

/-! ### Quantization (R213) -/

/-- Whether |a| < |b| for finite values. -/
def Dec.magLt (a b : Dec) : Bool :=
  let x := if a.x ≤ b.x then a.x else b.x
  decide (a.m * 2 ^ (a.x - x).toNat < b.m * 2 ^ (b.x - x).toNat)

/-- The largest finite magnitude of a block. -/
def maxMag (vs : List Dec) : Option Dec :=
  vs.foldl (fun (b : Option Dec) v =>
    if v.cls = .fin then (match b with | none => some v | some u => if u.magLt v then some v else b) else b) none

/-- The computed scale byte of a block whose members hold no NaN. -/
def computedScale (f : TFmt) (vs : List Dec) : Nat :=
  match maxMag vs with
  | none => 0x7F
  | some v =>
    let t0 : Int := v.e - f.emax + 127
    let t := if rne v.m (v.e - f.p - v.x) = 2 ^ (f.p + 1) then t0 + 1 else t0
    if t < 0 then 0 else if t > 254 then 254 else t.toNat

/-- The scale byte and the codes of a block; given holds the supplied byte. -/
def quantize (f : TFmt) (given : Option Nat) (vs : List Dec) : Nat × List Enc :=
  let e :=
    if vs.any (fun v => v.cls == .nan) then 0xFF
    else match given with
      | some b => b
      | none => computedScale f vs
  (e, vs.map (fun v => if e = 0xFF then Enc.plain 0 else tenc f { v with x := v.x + 127 - (e : Int) }))

/-! ### Exact arithmetic on decoded values -/

/-- The product (Table 9-2). -/
def Dec.mul (a b : Dec) : Dec :=
  match a.cls, b.cls with
  | .nan, _ => Dec.nan
  | _, .nan => Dec.nan
  | .inf, .zero => Dec.nan
  | .zero, .inf => Dec.nan
  | .inf, _ => Dec.inf (a.s != b.s)
  | _, .inf => Dec.inf (a.s != b.s)
  | .zero, _ => Dec.zero
  | _, .zero => Dec.zero
  | .fin, .fin => { cls := .fin, s := a.s != b.s, m := a.m * b.m, x := a.x + b.x }

/-- A finite or zero value as an integer times 2^x, x at most its own exponent. -/
def Dec.toIntAt (v : Dec) (x : Int) : Int :=
  if v.cls = .fin then
    let n : Int := (v.m * 2 ^ (v.x - x).toNat : Nat)
    if v.s then -n else n
  else 0

/-- The opposite value. -/
def Dec.neg (v : Dec) : Dec := if v.cls = .fin ∨ v.cls = .inf then { v with s := ! v.s } else v

/-- The exact sum. -/
def Dec.add (a b : Dec) : Dec :=
  if a.cls = .nan ∨ b.cls = .nan then Dec.nan
  else if a.cls = .inf then (if b.cls = .inf ∧ a.s ≠ b.s then Dec.nan else a)
  else if b.cls = .inf then b
  else if a.cls = .zero then b
  else if b.cls = .zero then a
  else
    let x := if a.x ≤ b.x then a.x else b.x
    Dec.ofInt (a.toIntAt x + b.toIntAt x) x

/-- Whether a < b for values that are not NaN. -/
def Dec.lt (a b : Dec) : Bool :=
  if a.cls = .inf ∨ b.cls = .inf then
    if a = b then false
    else if a.cls = .inf then a.s else ! b.s
  else
    let x := if a.cls ≠ .fin then b.x else if b.cls ≠ .fin then a.x else if a.x ≤ b.x then a.x else b.x
    decide (a.toIntAt x < b.toIntAt x)

/-! ### The chunk step (R219) -/

/-- Guard bits of a profile (Table 9-1); the NPROF codes are 0b01, 0b10 and 0b11. -/
def guardBits (prof : Nat) : Nat := if prof = 1 then 3 else if prof = 2 then 5 else 8

/-- The chunk length of a profile for a wider format of 4, 8 or 16 bits (Table 9-1). -/
def chunkLen (prof wide : Nat) : Nat :=
  if prof = 1 then 8 else if prof = 2 then 16 else if wide = 4 then 32 else if wide = 8 then 16 else 8

/-- The class of operand format in Table 9-1: 4, 8 or 16. -/
def TFmt.col (f : TFmt) : Nat := if f.bits = 4 then 4 else if f.bits ≤ 8 then 8 else 16

/-- The chunk step: members v[0] (the accumulator) and the products. -/
def chunkStep (g : Nat) (vs : List Dec) : Enc :=
  if vs.any (fun v => v.cls == .nan) then Enc.plain 0x7FC00000
  else
    let pos := vs.any (fun v => v.cls == .inf && ! v.s)
    let neg := vs.any (fun v => v.cls == .inf && v.s)
    if pos && neg then Enc.plain 0x7FC00000
    else if pos || neg then Enc.plain (TFmt.f32.infCode neg)
    else
      let fs := vs.filter (fun v => v.cls == .fin)
      match fs with
      | [] => Enc.plain 0
      | v :: r =>
        let emax := r.foldl (fun (a : Int) u => if a < u.e then u.e else a) v.e
        let l : Int := emax - 23 - g
        let sum := fs.foldl (fun (a : Int) u =>
          let n : Int := (if u.x ≥ l then u.m * 2 ^ (u.x - l).toNat else u.m / 2 ^ (l - u.x).toNat : Nat)
          if u.s then a - n else a + n) 0
        if sum = 0 then Enc.plain 0 else tencF .f32 (Dec.ofInt sum l)

/-- Cut a list into pieces of n; fuel bounds the pieces. -/
def pieces {α : Type} : Nat → Nat → List α → List (List α)
  | 0, _, _ => []
  | k + 1, n, l => if l.isEmpty then [] else l.take n :: pieces k n (l.drop n)

/-- A result with its counts: saturations, and flushes (one at most where a chunk encode counts them, R224). -/
structure DotRes where
  acc : Nat
  sats : Nat
  flushes : Nat
  deriving DecidableEq, Repr

/-- One output of floating kind: the starting code (already an encoded decoded value) and the products. -/
def dotF (g q : Nat) (init : Nat) (ps : List Dec) : DotRes :=
  (pieces ps.length q ps).foldl (fun (a : DotRes) c =>
    let e := chunkStep g ((tdec .f32 a.acc 0x7F).1 :: c)
    { acc := e.code, sats := max a.sats (bit e.sat), flushes := max a.flushes (bit e.flush) }) { acc := init, sats := 0, flushes := 0 }

/-- One chunk of integer kind: the INT32 accumulator and whether it saturated (R222). -/
def intStep (acc : Int) (t : Int) : Int × Bool :=
  let s := acc + t
  if s > 2147483647 then (2147483647, true) else if s < -2147483648 then (-2147483648, true) else (s, false)

/-- One output of integer kind: a saturation counts at each chunk (R222). -/
def dotI (q : Nat) (init : Int) (ps : List Int) : DotRes :=
  let r := (pieces ps.length q ps).foldl (fun (a : Int × Nat) c =>
    let n := intStep a.1 c.sum
    (n.1, a.2 + bit n.2)) (init, 0)
  { acc := wrapInt 32 r.1, sats := r.2, flushes := 0 }

/-! ### TLD.X (R170) -/

/-- The parts of a binary32 code, and the flushes they count. -/
def splitX (x : Nat) : Nat × Nat × Nat :=
  let top := x / 65536
  let d := tdec .f32 x 0x7F
  if TFmt.f32.isNan x then (fld (bit (tbit x 31)) 15 + 0x7FC0, 0, 0)
  else if TFmt.f32.isInf x then (top, 0, 0)
  else if bits x 30 23 = 0 then (0, 0, d.2)
  else
    let low := x % 65536
    let e : Int := (bits x 30 23 : Int) - 127 - 23
    let lo := (tencFz false .b16 (Dec.of (tbit x 31) low e)).code
    if bits lo 14 7 = 0 then (top, 0, if bits lo 6 0 = 0 then 0 else 1) else (top, lo, 0)

/-! ### Bytes that elements occupy (Table 6-2, R133) -/

/-- The codes of n elements of a memory row (F6 packed, 4-bit two to a byte). -/
def unpackMem (f : TFmt) (n : Nat) (b : List Byte) : List Nat :=
  let v := leNat b
  (List.range n).map (fun j => v / 2 ^ (j * f.bits) % 2 ^ f.bits)

/-- The bytes of a memory row. -/
def packMem (f : TFmt) (cs : List Nat) : List Byte :=
  toLE ((cs.length * f.bits + 7) / 8) (cs.zipIdx.foldl (fun a (p : Nat × Nat) => a + p.1 * 2 ^ (p.2 * f.bits)) 0)

/-- Bits an element takes in a tile register: an F6 element takes a byte. -/
def TFmt.tbits (f : TFmt) : Nat := if f.bits = 6 then 8 else f.bits

/-- Elements of a tile register row of l bytes. -/
def TFmt.perRow (f : TFmt) (l : Nat) : Nat := l * 8 / f.tbits

/-- The codes of a tile register row; bits [7:6] of an F6 byte are not part of its code. -/
def unpackRow (f : TFmt) (b : List Byte) : List Nat :=
  match f.tbits with
  | 4 => b.flatMap (fun x => [x.toNat % 16, x.toNat / 16])
  | 8 => b.map (fun x => x.toNat % 2 ^ f.bits)
  | _ =>
    let k := f.bits / 8
    (pieces b.length k b).map leNat

/-- The bytes of a tile register row. -/
def packRow (f : TFmt) (cs : List Nat) : List Byte :=
  match f.tbits with
  | 4 => (pieces cs.length 2 cs).map (fun p => BitVec.ofNat 8 (p.getD 0 0 % 16 + p.getD 1 0 % 16 * 16))
  | 8 => cs.map (fun c => BitVec.ofNat 8 (c % 2 ^ f.bits))
  | _ => cs.flatMap (fun c => toLE (f.bits / 8) c)

/-- Memory bytes per row of a tile register row of l bytes (Table 6-2). -/
def TFmt.memRow (f : TFmt) (l : Nat) : Nat := if f.bits = 6 then l * 3 / 4 else l

end Sys2Proof.Machine
end

