-- ==== Sys2Proof/Machine/RillFn.lean ====
section
/-! DEFINITION. The correctly rounded functions of the Rill (R236). Each returns a decoded value whose significand carries
at least 40 bits more than any result format and, where the exact value has more, a last bit of 1 in place of what was cut
off; the one rounding of the encode is then the rounding of the exact value. -/

namespace Sys2Proof.Machine

open Sys2Proof

/-- A finite value with a sticky last bit: 2m + 1 in place of a value strictly between m and m + 1 units of 2^x. -/
def sticky (s : Bool) (m : Nat) (x : Int) (exact : Bool) : Dec := Dec.of s (2 * m + (if exact then 0 else 1)) (x - 1)

/-- 1 / x. [DEDUCED, log 62] -/
def fnRcp (v : Dec) : Dec :=
  match v.cls with
  | .nan => Dec.nan
  | .zero => Dec.inf false
  | .inf => Dec.zero
  | .fin =>
    let k := Nat.log2 v.m + 80
    sticky v.s (2 ^ k / v.m) (-(k : Int) - v.x) (2 ^ k % v.m == 0)

/-- The square root of n × 2^x for a rational n = a / b: its bits and whether they are exact. -/
def rootOf (s : Bool) (a b : Nat) (x : Int) : Dec :=
  let a1 := if x % 2 = 0 then a else 2 * a
  let x1 := if x % 2 = 0 then x else x - 1
  let k := Nat.log2 b + 80
  let v := a1 * 2 ^ (2 * k)
  let q := v / b
  let r := isqrt q
  sticky s r (x1 / 2 - (k : Int)) (r * r == q && v % b == 0)

/-- √x. [DEDUCED, log 62] -/
def fnSqrt (v : Dec) : Dec :=
  match v.cls with
  | .nan => Dec.nan
  | .zero => Dec.zero
  | .inf => if v.s then Dec.nan else Dec.inf false
  | .fin => if v.s then Dec.nan else rootOf false v.m 1 v.x

/-- 1/√x. [DEDUCED, log 62] -/
def fnRsqrt (v : Dec) : Dec :=
  match v.cls with
  | .nan => Dec.nan
  | .zero => Dec.inf false
  | .inf => if v.s then Dec.nan else Dec.zero
  | .fin => if v.s then Dec.nan else rootOf false 1 v.m (-v.x)

/-! ### Fixed-point series: numbers in units of 2^−FX -/

/-- Fraction bits of the fixed-point numbers below. -/
def FX : Nat := 300

/-- atanh(a / b) for 3 a ≤ b, in fixed point: the sum of t^(2i+1) / (2i + 1), n terms. -/
def atanhGo (z2 : Nat) : Nat → Nat → Nat → Nat → Nat
  | 0, _, _, acc => acc
  | n + 1, i, t, acc => atanhGo z2 n (i + 1) (t * z2 / 2 ^ FX) (acc + t / (2 * i + 1))

/-- atanh(a / b). -/
def fxAtanh (a b : Nat) : Nat :=
  let z := a * 2 ^ FX / b
  atanhGo (z * z / 2 ^ FX) 110 0 z 0

/-- ln 2. -/
def fxLn2 : Nat := 2 * fxAtanh 1 3

/-- The exponential series of t below 1, n terms. -/
def expGo (t : Nat) : Nat → Nat → Nat → Nat → Nat
  | 0, _, _, acc => acc
  | n + 1, i, p, acc => expGo t n (i + 1) (p * t / 2 ^ FX / (i + 1)) (acc + p)

/-- e^t for t below 1. -/
def fxExp (t : Nat) : Nat := expGo t 70 0 (2 ^ FX) 0

/-- A value known to lie within err units of m × 2^x, m at least 2^200, cut to 100 bits with a sticky bit. -/
def cutTo (s : Bool) (m : Nat) (x : Int) (err : Nat) : Dec :=
  let lo := m - err
  let sh := Nat.log2 lo - 100
  sticky s (lo / 2 ^ sh) (x + (sh : Int)) false

/-- A magnitude beyond every format and scale, and one below. -/
def huge (s : Bool) : Dec := Dec.of s 1 30000
/-- A magnitude below every format. -/
def tiny (s : Bool) : Dec := Dec.of s 1 (-30000)

/-- |v| in fixed point, cut. -/
def fxOf (v : Dec) : Nat :=
  let k := v.x + (FX : Int)
  if k ≥ 0 then v.m * 2 ^ k.toNat else v.m / 2 ^ (-k).toNat

/-- 2^y for y = n + f with the fixed-point fraction f: (significand in fixed point, exponent). -/
def fxPow2 (f : Nat) : Nat := fxExp (f * fxLn2 / 2 ^ FX)

/-- 2^v, or e^v when base is true: the fixed-point significand and the exponent, for |v| below 2^13. -/
def expParts (e : Bool) (v : Dec) : Nat × Int :=
  let a := if e then fxOf v * 2 ^ FX / fxLn2 else fxOf v
  let n : Int := ((a / 2 ^ FX : Nat) : Int)
  let f := a % 2 ^ FX
  if v.s then (if f = 0 then (2 ^ FX, -n) else (fxPow2 (2 ^ FX - f), -n - 1)) else (fxPow2 f, n)

/-- e^v (e true) or 2^v. [DEDUCED, log 62] -/
def fnExpB (e : Bool) (v : Dec) : Dec :=
  match v.cls with
  | .nan => Dec.nan
  | .zero => Dec.of false 1 0
  | .inf => if v.s then Dec.zero else Dec.inf false
  | .fin =>
    if v.e ≥ 13 then (if v.s then tiny false else huge false)
    else if v.e < -100 then (if v.s then sticky false (2 ^ 90 - 1) (-90) false else sticky false (2 ^ 90) (-90) false)
    else if ! e && decide (0 ≤ v.x) then Dec.of false 1 (v.toIntAt 0)
    else if ! e && fxOf v % 2 ^ FX = 0 then Dec.of false 1 (if v.s then -((fxOf v / 2 ^ FX : Nat) : Int) else ((fxOf v / 2 ^ FX : Nat) : Int))
    else
      let p := expParts e v
      cutTo false p.1 (p.2 - FX) (2 ^ 60)

/-- log2 v. [DEDUCED, log 62] -/
def fnLog2 (v : Dec) : Dec :=
  match v.cls with
  | .nan => Dec.nan
  | .zero => Dec.inf true
  | .inf => if v.s then Dec.nan else Dec.inf false
  | .fin =>
    if v.s then Dec.nan
    else
      let top := 2 ^ Nat.log2 v.m
      if v.m = top then Dec.ofInt v.e 0
      else
        let f := 2 * fxAtanh (v.m - top) (v.m + top) * 2 ^ FX / fxLn2
        let t : Int := v.e * (2 ^ FX : Nat) + (f : Int)
        cutTo (decide (t < 0)) t.natAbs (-(FX : Int)) (2 ^ 60)

/-- tanh v. [DEDUCED, log 62] -/
def fnTanh (v : Dec) : Dec :=
  match v.cls with
  | .nan => Dec.nan
  | .zero => Dec.zero
  | .inf => Dec.of v.s 1 0
  | .fin =>
    if v.e ≥ 6 then sticky v.s (2 ^ 90 - 1) (-90) false
    else if v.e < -40 then sticky v.s (v.m * 2 ^ 40 - 1) (v.x - 40) false
    else
      let p := expParts true { v with s := false, x := v.x + 1 }
      let a := p.1 * 2 ^ p.2.toNat
      let q := (a - 2 ^ FX) * 2 ^ FX / (a + 2 ^ FX)
      cutTo v.s q (-(FX : Int)) (2 ^ 60)

/-- 1 / (1 + e^−v). -/
def fnSigm (v : Dec) : Dec :=
  match v.cls with
  | .nan => Dec.nan
  | .zero => Dec.of false 1 (-1)
  | .inf => if v.s then Dec.zero else Dec.of false 1 0
  | .fin =>
    if v.e ≥ 13 then (if v.s then tiny false else sticky false (2 ^ 90 - 1) (-90) false)
    else if v.e < -100 then (if v.s then sticky false (2 ^ 90 - 1) (-91) false else sticky false (2 ^ 90) (-91) false)
    else
      let p := expParts true { v with s := true }
      let n := (-p.2).toNat
      if v.s then
        cutTo false (p.1 * 2 ^ FX * 2 ^ n / (2 ^ FX * 2 ^ n + p.1)) (p.2 - FX) (2 ^ 60)
      else if n > 120 then sticky false (2 ^ 90 - 1) (-90) false
      else cutTo false (2 ^ FX * 2 ^ FX * 2 ^ n / (2 ^ FX * 2 ^ n + p.1)) (-(FX : Int)) (2 ^ 60)

end Sys2Proof.Machine
end

