-- ==== Sys2Proof/Machine/TileBase.lean ====
section
/-! DEFINITION. Tile registers in their banks, the numeric reports, and what a dispatched TMMA computes (06, 07, 09). -/

namespace Sys2Proof.Machine

open Sys2Proof

/-! ### Banks -/

/-- The cells of the bank that a context holds; empty when it holds none. -/
def State.bank (s : State) (c : CtxId) : Mem :=
  if (s.ctxOf c).st = .resident then (s.tiles.banks[(s.ctxOf c).bank]).cells else []

/-- Change the bank that a context holds. -/
def State.modBank (s : State) (c : CtxId) (f : Mem → Mem) : State :=
  if (s.ctxOf c).st = .resident then
    s.modTiles (fun t => { t with banks := vmod t.banks (s.ctxOf c).bank (fun b => { b with cells := f b.cells }) })
  else s

/-- A row of a tile register. -/
def rowIn (b : Mem) (shape : BitVec 2) (n r : Nat) : List Byte := b.dense (regOff n + r * rowLen shape) (rowLen shape)

/-- Every row of a tile register, first m rows. -/
def rowsIn (b : Mem) (shape : BitVec 2) (n m : Nat) : List (List Byte) :=
  pieces m (rowLen shape) (b.dense (regOff n) (m * rowLen shape))

/-- The codes of an accumulator, row by row. -/
def accIn (b : Mem) (shape : BitVec 2) (a : Nat) : List Nat :=
  let n := nRows shape * accCols shape
  (pieces n 4 (b.dense (regOff (16 + a)) (4 * n))).map leNat

/-! ### Tags (Table 6-3) -/

/-- BS of a TTAG. -/
def tagBs (t : Nat) : Bool := tbit t 8
/-- S, the block size of a TTAG or locator field. -/
def bszOf (b : Nat) : Nat := 8 * 2 ^ b

/-- The scale byte's place in its array for element (r, j) (R138). -/
def scaleAt (bdir : Bool) (sz e r j : Nat) : Nat := if bdir then r / sz * e + j else r * (e / sz) + j / sz

/-- Bytes of the scale array (R138). -/
def scaleLen (sz e r : Nat) : Nat := r * e / sz

/-! ### Numeric reports (R225, R228) -/

/-- Apply the counts of an operation of strand k; ovf says that a clamp sets NUMEV.CNTOVF, which TLD.X never does (R228). -/
def applyCounts (s : State) (k : StrandId) (ovf : Bool) (ns nf : Nat) : State :=
  s.modStr k (fun t =>
    let n := t.num.numcnt.toNat
    let m := fun x => min x 0xFFFF
    let cs := bits n 31 16 + ns
    let cf := bits n 15 0 + nf
    let clamp := decide (ns > 0xFFFF) || decide (nf > 0xFFFF) || decide (cs > 0xFFFF) || decide (cf > 0xFFFF)
    { t with num := { t.num with
      numcnt := w64 (fld (m ns) 48 + fld (m nf) 32 + fld (m cs) 16 + m cf)
      numev := if clamp && ovf then t.num.numev ||| w64 (2 ^ 61) else t.num.numev } })

/-- Record the first non-finite output, unless a record is held (Table 9-7). -/
def recordNf (s : State) (k : StrandId) (op : Nat) (acc : Bool) (reg : Nat) (out : Option (Nat × Nat × Bool)) : State :=
  match out with
  | none => s
  | some (row, col, nan) =>
    s.modStr k (fun t =>
      if t.num.numev.getLsbD 63 then t
      else
        let keep := t.num.numev.toNat / 2 ^ 61 % 2
        { t with num := { t.num with
          numev := w64 (fld 1 63 + fld (bit nan) 62 + fld keep 61 + fld op 52 + fld (bit acc) 40 + fld reg 32 + fld row 16 + col) } })

/-- Unpredictable numeric reports of strand k (R229). [DESIGN CHOICE, log 59] -/
def freeReports (s : State) (k : StrandId) : State :=
  let a := s.freeVal
  let b := a.2.freeVal
  b.2.modStr k (fun t => { t with num := { t.num with numcnt := a.1, numev := b.1 &&& 0xE0F0010FFFFFFFFF } })

/-- A counting operation of strand k applies its counts and its record. -/
def Tally.apply (t : Tally) (s : State) (k : StrandId) : State :=
  if t.free then freeReports s k else recordNf (applyCounts s k t.ovf t.ns t.nf) k t.op t.acc t.reg t.out

/-- The output that comes first in raster order. -/
def firstOut (a b : Option (Nat × Nat × Bool)) : Option (Nat × Nat × Bool) :=
  match a, b with
  | none, b => b
  | a, none => a
  | some x, some y => if y.1 < x.1 ∨ (y.1 = x.1 ∧ y.2.1 < x.2.1) then some y else some x

/-- The report of core q of a gang joins a TMMA's tally: its counts are added and its quadrant takes its place in the gang tile (R184,
R225, R228); a parity error there leaves the reports unpredictable (R229). [DESIGN CHOICE, log 55] -/
def Tally.join (t : Tally) (q : Nat) (r : GangReport) : Tally :=
  { t with
    ns := t.ns + r.ns
    nf := t.nf + r.nf
    free := t.free || r.faults.any (fun f => f.1 == 0x31)
    out := firstOut t.out (r.out.map (fun o => (o.1 + 64 * (q % 2), o.2.1 + 64 * (q / 2), o.2.2))) }

/-- The first non-finite code of a raster of binary32 codes with c columns. -/
def firstNf (c : Nat) (codes : List Nat) : Option (Nat × Nat × Bool) :=
  match codes.findIdx? (fun x => bits x 30 23 == 0xFF) with
  | none => none
  | some i => some (i / c, i % c, (codes.getD i 0) % 2 ^ 23 != 0)

/-! ### What a pass computes (R166, R167, R171, R219, R222) -/

/-- The parts that a pass of a split TMMA uses (Table 7-6): whether A and B use their low parts. -/
def splitPart (passes p : Nat) : Bool × Bool :=
  if passes = 2 then (false, p = 1) else if passes = 3 then (p = 1, p = 2) else (false, false)

/-- The operand elements that a pass reads of register rows: decoded rows, and the flushes they count. -/
def operand (rs : List (List Byte)) (shape : BitVec 2) (off n : Nat) (tag : Nat) (sc : List Byte) : List (List Dec) × Nat :=
  match tfmtOf (tagFmt tag) with
  | none => ([], 0)
  | some f =>
    let e := f.perRow (rowLen shape)
    let sz := bszOf (bits tag 10 9)
    let one := fun (p : List Byte × Nat) =>
      (((unpackRow f p.1).drop off).take n).zipIdx.map (fun (q : Nat × Nat) =>
        tdec f q.1 (if tagBs tag then (sc.getD (scaleAt (tbit tag 11) sz e p.2 (off + q.2)) 0x7F).toNat else 0x7F))
    let all := rs.zipIdx.map one
    (all.map (fun r => r.map (fun d => d.1)), (all.map (fun r => (r.map (fun d => d.2)).sum)).sum)

/-- Whether a format code is an integer operand format. -/
def intFmt (c : Nat) : Bool := c == 0 || c == 1

/-- Whether a TMMA is of integer kind (R167). -/
def TmmaOp.int (p : TmmaOp) : Bool := intFmt (tagFmt p.tagA.toNat) && intFmt (tagFmt p.tagB.toNat)

/-- The class of the wider operand format. -/
def wideOf (ta tb : Nat) : Nat :=
  match tfmtOf (tagFmt ta), tfmtOf (tagFmt tb) with
  | some f, some g => max f.col g.col
  | _, _ => 16

/-- One output of a pass: its code, saturations and flushes. -/
structure PassOut where
  code : Nat
  sats : Nat
  flushes : Nat

/-- The rows of A that pass i reads: its own registers, or those its master sent (R184). -/
def rowsOfA (b : Mem) (p : TmmaOp) (low : Bool) : List (List Byte) :=
  match p.rowsA with
  | some rs => rs.getD (bit low) []
  | none => rowsIn b p.shape (p.ta.val + bit low) (nRows p.shape)

/-- Pass number i (from 1) on the bank's bytes: the outputs of the accumulator in raster order, and the operand flushes. -/
def passOuts (b : Mem) (p : TmmaOp) (i : Nat) : List PassOut × Nat :=
  let ta := p.tagA.toNat
  let tb := p.tagB.toNat
  let part := splitPart p.passes i
  let wide := wideOf ta tb
  let narrow := fun (t : Nat) => decide (((tfmtOf (tagFmt t)).map (fun f => f.col)).getD 16 < wide)
  let nn := accCols p.shape
  let a := operand (rowsOfA b p part.1) p.shape (if narrow ta then p.ksel * p.k else 0) p.n ta p.scA
  let bb := operand (rowsIn b p.shape (p.tb.val + bit part.2) nn) p.shape (if narrow tb then p.ksel * p.k else 0) p.n tb p.scB
  let q := chunkLen p.prof.toNat wide
  let g := guardBits p.prof.toNat
  let zero := p.zero && i == 1
  let olds := accIn b p.shape p.a.val
  if p.int then
    (a.1.zipIdx.flatMap (fun (r : List Dec × Nat) => bb.1.zipIdx.map (fun (c : List Dec × Nat) =>
      let init : Int := if zero then 0 else sInt 32 (olds.getD (r.2 * nn + c.2) 0)
      let d := dotI q init (List.zipWith (fun (x y : Dec) => (x.mul y).toIntAt 0) r.1 c.1)
      { code := d.acc, sats := d.sats, flushes := 0 })), 0)
  else
    (a.1.zipIdx.flatMap (fun (r : List Dec × Nat) => bb.1.zipIdx.map (fun (c : List Dec × Nat) =>
      let z := if zero then (Dec.zero, 0) else tdec .f32 (olds.getD (r.2 * nn + c.2) 0) 0x7F
      let d := dotF g q (tencF .f32 z.1).code (List.zipWith Dec.mul r.1 c.1)
      { code := d.acc, sats := d.sats, flushes := d.flushes + (if i = 1 then z.2 else 0) })), a.2 + bb.2)

/-- The output of pass number i on the bank's bytes: the codes of the accumulator, saturations and flushes. -/
def passCompute (b : Mem) (p : TmmaOp) (i : Nat) : List Nat × Nat × Nat :=
  let r := passOuts b p i
  (r.1.map (fun d => d.code), (r.1.map (fun d => d.sats)).sum, r.2 + (r.1.map (fun d => d.flushes)).sum)

/-- Write an accumulator's codes into a bank. [DESIGN CHOICE, log 50] -/
def accPut (b : Mem) (a : Nat) (codes : List Nat) : Mem := b.splice (regOff (16 + a)) (codes.flatMap (fun c => toLE 4 c))

/-- A pass done on a bank: the accumulator and, for the zeroing forms, ATAG.INT. -/
def passBank (b : Mem) (p : TmmaOp) (i : Nat) : Mem × Nat × Nat :=
  let r := passCompute b p i
  let b1 := accPut b p.a.val r.1
  (if p.zero then b1.putLE (tagOff (16 + p.a.val)) 8 (bit p.int) else b1, r.2.1, r.2.2)

/-- Array passes that make a pass: one in E3-F, one per quadrant in E3-L (R197). -/
def quads (lean : Bool) (shape : BitVec 2) : Nat :=
  if lean then (if shape = 0b11 then 4 else if shape = 0b10 then 2 else 1) else 1

/-- Copy an accumulator into a Runnel entry (R172). -/
def copyRunnel (s : State) (c : CtxId) (p : TmmaOp) : State :=
  match p.entry with
  | none => s
  | some e =>
    let b := s.bank c
    let d := (b.slice (regOff (16 + p.a.val)) (regLen p.shape (16 + p.a.val)))
    let int := tbit (tagIn b (16 + p.a.val)) 0
    s.modTiles (fun t => { t with runnel := vmod t.runnel e (fun q =>
      { q with st := if q.drop then .free else .ready, int := int, shape := p.shape, data := d, drop := false }) })

end Sys2Proof.Machine
end

