-- ==== Sys2Proof/Machine/RillCalc.lean ====
section
/-! DEFINITION. What an operation of group 0x3A computes: its streams, the Value, Bit, Move and reduction operations, the
Cistern and the summary (10). -/

namespace Sys2Proof.Machine

open Sys2Proof

/-! ### Locators (Table 10-2) -/

/-- KIND. -/
def locKind (l : Word) : Nat := bits l.toNat 63 60
/-- FMT. -/
def locFmt (l : Word) : Nat := bits l.toNat 59 56
/-- BS. -/
def locBs (l : Word) : Bool := l.getLsbD 55
/-- BSZ as a block size. -/
def locSz (l : Word) : Nat := bszOf (bits l.toNat 54 53)
/-- BDIR. -/
def locBdir (l : Word) : Bool := l.getLsbD 52
/-- SG. -/
def locSg (l : Word) : Bool := l.getLsbD 51
/-- KEEP. -/
def locKeep (l : Word) : Bool := l.getLsbD 50
/-- SOFF in bytes. -/
def locSoff (l : Word) : Nat := 64 * bits l.toNat 47 32
/-- STRIDE in bytes. -/
def locStride (l : Word) : Nat := 16 * bits l.toNat 31 22
/-- OFF. -/
def locOff (l : Word) : Nat := bits l.toNat 21 0
/-- REG. -/
def locReg (l : Word) : Nat := bits l.toNat 3 0

/-- The shape of an operation: rows and elements per row; a linear shape is one row. -/
def RillOp.rows (o : RillOp) : Nat := if o.ts then nRows o.shape else 1

/-- The format of a source, given the tag of a TILE source and INT of an ACC or RUNNEL source. -/
def srcFmt (l : Word) (tag : Nat) (int : Bool) : Option TFmt :=
  match locKind l with
  | 1 => if tagFmt tag = 0xA then (if locFmt l = 0xB then some .i32 else some .f32) else tfmtOf (tagFmt tag)
  | 2 => some (if int then .i32 else .f32)
  | 3 => some (if int then .i32 else .f32)
  | _ => tfmtOf (locFmt l)

/-- Bytes of a packed row of e elements. -/
def packedRow (f : TFmt) (e : Nat) : Nat := (e * f.bits + 7) / 8

/-- The start of row r of an SPT operand. -/
def sptRow (l : Word) (f : TFmt) (e r : Nat) : Nat :=
  locOff l + r * (if locStride l = 0 then packedRow f e else locStride l)

/-- Elements of the stream of a linear scratchpad operand. -/
def linLen (l : Word) (rows e : Nat) : Nat := if locKind l = 7 then rows else e

/-- Scratchpad ranges (start, length) that the elements of an operand take. -/
def locRanges (l : Word) (f : TFmt) (rows e : Nat) : List (Nat × Nat) :=
  match locKind l with
  | 4 => (List.range rows).map (fun r => (sptRow l f e r, packedRow f e))
  | 5 => [(locOff l, packedRow f e)]
  | 6 => [(locOff l, packedRow f e)]
  | 7 => [(locOff l, packedRow f rows)]
  | _ => []

/-- The range of the scale array of a scratchpad operand or TILE destination. -/
def locScales (l : Word) (rows e : Nat) : List (Nat × Nat) :=
  if locBs l then
    match locKind l with
    | 1 => [(locSoff l, scaleLen (locSz l) e rows)]
    | 4 => [(locSoff l, scaleLen (locSz l) e rows)]
    | 5 => [(locSoff l, (e + locSz l - 1) / locSz l)]
    | 6 => [(locSoff l, (e + locSz l - 1) / locSz l)]
    | 7 => [(locSoff l, (rows + locSz l - 1) / locSz l)]
    | _ => []
  else []

/-! ### Reading a source -/

/-- A source as read: its format, its elements' codes in stream order, each with its scale byte, and how it spreads over the
positions. -/
structure SrcData where
  f : TFmt
  el : List (Nat × Nat)

/-- What the operation reads: the bank's cells, the scratchpad and the Runnel entry. -/
structure RillIn where
  bank : Mem
  spad : Mem
  entry : Mem
  eInt : Bool

/-- The elements of a source. -/
def readSrc (i : RillIn) (o : RillOp) (l : Word) (tag : Nat) : Option SrcData :=
  let rows := o.rows
  let e := o.n
  let scl := fun (idx : Nat) => if locBs l then ((i.spad.get (locSoff l + idx)).toNat) else 0x7F
  let lin := fun (f : TFmt) (n : Nat) =>
    ({ f := f, el := (unpackMem f n (i.spad.dense (locOff l) (packedRow f n))).zipIdx.map
        (fun (p : Nat × Nat) => (p.1, scl (p.2 / locSz l))) } : SrcData)
  match locKind l with
  | 1 =>
    (srcFmt l tag false).map (fun f =>
      let sz := bszOf (bits tag 10 9)
      let sb := i.spad.dense (64 * bits tag 37 22) (scaleLen sz e rows)
      { f := f,
        el := ((rowsIn i.bank o.shape (locReg l) rows).zipIdx.flatMap (fun (r : List Byte × Nat) =>
          (unpackRow f r.1).zipIdx.map (fun (p : Nat × Nat) =>
            (p.1, if tagBs tag then (sb.getD (scaleAt (tbit tag 11) sz e r.2 p.2) 0).toNat else 0x7F)))) })
  | 2 =>
    let f : TFmt := if tbit (tagIn i.bank (16 + locReg l)) 0 then .i32 else .f32
    some { f := f, el := (accIn i.bank o.shape (locReg l)).map (fun c => (c, 0x7F)) }
  | 3 =>
    let n := rows * e
    some { f := if i.eInt then .i32 else .f32, el := ((pieces n 4 (i.entry.dense 0 (4 * n))).map leNat).map (fun c => (c, 0x7F)) }
  | 4 =>
    (tfmtOf (locFmt l)).map (fun f =>
      { f := f,
        el := (List.range rows).flatMap (fun r =>
          (unpackMem f e (i.spad.dense (sptRow l f e r) (packedRow f e))).zipIdx.map
            (fun (p : Nat × Nat) => (p.1, scl (scaleAt (locBdir l) (locSz l) e r p.2)))) })
  | 5 => (tfmtOf (locFmt l)).map (fun f => lin f e)
  | 6 => (tfmtOf (locFmt l)).map (fun f => lin f e)
  | 7 => (tfmtOf (locFmt l)).map (fun f => lin f rows)
  | 8 => (tfmtOf (locFmt l)).map (fun f => { f := f, el := [(bits l.toNat 31 0 % 2 ^ f.bits, 0x7F)] })
  | _ => none

/-- A stream spread over the positions in raster order (R232). -/
def spread {α : Type} (l : Word) (rows e : Nat) (xs : List α) : List α :=
  match locKind l with
  | 6 => (List.replicate rows xs).flatten
  | 7 => xs.flatMap (fun x => List.replicate e x)
  | 8 => xs.flatMap (fun x => List.replicate (rows * e) x)
  | _ => xs

/-- Decoded elements of a source and the flushes they count. -/
def decSrc (d : SrcData) : List Dec × Nat :=
  let r := d.el.map (fun p => tdec d.f p.1 p.2)
  (r.map (fun p => p.1), (r.map (fun p => p.2)).sum)

/-! ### Value operations (R234 to R237) -/

/-- The activation of EPI (Table 10-5). -/
def epiAct (modf : Nat) (v : Dec) : Dec :=
  if v.cls = .nan then v
  else
    let k := bits modf 4 1
    match bits modf 6 5 with
    | 0 => v
    | 1 => if v.s then Dec.zero else v
    | 2 => if v.s ∧ v.cls = .fin then { v with x := v.x - k } else v
    | _ => if v.s then Dec.zero else if (Dec.of false k 0).lt v then Dec.of false k 0 else v

/-- 1 or 0. -/
def decBool (b : Bool) : Dec := if b then Dec.of false 1 0 else Dec.zero

/-- The exact result of a Value operation at one position; absent sources are given as none. -/
def valueOp (xop modf : Nat) (a : Dec) (b c : Option Dec) : Dec :=
  let b' := b.getD Dec.zero
  let nan2 := a.cls == .nan || b'.cls == .nan
  match xop with
  | 0x00 => a
  | 0x01 => a.add b'
  | 0x02 => a.add b'.neg
  | 0x03 => a.mul b'
  | 0x04 => epiAct modf ((a.mul (b.getD (Dec.of false 1 0))).add (c.getD Dec.zero))
  | 0x05 => if nan2 then Dec.nan else if b'.lt a then b' else a
  | 0x06 => if nan2 then Dec.nan else if a.lt b' then b' else a
  | 0x07 => if a.cls = .fin ∨ a.cls = .inf then { a with s := false } else a
  | 0x08 => a.neg
  | 0x09 => decBool (! nan2 && ! a.lt b' && ! b'.lt a)
  | 0x0A => decBool (! nan2 && a.lt b')
  | 0x0B => decBool (! nan2 && ! b'.lt a)
  | 0x0C => if a.cls = .fin ∨ a.cls = .inf then b' else c.getD Dec.zero
  | 0x10 => fnRcp a
  | 0x11 => fnSqrt a
  | 0x12 => fnRsqrt a
  | 0x13 => fnExpB false a
  | 0x14 => fnLog2 a
  | 0x15 => fnExpB true a
  | 0x16 => fnTanh a
  | _ => fnSigm a

/-! ### Bit operations (R238) -/

/-- A code sign-extended to 32 bits. -/
def sext32 (f : TFmt) (c : Nat) : Nat := wrapInt 32 (sInt f.bits (c % 2 ^ f.bits))

/-- The 32-bit result of a Bit operation. -/
def bitOp (xop modf : Nat) (f : TFmt) (a : Nat) (b : Option (TFmt × Nat)) : Nat :=
  let x : BitVec 32 := BitVec.ofNat 32 (sext32 f a)
  let y : BitVec 32 := match b with | some (g, c) => BitVec.ofNat 32 (sext32 g c) | none => 0
  let sh := match b with | some (g, c) => c % 2 ^ g.bits | none => bits modf 4 0
  match xop with
  | 0x20 => (x &&& y).toNat
  | 0x21 => (x ||| y).toNat
  | 0x22 => (x ^^^ y).toNat
  | 0x23 => (x &&& ~~~y).toNat
  | 0x24 => (~~~x).toNat
  | 0x25 => if sh ≥ 32 then 0 else (x <<< sh).toNat
  | 0x26 => if sh ≥ 32 then 0 else a % 2 ^ f.bits / 2 ^ sh
  | 0x27 => (x.sshiftRight (min sh 31)).toNat
  | 0x28 => (x + y).toNat
  | 0x29 => (x - y).toNat
  | _ => (x * y).toNat

/-! ### The Rill's axis reduction (R247) -/

/-- The sum of values, exact. -/
def sumDec (l : List Dec) : Dec := l.foldl Dec.add Dec.zero

/-- MAX (up) or MIN of values. -/
def extreme (up : Bool) (l : List Dec) : Dec :=
  if l.any (fun v => v.cls == .nan) then Dec.nan
  else match l with
    | [] => Dec.zero
    | v :: r => r.foldl (fun a u => if (if up then a.lt u else u.lt a) then u else a) v

/-- The position of the first NaN, else of the first largest value. -/
def argMax (l : List Dec) : Nat :=
  match l.findIdx? (fun v => v.cls == .nan) with
  | some i => i
  | none =>
    match l with
    | [] => 0
    | v :: r => ((r.zipIdx 1).foldl (fun (b : Dec × Nat) u => if b.1.lt u.1 then u else b) (v, 0)).2

/-- One result of RRED. -/
def rredOne (kind : Nat) (l : List Dec) : Dec :=
  match kind with
  | 0 => sumDec l
  | 1 => extreme true l
  | 2 => extreme false l
  | 3 => Dec.ofInt (argMax l) 0
  | 4 => sumDec (l.map (fun v => v.mul v))
  | _ => Dec.ofInt (l.filter (fun v => v.cls != .zero)).length 0

/-- The columns of rows of e. -/
def columns (e : Nat) (rows : List (List Dec)) : List (List Dec) :=
  (List.range e).map (fun j => rows.map (fun r => r.getD j Dec.zero))

/-! ### Writing a destination (R241, R242) -/

/-- What an operation leaves: bank cells, the new tag with its register, scratchpad writes. -/
structure RillOut where
  cells : List (Nat × List Byte)
  tag : Option (Nat × Nat)
  spad : List (Nat × List Byte)

/-- The scale index of every position of a block-scaled destination. -/
def blockIdx (l : Word) (rows e : Nat) : List Nat :=
  if locKind l = 5 then (List.range e).map (fun i => i / locSz l)
  else (List.range rows).flatMap (fun r => (List.range e).map (fun j => scaleAt (locBdir l) (locSz l) e r j))

/-- The scale bytes and the encodes of a destination's values. -/
def encodeDest (spad : Mem) (l : Word) (f : TFmt) (rows e : Nat) (vs : List Dec) : List Nat × List Enc :=
  if locBs l then
    let idx := blockIdx l rows e
    let nb := idx.foldl (fun a i => max a (i + 1)) 0
    let pos := vs.zip idx
    let scs := (List.range nb).map (fun b =>
      (quantize f (if locSg l then some (spad.get (locSoff l + b)).toNat else none)
        ((pos.filter (fun p => p.2 == b)).map (fun p => p.1))).1)
    (scs, pos.map (fun p =>
      let sc := scs.getD p.2 0
      if sc = 0xFF then Enc.plain 0 else tenc f { p.1 with x := p.1.x + 127 - (sc : Int) }))
  else ([], vs.map (tenc f))

/-- The tag that an operation leaves in the register of its destination (R241). -/
def destTag (l : Word) : Option (Nat × Nat) :=
  match locKind l with
  | 1 => some (locReg l, (if locFmt l = 0xB then 0xA else locFmt l) + fld (bit (locBs l)) 8 + fld (bits l.toNat 54 53) 9
      + fld (bit (locBdir l)) 11 + fld (bits l.toNat 47 32) 22)
  | 2 => some (16 + locReg l, bit (locFmt l == 0xB))
  | _ => none

/-- The byte writes of codes into a destination; the scale bytes come last, and stand where its own scale array overlaps its elements.
[DESIGN CHOICE, log 60] -/
def destWrites (spad : Mem) (o : RillOp) (l : Word) (f : TFmt) (n : Nat) (codes : List Nat) (scs : List Nat) : RillOut :=
  let rows := o.rows
  let sc : List (Nat × List Byte) := if scs.isEmpty then [] else [(locSoff l, scs.map (BitVec.ofNat 8))]
  match locKind l with
  | 1 => { cells := [(regOff (locReg l), packRow f codes)], tag := destTag l, spad := sc }
  | 2 => { cells := [(regOff (16 + locReg l), codes.flatMap (toLE 4))], tag := destTag l, spad := [] }
  | 4 =>
    { cells := [], tag := none,
      spad := (pieces rows o.n codes).zipIdx.map (fun (p : List Nat × Nat) => (sptRow l f o.n p.2, packMem f p.1)) ++ sc }
  | _ =>
    let w := n * f.bits
    let bs := packMem f codes
    let last := (w + 7) / 8 - 1
    let keep := (spad.get (locOff l + last)).toNat / 2 ^ (w % 8) * 2 ^ (w % 8)
    let bs1 := if w % 8 = 0 then bs else bs.dropLast ++ [BitVec.ofNat 8 ((bs.getD last 0).toNat + keep)]
    { cells := [], tag := none, spad := (locOff l, bs1) :: sc }

/-! ### Unpredictable destinations (R240) -/

/-- Whether two ranges meet. -/
def meets (a b : Nat × Nat) : Bool := decide (a.1 < b.1 + b.2) && decide (b.1 < a.1 + a.2)

/-- Whether a source and the destination are one operand in the sense of R240. -/
def sameOperand (d l : Word) : Bool :=
  locKind d == locKind l && (match locKind d with
    | 1 => locReg d == locReg l
    | 2 => locReg d == locReg l
    | 4 => locOff d == locOff l && locStride d == locStride l && locFmt d == locFmt l
    | 5 => locOff d == locOff l && locFmt d == locFmt l
    | _ => false)

/-- The scratchpad ranges of a source with its scales. -/
def srcRanges (o : RillOp) (l : Word) (tag : Nat) : List (Nat × Nat) :=
  match tfmtOf (locFmt l) with
  | none => if locKind l = 1 ∧ tagBs tag then [(64 * bits tag 37 22, scaleLen (bszOf (bits tag 10 9)) o.n o.rows)] else []
  | some f =>
    if locKind l = 1 then (if tagBs tag then [(64 * bits tag 37 22, scaleLen (bszOf (bits tag 10 9)) o.n o.rows)] else [])
    else locRanges l f o.rows o.n ++ locScales l o.rows o.n

/-- Whether the destination's contents are unpredictable. n is the destination's length when it is linear.
[DESIGN CHOICE, log 60] -/
def overlaps (o : RillOp) (n : Nat) : Bool :=
  match tfmtOf (locFmt o.ld) with
  | none => false
  | some f =>
    let dr := locRanges o.ld f o.rows n ++ locScales o.ld o.rows n
    [(o.s1, o.tag1), (o.s2, o.tag2), (o.s3, o.tag3)].any (fun p =>
      ! sameOperand o.ld p.1 && (srcRanges o p.1 p.2.toNat).any (fun r => dr.any (fun q => meets r q)))

/-- Unpredictable codes: free values. [DESIGN CHOICE, log 60] -/
def freeCodes (free : Nat) (f : TFmt) (n : Nat) : List Nat :=
  (List.range n).map (fun i => leNat ((List.range 4).map (fun j => Config.freeByte free (4 * i + j))) % 2 ^ f.bits)

/-! ### The summary (R252) -/

/-- The binary32 code of a magnitude, clamped at both ends and not counted. -/
def magCode (v : Dec) : Nat :=
  if v.cls = .fin then (tencF .f32 { v with s := false }).code else 0

/-- SUMR and ROWF after a summarising operation. -/
def summarise (s : State) (k : StrandId) (sacc : Bool) (nf nan : Bool) (nsat nflush amax : Nat) (rowf : Word) : State :=
  s.modStr k (fun t =>
    let o := if sacc then t.num.sumr.toNat else 0
    let b := fun (i : Nat) (x : Bool) => fld (bit (x || tbit o i)) i
    let ns := min (bits o 47 32 + nsat) 0xFFFF
    let am := max (bits o 31 0) amax
    { t with num := { t.num with
      sumr := w64 (fld 1 63 + b 62 nf + b 61 nan + b 60 (decide (0 < nsat)) + b 59 (decide (0 < nflush)) + fld ns 32 + am)
      rowf := if sacc then t.num.rowf ||| rowf else rowf } })

/-! ### Applying an operation -/

/-- The result of the computing part: what is written, counts and reports. -/
structure RillRes where
  out : RillOut
  ns : Nat
  nf : Nat
  sum : Bool
  hasNf : Bool
  hasNan : Bool
  amax : Nat
  rowf : Word
  first : Option (Nat × Nat × Bool)
  freeUsed : Bool

/-- Encode values into the destination and report them (R252, R254, R255). cols is the width used for ROW and COL; n the
elements of a linear destination. -/
def finishValue (i : RillIn) (free : Nat) (bad : Bool) (o : RillOp) (rows e : Nat) (vs : List Dec) (nf : Nat) : Option RillRes :=
  (tfmtOf (locFmt o.ld)).map (fun f =>
    let r := encodeDest i.spad o.ld f rows e vs
    let codes := if bad then freeCodes free f r.2.length else r.2.map (fun x => x.code)
    let scs := if bad then (List.range r.1.length).map (fun j => (Config.freeByte (free + 1) j).toNat) else r.1
    let back := (codes.zip (if locBs o.ld then blockIdx o.ld rows e else List.replicate codes.length 0)).map
      (fun (p : Nat × Nat) => (tdec f p.1 (if locBs o.ld then scs.getD p.2 0x7F else 0x7F)).1)
    let isNf := fun (v : Dec) => v.cls == .nan || v.cls == .inf
    let rowOf := fun (p : Nat) => if locKind o.ld = 5 then min (p / 64) 63 else p / e
    let bad1 := (back.zip r.2).zipIdx
    let rf := bad1.foldl (fun (a : Word) (p : (Dec × Enc) × Nat) => if isNf p.1.1 || p.1.2.sat then a ||| w64 (2 ^ rowOf p.2) else a) 0
    { out := destWrites i.spad o o.ld f e codes scs,
      ns := (r.2.filter (fun x => x.sat)).length,
      nf := nf + (r.2.filter (fun x => x.flush)).length,
      sum := true,
      hasNf := back.any isNf,
      hasNan := back.any (fun v => v.cls == .nan),
      amax := back.foldl (fun a v => max a (magCode v)) 0,
      rowf := rf,
      first := match back.findIdx? isNf with
        | none => none
        | some q => some (if locKind o.ld = 5 then 0 else q / e, if locKind o.ld = 5 then q else q % e,
            ((back.getD q Dec.zero).cls == .nan)),
      freeUsed := bad })

/-- Codes written without a count or a report (Bit and Move operations). -/
def finishCodes (i : RillIn) (free : Nat) (bad : Bool) (o : RillOp) (codes : List Nat) : Option RillRes :=
  (tfmtOf (locFmt o.ld)).map (fun f =>
    let cs := if bad then freeCodes free f codes.length else codes.map (fun c => c % 2 ^ f.bits)
    { out := destWrites i.spad o o.ld f o.n cs [], ns := 0, nf := 0, sum := false, hasNf := false, hasNan := false, amax := 0,
      rowf := 0, first := none, freeUsed := bad })

/-- A locator that is present. -/
def present (l : Word) : Bool := locKind l != 0

/-- What a Rill operation (Value, Bit, Move, RRED) leaves. bad says that a parity error makes the result unpredictable. An element that two source
positions name counts its flush in each position (R254). [DESIGN CHOICE, log 60] -/
def rillCompute (i : RillIn) (free : Nat) (bad : Bool) (o : RillOp) : Option RillRes :=
  let rows := o.rows
  let e := o.n
  let m := o.modf.toNat
  match readSrc i o o.s1 o.tag1.toNat with
  | none => none
  | some d1 =>
    let d2 := if present o.s2 then readSrc i o o.s2 o.tag2.toNat else none
    let d3 := if present o.s3 then readSrc i o o.s3 o.tag3.toNat else none
    if o.xop < 0x20 then
      let v1 := decSrc d1
      let v2 := d2.map decSrc
      let v3 := d3.map decSrc
      let opt := fun (l : Word) (v : Option (List Dec × Nat)) => match v with
        | some p => (spread l rows e p.1).map some
        | none => List.replicate (rows * e) none
      let vs := List.zipWith (fun (a : Dec) (bc : Option Dec × Option Dec) => valueOp o.xop m a bc.1 bc.2)
        (spread o.s1 rows e v1.1) ((opt o.s2 v2).zip (opt o.s3 v3))
      let nf := v1.2 + (match v2 with | some p => p.2 | none => 0) + (match v3 with | some p => p.2 | none => 0)
      finishValue i free (bad || overlaps o e) o rows e vs nf
    else if o.xop < 0x30 then
      let c1 := spread o.s1 rows e (d1.el.map (fun p => p.1))
      let c2 := match d2 with
        | some d => (spread o.s2 rows e (d.el.map (fun p => p.1))).map (fun c => some (d.f, c))
        | none => List.replicate (rows * e) none
      finishCodes i free (bad || overlaps o e) o (List.zipWith (fun a b => bitOp o.xop m d1.f a b) c1 c2)
    else if o.xop < 0x40 then
      let c1 := spread o.s1 rows e (d1.el.map (fun p => p.1))
      let c2 := match d2 with
        | some d => spread o.s2 rows e (d.el.map (fun (p : Nat × Nat) => p.1 % 2 ^ d.f.bits))
        | none => []
      let codes :=
        if o.xop = 0x30 then c2.map (fun ix => if ix < e then c1.getD ix 0 else 0)
        else if o.xop = 0x31 then
          c2.zipIdx.map (fun (p : Nat × Nat) => if p.1 < e then c1.getD (p.2 / e * e + p.1) 0 else 0)
        else if o.xop = 0x32 then (List.range (rows * e)).map (fun p => c1.getD (p % e * e + p / e) 0)
        else c1
      finishCodes i free (bad || overlaps o e) o codes
    else
      let v1 := decSrc d1
      let rws := pieces rows e v1.1
      let axis := tbit m 3
      let kind := m % 8
      let outs := (if axis then columns e rws else rws).map (rredOne kind)
      finishValue i free (bad || overlaps o outs.length) o 1 outs.length outs v1.2

/-! ### The Cistern (R248 to R251) -/

/-- The slot and the index before the bias of position p (Table 10-8). -/
def cisPlace (ts : Bool) (grp e p : Nat) : Nat × Nat :=
  if ts then
    match grp with
    | 0 => (0, p)
    | 1 => (p / e, p % e)
    | _ => (p % e, p / e)
  else
    match grp with
    | 0 => (0, p)
    | 1 => (p / 64, p % 64)
    | _ => (p % 64, p / 64)

/-- A slot in progress: VAL, AUX and whether an encode or a bound saturated, an encode or VAL's decode flushed. -/
structure SlotRes where
  v : Nat
  aux : Nat
  sat : Bool
  flush : Bool

/-- AUX as a member count, one or n higher. -/
def auxAdd (a n : Nat) : Nat := min (a + n) 0xFFFFFFFF

/-- Fold members (value, index) into a slot (R250). AUX of AMAX wraps at 32 bits, so that the index 2^32 - 1 leaves 0, a slot that holds no member;
a fold with AUX = 0 does not decode VAL and counts no flush of it. [DESIGN CHOICE, log 143] -/
def foldSlot (kind prof : Nat) (f : TFmt) (bias : Nat) (z : SlotRes) (ms : List (Dec × Nat)) : SlotRes :=
  let int := f.isInt
  let q := chunkLen prof f.col
  let vals := ms.map (fun p => if kind = 4 then p.1.mul p.1 else p.1)
  let vf : TFmt := if int then .i32 else .f32
  match kind with
  | 5 =>
    let n := (ms.filter (fun p => p.1.cls != .zero)).length
    let t := sInt 32 z.v + (n : Int)
    { v := wrapInt 32 (if t > 2147483647 then 2147483647 else t), aux := auxAdd z.aux ms.length, sat := decide (t > 2147483647), flush := false }
  | 0 | 4 =>
    let r := (pieces vals.length q vals).foldl (fun (a : SlotRes) c =>
      if int then
        let n := intStep (sInt 32 a.v) ((c.map (fun v => v.toIntAt 0)).sum)
        { a with v := wrapInt 32 n.1, sat := a.sat || n.2 }
      else
        let d := tdec .f32 a.v 0x7F
        let en := chunkStep (guardBits prof) (d.1 :: c)
        { a with v := en.code, sat := a.sat || en.sat, flush := a.flush || en.flush || d.2 == 1 }) z
    { r with aux := auxAdd z.aux ms.length }
  | _ =>
    let amax := kind == 3
    ms.foldl (fun (a : SlotRes) p =>
      let d := tdec vf a.v 0x7F
      let idx := (1 + (bias + p.2) % 2 ^ 32) % 2 ^ 32
      let put := fun (v : Dec) (ax : Nat) (fl : Bool) =>
        let en := tenc vf v
        ({ v := en.code, aux := ax, sat := a.sat || en.sat, flush := a.flush || en.flush || fl } : SlotRes)
      if a.aux = 0 then put p.1 (if amax then idx else 1) false
      else
        let keepAux := if amax then a.aux else auxAdd a.aux 1
        if d.1.cls = .nan then put Dec.nan keepAux false
        else if p.1.cls = .nan then put Dec.nan (if amax then idx else auxAdd a.aux 1) (d.2 == 1)
        else
          let takes := if kind = 2 then p.1.lt d.1 else d.1.lt p.1
          put (if takes then p.1 else d.1) (if amax then (if takes then idx else a.aux) else auxAdd a.aux 1) (d.2 == 1)) z

/-- What a CRED leaves: the slots it updates, saturations and flushes. -/
def credCompute (i : RillIn) (o : RillOp) (slots : Vector Word 64) : List (Nat × SlotRes) × Nat × Nat :=
  match readSrc i o o.s1 o.tag1.toNat with
  | none => ([], 0, 0)
  | some d =>
    let v := decSrc d
    let e := o.n
    let m := o.modf.toNat
    let pos := (spread o.s1 o.rows e v.1).zipIdx.map (fun (p : Dec × Nat) =>
      let q := cisPlace o.ts (bits m 7 6) e p.2
      (bits m 5 0 + q.1, p.1, q.2))
    let kind := o.xop - 0x48
    let rs : List (Nat × SlotRes) := (List.range 64).filterMap (fun n =>
      let ms := (pos.filter (fun (p : Nat × Dec × Nat) => p.1 == n)).map (fun (p : Nat × Dec × Nat) => p.2)
      if ms.isEmpty then none
      else
        let w := (slots.getD n 0).toNat
        some (n, foldSlot kind o.prof.toNat d.f (bits o.s3.toNat 31 0) { v := bits w 31 0, aux := bits w 63 32, sat := false, flush := false } ms))
    (rs, (rs.filter (fun (p : Nat × SlotRes) => p.2.sat)).length, v.2 + (rs.filter (fun (p : Nat × SlotRes) => p.2.flush)).length)

end Sys2Proof.Machine
end

