-- ==== Sys2Proof/Machine/TileWork.lean ====
section
/-! DEFINITION. Dispatched tile work: conflicts, completion, the dispatch-order view, frame reservation, bank claims, and the
frame of every tile instruction (06; R143 to R149, R257). -/

namespace Sys2Proof.Machine

open Sys2Proof

/-! ### Parity errors of tile state (Table 17-1, R394) -/

/-- INFO of 0x31 for a register (0 to 15 tile registers, 16 to 19 accumulators) and a row. -/
def parInfo (n row : Nat) : Nat := fld (bit (16 ≤ n)) 15 + fld (n % 16) 11 + row

/-- Bank b's place of a mark. -/
def parLoc (b : Fin 2) (n row : Nat) : Nat := parInfo n row + 0x10000 * b.val

/-- The first parity error in the given registers of a bank, rows below m. -/
def State.parAt (s : State) (b : Fin 2) (ns : List Nat) (m : Nat) : Option (Nat × Nat) :=
  if s.marks.isEmpty then none
  else ns.findSome? (fun n => ((List.range m).find? (fun r => (s.markAt (if 16 ≤ n then 0x09 else 0x08) (parLoc b n r)).isSome)).map (fun r => (n, r)))

/-- A register that is written takes new parity. -/
def dropPar (s : State) (b : Fin 2) (n : Nat) : State :=
  if s.marks.isEmpty then s
  else { s with marks := s.marks.filter (fun m => ! (m.code == (if 16 ≤ n then 0x09 else 0x08) && m.loc / 0x10000 == b.val
      && (m.loc % 0x10000) / 0x800 == (parInfo n 0) / 0x800)) }

/-- A parity error of tile work raises 0x31 on strand k with the record of R394. -/
def tilePar (s : State) (k : StrandId) (hit : Nat × Nat) : State :=
  consume31 s k (if 16 ≤ hit.1 then 0x09 else 0x08) (parInfo hit.1 hit.2)

/-! ### Conflicts in dispatch order (R144, R257) -/

/-- Whether later operation o must wait for earlier operation p: registers within one context, scratchpad bytes within one strand
(R102, R139, R257). -/
def TOp.before (p o : TOp) : Bool :=
  (p.ctx == o.ctx && (p.wr.any (fun x => o.rd.contains x || o.wr.contains x) || p.rd.any (fun x => o.wr.contains x)))
    || (p.ctx.k == o.ctx.k && ((p.spWr && (o.spRd || o.spWr)) || (p.spRd && o.spWr)))

/-- Whether the operation of a given id waits for an earlier one. -/
def State.blocked (s : State) (o : TOp) : Bool := (s.tiles.inflight.takeWhile (fun p => p.id != o.id)).any (fun p => p.before o)

/-- Remove an operation. -/
def State.dropOp (s : State) (id : Nat) : State :=
  s.modTiles (fun t => { t with inflight := t.inflight.filter (fun o => o.id != id) })

/-- Replace the body of an operation. -/
def State.putBody (s : State) (id : Nat) (b : TBody) : State :=
  s.modTiles (fun t => { t with inflight := t.inflight.map (fun o => if o.id == id then { o with body := b } else o) })

/-! ### Effects on registers, scratchpad and slots -/

/-- Write register bytes and tags of a context. -/
def writeRegs (s : State) (c : CtxId) (cells : List (Nat × List Byte)) (tags : List (Nat × Word)) : State :=
  let s1 := s.modBank c (fun b =>
    tags.foldl (fun b t => b.putLE (tagOff t.1) 8 t.2.toNat) (cells.foldl (fun b x => b.splice x.1 x.2) b))
  if s.marks.isEmpty then s1
  else (List.range 20).foldl (fun s n => if cells.any (fun x => x.1 == regOff n) then dropPar s (s.ctxOf c).bank n else s) s1

/-- Write scratchpad bytes of strand k. -/
def writeSpad (s : State) (k : StrandId) (ws : List (Nat × List Byte)) : State :=
  if s.marks.isEmpty then { s with spad := ws.foldl (fun m w => m.splice w.1 w.2) s.spad }
  else ws.foldl (fun s w => spWrite s k w.1 w.2) s

/-- What an operation of group 0x3A reads. -/
def rillIn (s : State) (c : CtxId) (o : RillOp) : RillIn :=
  let e := match o.got with
    | some p => p
    | none => match o.entry with
      | some i => ((s.tiles.runnel[i]).data, (s.tiles.runnel[i]).int)
      | none => ([], false)
  { bank := s.bank c, spad := s.spad, entry := e.1, eInt := e.2 }

/-- The sources of an operation with their tags. -/
def RillOp.srcs (o : RillOp) : List (Word × Word) := [(o.s1, o.tag1), (o.s2, o.tag2), (o.s3, o.tag3)]

/-- Whether an operation of group 0x3A runs in the Cistern. -/
def isCistern (xop : Nat) : Bool := decide (0x48 ≤ xop) && decide (xop ≤ 0x4F)

/-- A completed operation has its counts still to apply, after those of the strand's earlier operations (R225). -/
def State.toTally (s : State) (id : Nat) (t : Tally) : State :=
  s.modTiles (fun q => { q with inflight := q.inflight.map (fun o =>
    if o.id == id then { o with unit := .imm, rd := [], wr := [], spRd := false, spWr := false, tags := [], body := .tally t } else o) })

/-- The writes and reports of a Rill operation: the summary at once, since the Rill completes in order, the counts in dispatch order. -/
def rillApply (s : State) (c : CtxId) (id : Nat) (o : RillOp) (bad : Bool) : State :=
  match rillCompute (rillIn s c o) s.free bad o with
  | none => s.dropOp id
  | some r =>
    let s0 : State := if r.freeUsed then { s with free := s.free + 2 } else s
    let s1 := writeRegs s0 c r.out.cells (match r.out.tag with | some t => [(t.1, w64 t.2)] | none => [])
    let s2 := writeSpad s1 c.k r.out.spad
    if r.sum then
      let reg := if locKind o.ld = 1 ∨ locKind o.ld = 2 then locReg o.ld else 0
      (summarise s2 c.k (o.modf.getLsbD 7) r.hasNf r.hasNan r.ns r.nf r.amax r.rowf).toTally id
        { ns := r.ns, nf := r.nf, ovf := true, op := 2, acc := locKind o.ld == 2, reg := reg, out := r.first, free := false, need := [] }
    else s2.dropOp id

/-- Set Cistern slot n of strand k. -/
def State.setSlot (s : State) (k : StrandId) (n : Nat) (v : Word) : State :=
  s.modStr k (fun t => { t with cslots := vupd t.cslots n (fun _ => v) })

/-- A Cistern slot with a parity error that an operation reads raises 0x30 on the slot's strand (Table 17-1).
[DESIGN CHOICE, log 46] -/
def slotMeet (s : State) (k : StrandId) (ns : List Nat) : State :=
  if s.marks.isEmpty then s
  else ns.foldl (fun s n =>
    let loc := 64 * k.val + n
    if (s.markAt 0x12 loc).isSome then consume30 (s.dropMark 0x12 loc) k 0x12 loc none else s) s

/-- The first slot of a Cistern operation. -/
def RillOp.base (o : RillOp) : Nat := bits o.modf.toNat 5 0

/-- The effect of a Cistern operation (R250, R251). -/
def cisternApply (s : State) (c : CtxId) (id : Nat) (o : RillOp) : State :=
  let k := c.k
  if o.xop = 0x4E then
    ((List.range o.n).foldl (fun s i =>
      let n := o.base + i
      let v := if locKind o.s1 = 5 then w64 (s.spad.getLE (locOff o.s1 + 8 * i) 8) else 0
      (s.dropMark 0x12 (64 * k.val + n)).setSlot k n v) s).dropOp id
  else if o.xop = 0x4F then
    let ns := (List.range o.n).map (· + o.base)
    let bs := ns.flatMap (fun n => toLE 8 ((s.str k).cslots.getD n 0).toNat)
    (writeSpad (slotMeet s k ns) k [(locOff o.ld, bs)]).dropOp id
  else
    let r := credCompute (rillIn s c o) o (s.str k).cslots
    let s0 := slotMeet s k (r.1.map (fun p => p.1))
    let s1 := r.1.foldl (fun s p => s.setSlot k p.1 (w64 (fld p.2.aux 32 + p.2.v))) s0
    let int : Bool := o.xop == 0x4D || (match readSrc (rillIn s c o) o o.s1 o.tag1.toNat with | some d => d.f.isInt | none => false)
    let nf := if int then none else r.1.find? (fun p => bits p.2.v 30 23 == 0xFF)
    s1.toTally id { ns := r.2.1, nf := r.2.2, ovf := true, op := 3, acc := false, reg := 0,
                    out := nf.map (fun p => (p.1, 0, decide (p.2.v % 2 ^ 23 ≠ 0))), free := false, need := [] }

/-! ### The dispatch-order view of tags (R144) -/

/-- The tag of register n that a tile instruction of context c dispatched now sees: that of the last dispatched operation that writes it. -/
def State.tagOf (s : State) (c : CtxId) (n : Nat) : Nat :=
  match s.tiles.inflight.reverse.findSome? (fun o =>
      if o.ctx == c then (o.tags.find? (fun t => t.1 == n)).map (fun t => t.2.toNat) else none) with
  | some t => t
  | none => tagIn (s.bank c) n

/-- Whether a dispatched operation of the strand is still to write the scratchpad: a read at dispatch waits for it (R139, R257). -/
def spWrites (s : State) (k : StrandId) : Bool := s.tiles.inflight.any (fun o => o.ctx.k == k && o.spWr)

/-! ### The Runnel (R174) -/

/-- Entries that strand t has reserved and not yet consumed. -/
def heldEntries (s : State) (t : StrandId) : Nat := (s.tiles.runnel.toList.filter (fun e => e.st != .free && e.owner.k == t)).length

/-- Entries reserved by no strand. -/
def freeEntries (s : State) : Nat := (s.tiles.runnel.toList.filter (fun e => e.st == .free)).length

/-- Whether strand k may reserve an entry. -/
def mayReserve (s : State) (k : StrandId) : Bool :=
  let others := ([0, 1, 2, 3] : List StrandId).filter (fun t => t != k)
  decide (0 < freeEntries s) &&
    (decide (heldEntries s k < 2) || decide ((others.map (fun t => 2 - heldEntries s t)).sum < freeEntries s))

/-- Reserve the lowest free entry for a context; int says what the retirement will write. -/
def reserveEntry (s : State) (c : CtxId) (int : Bool) : Option (Fin 8 × State) :=
  if mayReserve s c.k then
    match (List.finRange 8).find? (fun i => (s.tiles.runnel[i]).st == .free) with
    | none => none
    | some i => some (i, s.modTiles (fun t => { t with runnel := vmod t.runnel i (fun _ =>
        { RnEntry.zero with st := .reserved, owner := c, int := int, res := t.stamp }) }))
  else none

/-! ### Operations that no unit times: TZERO, TTAGW, and TRET's copy -/

/-- The copy of a retirement begins: its entry takes the accumulator and is FILLING (R172, Table 10-7). -/
def fillEntry (s : State) (c : CtxId) (p : TmmaOp) : State :=
  match p.entry with
  | some e =>
    (copyRunnel s c p).modTiles (fun t => { t with runnel := vmod t.runnel e (fun q => { q with st := .filling, drop := (s.tiles.runnel[e]).drop }) })
  | none => s

/-- Whether an operation counts on its strand (R224, R254); a member's gang TMMA counts on its master's (R184). -/
def TOp.counts (o : TOp) : Bool :=
  match o.body with
  | .tmma p => ! p.noPass && p.rowsA.isNone
  | .load p => p.w.kind == .split
  | .rill r => decide (r.xop < 0x20) || r.xop == 0x40 || (isCistern r.xop && decide (r.xop < 0x4E))
  | .tally _ => true
  | _ => false

/-- Whether the counts of an operation come next on its strand (R225). [DESIGN CHOICE, log 64] -/
def tallyNext (s : State) (o : TOp) : Bool :=
  (s.tiles.inflight.takeWhile (fun p => p.id != o.id)).all (fun p => ! (p.counts && p.ctx.k == o.ctx.k))

/-- Replace an operation. -/
def State.putOp (s : State) (o : TOp) : State :=
  s.modTiles (fun t => { t with inflight := t.inflight.map (fun q => if q.id == o.id then o else q) })

/-- The operations dispatched before o. -/
def State.earlier (s : State) (o : TOp) : List TOp := s.tiles.inflight.takeWhile (fun q => q.id != o.id)

/-- A member reserves the Runnel entry of a gang retirement for its lent context as soon as it may, in the order of its operations (R174,
R243). [DESIGN CHOICE, log 55] -/
def memberEntry (s : State) (o : TOp) (p : TmmaOp) : State :=
  let first := (s.earlier o).all (fun q => match q.body with | .tmma r => ! r.want | _ => true)
  match (if first then reserveEntry s o.ctx (tbit (s.tagOf o.ctx (16 + p.a.val)) 0) else none) with
  | none => s
  | some (e, s1) =>
    (s1.putOp { o with wr := o.wr ++ [32 + e.val], body := .tmma { p with entry := some e, want := false } }).modTiles
      (fun t => { t with stamp := t.stamp + 1 })

/-- Elements per row of a format class. -/
def classPerRow (shape : BitVec 2) (t : Nat) : Nat :=
  match tfmtOf (tagFmt t) with
  | some f => f.perRow (rowLen shape)
  | none => 0

/-- The place of an operand's scale array: offset and bytes (R138). -/
def scaleSpan (shape : BitVec 2) (tag : Nat) : Nat × Nat :=
  (64 * bits tag 37 22, if tagBs tag then scaleLen (bszOf (bits tag 10 9)) (classPerRow shape tag) (nRows shape) else 0)

/-- The scale array of an operand at its dispatch (R139). -/
def scaleBytes (s : State) (shape : BitVec 2) (tag : Nat) : List Byte := let r := scaleSpan shape tag; s.spad.dense r.1 r.2

/-- The scale arrays of tags are met: whether every word can be delivered. -/
def scaleMeet (s : State) (k : StrandId) (shape : BitVec 2) (tags : List Nat) : Bool × State :=
  tags.foldl (fun (a : Bool × State) t => let r := scaleSpan shape t; if a.1 then spMeet a.2 k r.1 r.2 else a) (true, s)

/-- A member reads the B scales of a gang TMMA from its own scratchpad once the earlier operations of its strand have written it (R139, R184); an
uncorrectable word there raises 0x30 on the lent context's strand, and the operation ends there. [DESIGN CHOICE, log 55] -/
def memberScales (s : State) (o : TOp) (p : TmmaOp) : State :=
  if (s.earlier o).any (fun q => q.ctx.k == o.ctx.k && q.spWr) then s
  else
    let m := scaleMeet s o.ctx.k p.shape [p.tagB.toNat]
    if m.1 then m.2.putOp { o with spRd := false, body := .tmma { p with scPend := false, scB := scaleBytes m.2 p.shape p.tagB.toNat } }
    else m.2.dropOp o.id

/-- Apply the operations that wait for nothing but earlier ones: TZERO, TTAGW and counts. A TRET begins its copy. -/
def settleOne (s : State) (o : TOp) : State :=
  match o.body with
  | .tally t => if t.need.isEmpty && tallyNext s o then (t.apply s o.ctx.k).dropOp o.id else s
  | .write cells => if s.blocked o then s else (writeRegs s o.ctx cells o.tags).dropOp o.id
  | .tmma p => if p.noPass && ! p.want && ! s.blocked o then (fillEntry s o.ctx p).dropOp o.id else s
  | _ => s

/-- What an operation of a member still has to reserve or to read (R174, R184). -/
def memberStep (s : State) (o : TOp) : State :=
  match o.body with
  | .tmma p => if p.want then memberEntry s o p else if p.scPend then memberScales s o p else s
  | _ => s

/-- Settle the operation of an id, if it is still dispatched: an entry that a member reserves and scales that it reads come first. -/
def settleId (s : State) (id : Nat) : State :=
  let at' := fun (f : State → TOp → State) (s : State) => match s.tiles.inflight.find? (fun o => o.id == id) with | some o => f s o | none => s
  at' settleOne (at' memberStep (at' memberStep s))

/-- Settle everything that can be settled, in dispatch order. -/
def settle (s : State) : State := (s.tiles.inflight.map (fun o => o.id)).foldl settleId s

/-! ### Chains of a context as far as tile work needs them (R263, R273, R275) -/

/-- Whether a chain is RUNNING or SUSPENDED. -/
def Chain.active (q : Chain) : Bool := q.st == .running || q.st == .suspended

/-- The chain of a context becomes ABORTED at its step with a reason; its pins are released and 0x1C is pending. -/
def failChain (s : State) (c : CtxId) (reason cause : Nat) (fa fad : Word) : State :=
  let s1 := s.modChain c (fun q => { q with st := .aborted, cause := 0x1C, rsn := BitVec.ofNat 8 reason, faddr := fad, record := none })
  addPendEv s1 c.k { num := 0x1C, fa := fa, info := BitVec.ofNat 16 (fld cause 8 + reason), rel := c.lv, src := .chain c, asid := 0 }

/-- The address of a chain's current step. -/
def Chain.stepAddr (q : Chain) : Word := q.paddr + w64 (16 * q.step)

/-! ### Waits of R147 step 4 -/

/-- Whether a context's dispatched work has completed: no operation in progress, no running chain, no Runnel entry that is still to be
consumed; an RDROP counts as the consumption of its entry (R245). [DESIGN CHOICE, log 65] -/
def State.ctxIdle (s : State) (c : CtxId) : Bool :=
  ! s.busyCtx (· == c) && (s.chainOf c).st != .running
    && s.tiles.runnel.all (fun e => e.owner != c || e.drop || e.st == .free)

/-- Whether the gang pins a context (R186). -/
def State.pinned (s : State) (c : CtxId) : Bool :=
  let g := s.tiles.tmu.gang
  (g.st == .lent || g.st == .master || g.st == .broken) && g.ctx == c

/-! ### How a dispatch ends -/

/-- A dispatch: done; an event of a check; an event of the reservation or claim, which no chain retries; held without a
switch case; held in the tile-wait case of Table 2-2. -/
inductive DRes where
  | ok (s : State)
  | event (e : Ev) (s : State)
  | early (e : Ev) (s : State)
  | wait (s : State)
  | tile (s : State)

/-- Go on after a dispatch step. -/
def DRes.bind (r : DRes) (f : State → DRes) : DRes :=
  match r with
  | .ok s => f s
  | r => r

/-- A strand's instruction: how its dispatch ends it. -/
def liftD (k : StrandId) : DRes → Res
  | .ok s => .done s
  | .event e s => .event e s
  | .early e s => .event e s
  | .wait s => .wait s
  | .tile s => .wait (s.modRun k (fun r => { r with cond := some .tile }))

/-- Illegal instruction, of a dispatch. -/
def dIll (s : State) : DRes := .event (mkEv 0x01 0 0 .ul) s

/-! ### Reservation and claim (R146, R147) -/

/-- Reserve a frame for a context in NONE (R146). -/
def reserve (s : State) (c : CtxId) : DRes :=
  if (s.ctxOf c).st = .none then
    let t := s.str c.k
    let top := t.g15 c.lv
    let low := top - w64 frameLen
    let fa := low &&& ~~~(0x3F : Word)
    if top.toNat < frameLen ∨ fa < t.stkLim c.lv then .early (mkEv 0x14 fa 0 .ul) s
    else
      match probe s (s.xctxAt c.k c.lv) .pstore fa frameLen false with
      | .fault e s1 => .early e s1
      | .check s1 => .wait s1
      | .ok _ s1 =>
        let s2 := s1.modStr c.k (fun t => t.setG15 c.lv fa)
        .ok (s2.modCtx c (fun x => { x with st := .cleared, fa := fa, pad := (low - fa).setWidth 6, att := false, pos := 0 }))
  else .ok s

/-- Ask for a bank for a context that holds none (R147); a context that is being saved asks for one again.
[DESIGN CHOICE, log 51] -/
def claimBank (s : State) (c : CtxId) : DRes :=
  if (s.ctxOf c).st = .resident then .ok s
  else if s.tiles.claims.contains c || (match s.tiles.claim with | some q => q.ctx == c | none => false) then .tile s
  else .tile (s.modTiles (fun t => { t with claims := t.claims ++ [c] }))

/-- The reservation and the claim of a tile instruction. -/
def prepare (s : State) (c : CtxId) : DRes := (reserve s c).bind (fun s => claimBank s c)

/-- Whether the member's own strands may not use the lent context (R186). -/
def State.lentHold (s : State) (c : CtxId) : Bool := s.tiles.tmu.gang.st == .lent && s.tiles.tmu.gang.ctx == c

/-- The last tile instruction of a context gets the next stamp; what a save had written of its frame is old.
[DESIGN CHOICE, log 51] -/
def State.stampCtx (s : State) (c : CtxId) : State :=
  (s.modCtx c (fun x => { x with last := s.tiles.stamp, pos := 0 })).modTiles (fun t => { t with stamp := t.stamp + 1 })

/-- Dispatch an operation of a context; one that names a tile register or accumulator, and every operation of a chain, is a tile instruction
(R143, R144). -/
def dispatch (s : State) (c : CtxId) (unit : TUnit) (rd wr : List Nat) (spRd spWr : Bool) (tags : List (Nat × Word)) (chain : Bool)
    (body : TBody) : State :=
  let o : TOp :=
    { id := s.tiles.stamp, ctx := c, unit := unit, rd := rd, wr := wr, spRd := spRd, spWr := spWr, tags := tags, chain := chain,
      body := body }
  let s1 := if chain || (rd ++ wr).any (fun n => decide (n < 20)) then s.stampCtx c else s.modTiles (fun t => { t with stamp := t.stamp + 1 })
  settle (s1.modTiles (fun t => { t with inflight := t.inflight ++ [o] }))

/-- The frame of a tile instruction of the strand: its decode checks, the waits of R273, R409, R186 and of a gang that is
forming, the reservation and the claim, then its own checks and effect. -/
def tileI (s : State) (barred : Bool) (ok : Strand → Bool) (body : CtxId → State → DRes) : Out :=
  .next (instr 8 false barred s (fun k s =>
    if ! ok (s.str k) then illegal s
    else
      let c : CtxId := { k := k, lv := (s.str k).status.lvl }
      if (s.chainOf c).active || s.ckHold || s.tiles.tmu.gang.forming.isSome then .wait s
      else if s.lentHold c then liftD k (.tile s)
      else liftD k ((prepare s c).bind (body c))))

/-- The frame of a context instruction: decode checks, privilege, then its effect on the context of the level it names. -/
def ctxI (s : State) (barred : Bool) (lv : BitVec 2) (ok : Strand → Bool) (body : CtxId → State → DRes) : Out :=
  .next (instr 8 false barred s (fun k s =>
    if ! lvOk lv || ! ok (s.str k) then illegal s
    else if (s.str k).status.lvl.below (lvlOf lv.toNat) then privileged s
    else if s.ckHold then .wait s
    else liftD k (body { k := k, lv := lvlOf lv.toNat } s)))

/-! ### Pieces that the block's engines move (Table 13-2) -/

/-- How an engine's access ends: its bytes; an event; a line it waits for; a machine check pending and nothing moved. -/
inductive MvR where
  | ok (b : List Byte) (s : State)
  | fault (e : Ev) (s : State)
  | wait (s : State)
  | check (s : State)

/-- What an engine has read of a piece: free values in a frame whose contents are unpredictable (R150), but for the save and the restore themselves,
which are access 1. [DESIGN CHOICE, log 47] -/
def MvR.saw (g : Ag) (p : MvPiece) : MvR → MvR
  | .ok b s => if g.id = 1 then .ok b s else let q := frameLoad s g.k p.va b; .ok q.1 q.2
  | r => r

/-- What an engine's write of a piece does to the contexts whose frames it touches (R150). [DESIGN CHOICE, log 47] -/
def MvR.wrote (g : Ag) (p : MvPiece) : MvR → MvR
  | .ok b s => if g.id = 1 then .ok b s else .ok b (frameStore s g.k p.va p.n)
  | r => r

/-- Read a piece for an engine. What is neither the scratchpad nor Normal memory is read at the near port, whose answer is awaited; a chain
program, which is read again from its start when a line is still to come, keeps what has come (R306, R466). [DESIGN CHOICE, log 134]
[DESIGN CHOICE, log 140] -/
def mvRead (s : State) (g : Ag) (p : MvPiece) : MvR :=
  let port := fun (_ : Unit) =>
    match askPort s (.move g) p.a p.n false (g.id == 2) with
    | .wait s1 => MvR.wait s1
    | .got bad err s1 => if bad || err then .check (consume30 s1 g.k 0x15 (line128 p.a) (some p.a)) else .ok (s1.near.dense p.a p.n) s1
  MvR.saw g p (match p.pl with
  | .sp => let m := spMeet s g.k p.a p.n; if m.1 then .ok (m.2.spad.dense p.a p.n) m.2 else .check m.2
  | .mem =>
    match readUse s g p.a p.n false with
    | .hit s1 => .ok (s1.near.dense p.a p.n) s1
    | .wait s1 _ => .wait s1
    | .check s1 => .check s1
  | .unc => port ()
  | .dev => port ())

/-- Write a piece for an engine. [DESIGN CHOICE, log 134] -/
def mvWrite (s : State) (g : Ag) (p : MvPiece) (bs : List Byte) : MvR :=
  MvR.wrote g p (match p.pl with
  | .sp => .ok [] (writeSpad s g.k [(p.a, bs)])
  | .mem =>
    match writeUse s g p.a bs with
    | .hit s1 => .ok [] s1
    | .wait s1 _ => .wait s1
    | .check s1 => .check s1
  | .unc => .ok [] (portStore g.k [(p.a, bs)] false false s)
  | .dev => .ok [] (portStore g.k [(p.a, bs)] true true s))

/-- The kind of place of a translated segment. -/
def MType.pl : MType → PlKind
  | .normal => .mem
  | .uncached => .unc
  | .device => .dev

/-- Whether a machine check of strand k was raised between two states. -/
def checkedIn (s0 s1 : State) (k : StrandId) : Bool := decide ((s0.str k).run.mchk.length < (s1.str k).run.mchk.length)

/-- The place of n bytes at va, within one 128-byte line, as an access of context x. -/
def engPlace (s : State) (x : XCtx) (kind : AK) (va : Word) (n : Nat) : Except MvR (MvPiece × State) :=
  if isWin va then
    if va.toNat + n ≤ spw + s.spadSize then .ok ({ pl := .sp, a := va.toNat - spw, n := n, va := va.toNat }, s)
    else .error (.fault (mkEv 0x0D (w64 (max va.toNat (spw + s.spadSize))) 0 .ul) s)
  else
    match translate s x kind va with
    | .ok pa t s1 => .ok ({ pl := t.pl, a := pa, n := n, va := va.toNat }, s1)
    | .fault e s1 => .error (.fault e s1)
    | .check s1 => .error (if checkedIn s s1 x.k then .check s1 else .wait s1)

/-- Read n bytes at va, within one line, as engine access id of the context's strand. -/
def engRead (s : State) (x : XCtx) (id : Nat) (va : Word) (n : Nat) : MvR :=
  match engPlace s x .load va n with
  | .error r => r
  | .ok (p, s1) => mvRead s1 { k := x.k, id := id } p

/-- Write bytes at va, within one line. -/
def engWrite (s : State) (x : XCtx) (id : Nat) (kind : AK) (va : Word) (bs : List Byte) : MvR :=
  match engPlace s x kind va bs.length with
  | .error r => r
  | .ok (p, s1) => mvWrite s1 { k := x.k, id := id } p bs

/-- What the near port has answered an engine access is forgotten. -/
def MvR.ended (g : Ag) : MvR → MvR
  | .ok b s => .ok b (dropReads s (.move g))
  | .fault e s => .fault e (dropReads s (.move g))
  | .check s => .check (dropReads s (.move g))
  | .wait s => .wait s

/-- Read a range cut into lines for a chain of the context's strand; every read is made again when one of them waits. -/
def engReadAll (x : XCtx) : List (Nat × Nat) → List Byte → State → MvR
  | [], acc, s => MvR.ended { k := x.k, id := 2 } (.ok acc s)
  | (va, n) :: r, acc, s =>
    match engRead s x 2 (w64 va) n with
    | .ok b s1 => engReadAll x r (acc ++ b) s1
    | q => q.ended { k := x.k, id := 2 }

/-! ### Save and restore (R148, R149) -/

/-- The 256 header bytes of a frame (Table 6-8). -/
def frameHeader (b : Mem) (c : CtxId) (shape : BitVec 2) : List Byte :=
  toLE 8 (fld 1 56 + fld shape.toNat 48 + fld c.lv.code 40 + fld c.k.val 32) ++ toLE 56 0 ++ b.dense 0x40 0x20 ++ toLE 32 0
    ++ b.dense 0x80 0x80

/-- The parts of a frame that a geometry has, adjoining ones as one: offset and bytes. -/
def frameRuns (shape : BitVec 2) : List (Nat × Nat) :=
  ((0, 256) :: (regNums shape).map (fun n => (regOff n, regLen shape n))).foldr (fun p acc =>
    match acc with
    | q :: r => if p.1 + p.2 = q.1 then (p.1, p.2 + q.2) :: r else p :: acc
    | [] => [p]) []

/-- The pieces of a frame at fa, cut where lines begin: offset and bytes. -/
def frameCuts (fa : Word) (shape : BitVec 2) : List (Nat × Nat) :=
  (frameRuns shape).flatMap (fun r => (cutAt 128 (r.2 / 128 + 2) (fa.toNat + r.1) r.2).map (fun c => (c.1 - fa.toNat, c.2)))

/-- The bytes of a frame from offset off, header first. -/
def frameBytes (h : List Byte) (b : Mem) (off n : Nat) : List Byte :=
  if off < 0x100 then ((h ++ b.dense 0x100 (off + n - 0x100)).drop off).take n else b.dense off n

/-- Write the pieces of a frame in order, as stores (R331, R334); what was written before a fault remains. -/
def saveGo (c : CtxId) (x : XCtx) (fa : Word) (h : List Byte) (b : Mem) : List (Nat × Nat) → State → MvR
  | [], s => .ok [] s
  | (off, n) :: r, s =>
    match engWrite s x 1 .store (fa + w64 off) (frameBytes h b off n) with
    | .ok _ s1 => saveGo c x fa h b r (s1.modCtx c (fun q => { q with pos := q.pos + 1 }))
    | q => q

/-- Save a context into its frame, from where the save stands (R148); a parity error in the bank raises 0x31 and the bytes are written
as read. [DESIGN CHOICE, log 47] -/
def saveCtx (s : State) (c : CtxId) : MvR :=
  let shape := (s.str c.k).num.tshape
  let fa := (s.ctxOf c).fa
  let b := s.bank c
  match saveGo c (s.xctxAt c.k c.lv) fa (frameHeader b c shape) b ((frameCuts fa shape).drop (s.ctxOf c).pos) s with
  | .ok _ s1 =>
    .ok [] (match s1.parAt (s1.ctxOf c).bank (regNums shape) 64 with
      | some h => tilePar s1 c.k h
      | none => s1)
  | r => r

/-- Free the bank that a context holds and give the context a state. FA, PAD and ATT stay readable in TBANK, for a context in NONE too.
[DESIGN CHOICE, log 133] -/
def leaveBank (s : State) (c : CtxId) (st : CtxSt) : State :=
  let s1 := s.modTiles (fun t => { t with banks := t.banks.map (fun b => if b.owner = some c then { owner := none, cells := [] } else b) })
  s1.modCtx c (fun x => { x with st := st, pos := 0 })

/-- Give a bank to a context, with its contents. -/
def takeBank (s : State) (c : CtxId) (b : Fin 2) (cells : Mem) : State :=
  (s.modTiles (fun t => { t with banks := vmod t.banks b (fun _ => { owner := some c, cells := cells }) })).modCtx c
    (fun x => { x with st := .resident, bank := b, pos := 0 })

/-- Read the pieces of a frame into bank b as they come. -/
def loadGo (c : CtxId) (x : XCtx) (fa : Word) (b : Fin 2) : List (Nat × Nat) → State → MvR
  | [], s => .ok [] s
  | (off, n) :: r, s =>
    match engRead s x 1 (fa + w64 off) n with
    | .ok bs s1 =>
      let s2 := s1.modTiles (fun t => { t with banks := vmod t.banks b (fun q => { q with cells := q.cells.splice off bs }) })
      loadGo c x fa b r (s2.modCtx c (fun q => { q with pos := q.pos + 1 }))
    | q => q

/-- Read a context's frame into bank b, from where the restore stands (R149); the bank then holds what the frame restores.
[DESIGN CHOICE, log 47] -/
def loadFrame (s : State) (c : CtxId) (b : Fin 2) : MvR :=
  let shape := (s.str c.k).num.tshape
  let fa := (s.ctxOf c).fa
  match loadGo c (s.xctxAt c.k c.lv) fa b ((frameCuts fa shape).drop (s.ctxOf c).pos) s with
  | .ok _ s1 => .ok [] (takeBank s1 c b (restoreCells (s1.tiles.banks[b]).cells shape))
  | r => r

end Sys2Proof.Machine
end

