-- ==== Sys2Proof/Machine/Tile.lean ====
section
/-! DEFINITION. Tile loads and stores, tags, contexts, and the claim of a bank (06). -/

namespace Sys2Proof.Machine

open Sys2Proof

/-! ### Rows of a tile load or store (R140, R141) -/

/-- A row to be moved: its address and how many bytes of it. -/
structure Row where
  ea : Word
  len : Nat
  deriving DecidableEq, Repr

/-- A failure of a row: its address, whether it is a row check of R140, and its event. -/
structure RowFail where
  addr : Nat
  row : Bool
  ev : Ev

/-- What the checks of the rows so far have found. -/
structure RowAcc where
  s : State
  places : List MvPiece
  fail : Option RowFail
  check : Bool

/-- The lower of two failures; at one address a translation or permission cause goes first (R141). -/
def lowerFail (a b : Option RowFail) : Option RowFail :=
  match a, b with
  | none, b => b
  | a, none => a
  | some f, some g => if g.addr < f.addr ∨ (g.addr = f.addr ∧ f.row ∧ ! g.row) then some g else some f

/-- A failure of R140 at a row. -/
def rowFail (ea : Word) : RowFail := { addr := ea.toNat, row := true, ev := mkEv 0x0D ea 0 .ul }

/-- The pieces of the physical segments of a row at va. -/
def rowPieces : Nat → List Seg → List MvPiece
  | _, [] => []
  | va, p :: r =>
    (cutAt 128 (p.n / 128 + 2) p.pa p.n).map (fun c => { pl := p.t.pl, a := c.1, n := c.2, va := va + (c.1 - p.pa) }) ++ rowPieces (va + p.n) r

/-- Check one row: a row that fails has no place. The near bytes of a row that fails R140 are translated too, up to the window or far space. -/
def checkRow (x : XCtx) (kind : AK) (w0 : Bool) (a : RowAcc) (r : Row) : RowAcc :=
  if a.check then a
  else
    let s := a.s
    let bad := r.ea.getLsbD 63 || decide (2 ^ 63 < r.ea.toNat + r.len) || winPart r.ea r.len || isWin r.ea != w0
    if bad && (r.ea.getLsbD 63 || isWin r.ea) then { a with fail := lowerFail a.fail (some (rowFail r.ea)) }
    else if bad then
      let n := if r.ea.toNat < spw then min r.len (spw - r.ea.toNat) else min r.len (2 ^ 63 - r.ea.toNat)
      match (probeSegs x kind true (segs r.ea.toNat n) [] s).1 with
      | .fault e s1 => { a with s := s1, fail := lowerFail a.fail (lowerFail (some { addr := e.fa.toNat, row := false, ev := e }) (some (rowFail r.ea))) }
      | .check s1 => { a with s := s1, check := true }
      | .ok _ s1 => { a with s := s1, fail := lowerFail a.fail (some (rowFail r.ea)) }
    else if isWin r.ea then
      let o := r.ea.toNat - spw
      if o + r.len ≤ s.spadSize then { a with places := a.places ++ [{ pl := .sp, a := o, n := r.len, va := r.ea.toNat }] }
      else
        let va := max r.ea.toNat (spw + s.spadSize)
        { a with fail := lowerFail a.fail (some { addr := va, row := false, ev := mkEv 0x0D (w64 va) 0 .ul }) }
    else
      match probeSegs x kind true (segs r.ea.toNat r.len) [] s with
      | (.fault e s1, ps) =>
        let dev := ps.any (fun p => p.t == .device)
        let f := lowerFail (some { addr := e.fa.toNat, row := false, ev := e }) (if dev then some (rowFail r.ea) else none)
        { a with s := s1, fail := lowerFail a.fail f }
      | (.check s1, _) => { a with s := s1, check := true }
      | (.ok _ s1, ps) =>
        if ps.any (fun p => p.t == .device) then { a with s := s1, fail := lowerFail a.fail (some (rowFail r.ea)) }
        else { a with s := s1, places := a.places ++ rowPieces r.ea.toNat ps }

/-- How the checks of all rows end. -/
inductive RowsRes where
  | ok (ps : List MvPiece) (s : State)
  | fault (e : Ev) (s : State)
  | check (s : State)

/-- Check every row before any byte is read or written (R141). -/
def checkRows (s : State) (x : XCtx) (kind : AK) (rows : List Row) : RowsRes :=
  match rows with
  | [] => .ok [] s
  | r0 :: _ =>
    let a := rows.foldl (checkRow x kind (isWin r0.ea)) { s := s, places := [], fail := none, check := false }
    if a.check then .check a.s
    else match a.fail with
      | some f => .fault f.ev a.s
      | none => .ok a.places a.s

/-- The rows of a move: base, stride and bytes of each (R140). -/
def moveRows (rb st : Word) (lens : List Nat) : List Row :=
  (lens.zipIdx.map (fun (p : Nat × Nat) => ({ ea := rb + st * w64 p.2, len := p.1 } : Row))).filter (fun r => r.len != 0)

/-! ### The checks and effects of the moves, for strands and chain steps -/

/-- The parameters of a move: its context, base, stride, and the in-range elements and rows of a chain's view; fill is the
code of positions out of range. -/
structure Move where
  c : CtxId
  rb : Word
  st : Word
  els : Nat
  rows : Nat
  fill : Nat
  chain : Bool

/-- Whether fields of a tag break R137 for a strand's TSHAPE. -/
def tagBad (s : State) (shape : BitVec 2) (fmt : Nat) (bs : Bool) (bsz : Nat) (bdir : Bool) (soff : Nat) : Bool :=
  match tfmtOf fmt with
  | none => true
  | some f =>
    fmt == 0xB || (bs && f.bsNever) || (! bs && f.bsReq) ||
      (bs && (decide ((if bdir then nRows shape else f.perRow (rowLen shape)) < bszOf bsz)
        || decide (s.spadSize < 64 * soff + scaleLen (bszOf bsz) (f.perRow (rowLen shape)) (nRows shape))))

/-- A TTAG (Table 6-3). -/
def mkTtag (fmt : Nat) (bs : Bool) (bsz : Nat) (bdir : Bool) (soff : Nat) : Word :=
  w64 (fld soff 22 + fld (bit bdir) 11 + fld bsz 9 + fld (bit bs) 8 + fmt)

/-- Alignment of the base and the stride (R140). -/
def moveAligned (m : Move) : Bool := m.rb.toNat % 16 == 0 && m.st.toNat % 16 == 0

/-- The rows of codes of a load: in-range codes read, the others the fill code; e elements per row, r rows. -/
def fillRows (f : TFmt) (e r els : Nat) (fill : Nat) (rows : List (List Byte)) : List (List Nat) :=
  (List.range r).map (fun i =>
    match rows[i]? with
    | some b => unpackMem f els b ++ List.replicate (e - els) (fill % 2 ^ f.bits)
    | none => List.replicate e (fill % 2 ^ f.bits))

/-- Whether a move's pieces lie in the scratchpad. -/
def inSpad (ps : List MvPiece) : Bool := ps.any (fun p => p.pl == .sp)

/-- The registers of a move's words; the second register of a TLD.X is the next one. -/
def moveRegs (w : MvWords) : List Nat := if w.kind = .split then [w.reg, w.reg + 1] else [w.reg]

/-- The tags that a load leaves. -/
def moveTags (w : MvWords) : List (Nat × Word) :=
  if w.kind = .split then [(w.reg, w64 0x04), (w.reg + 1, w64 0x14)] else [(w.reg, w.tag)]

/-- Dispatch a move whose rows have passed their checks; scales are what a chain copies out after a store. -/
def dispatchMove (s : State) (c : CtxId) (w : MvWords) (chain : Bool) (scales : List (Nat × MvPiece)) : State :=
  if w.store then
    dispatch s c .move (moveRegs w) [] (! scales.isEmpty) (inSpad w.pieces) [] chain (.store { w := w, todo := w.pieces, data := none, scales := scales })
  else dispatch s c .move [] (moveRegs w) (inSpad w.pieces) false (moveTags w) chain (.load { w := w, todo := w.pieces, got := [] })

/-- The checks of a move's base, stride and rows (R140, R141); then the move. -/
def moveTail (s : State) (m : Move) (kind : AK) (rowBytes : Nat) (body : List MvPiece → State → DRes) : DRes :=
  if ! moveAligned m then .event (mkEv 0x0D m.rb 0 .ul) s
  else
    match checkRows s (s.xctxAt m.c.k m.c.lv) kind (moveRows m.rb m.st (List.replicate m.rows rowBytes)) with
    | .fault e s1 => .event e s1
    | .check s1 => .wait s1
    | .ok ps s1 => body ps s1

/-- The words of a move. -/
def mvWords (s : State) (m : Move) (store : Bool) (kind : MvKind) (reg fmt : Nat) (tag : Word) (ps : List MvPiece) : MvWords :=
  { gang := false, store := store, kind := kind, reg := reg, tag := tag, fmt := fmt, shape := (s.str m.c.k).num.tshape, els := m.els, rows := m.rows,
    fill := m.fill, pieces := ps }

/-- Bytes of a row of a move: els elements in the memory form of fmt, or of 32 bits. -/
def rowBytes (kind : MvKind) (fmt els : Nat) : Nat :=
  match kind with
  | .tile => (els * ((tfmtOf fmt).elim 8 (fun f => f.bits)) + 7) / 8
  | _ => 4 * els

/-- TLD: fmt, block-scale fields and SOFF are those of the new tag (R137, R140). [DESIGN CHOICE, log 49] -/
def doTld (s : State) (m : Move) (t : Nat) (fmt : Nat) (bs : Bool) (bsz : Nat) (bdir : Bool) (soff : Nat) : DRes :=
  if fmt = 0x4 ∨ tagBad s (s.str m.c.k).num.tshape fmt bs bsz bdir soff then dIll s
  else
    moveTail s m .load (rowBytes .tile fmt m.els) (fun ps s1 =>
      .ok (dispatchMove s1 m.c (mvWords s1 m false .tile t fmt (mkTtag fmt bs bsz bdir soff) ps) m.chain []))

/-- TLD.X (R170): 2L bytes of binary32 per row into t and t + 1. -/
def doTldX (s : State) (m : Move) (t : Nat) : DRes :=
  moveTail s m .load (4 * m.els) (fun ps s1 => .ok (dispatchMove s1 m.c (mvWords s1 m false .split t 0x4 0 ps) m.chain []))

/-- TLDA. [DESIGN CHOICE, log 49] -/
def doTlda (s : State) (m : Move) (a : Nat) (int : Bool) : DRes :=
  moveTail s m .load (4 * m.els) (fun ps s1 =>
    .ok (dispatchMove s1 m.c (mvWords s1 m false .acc (16 + a) 0 (w64 (bit int)) ps) m.chain []))

/-- TST: t in the memory form of its FMT; a chain's scale bytes follow. -/
def doTst (s : State) (m : Move) (t : Nat) (scales : List (Nat × MvPiece)) : DRes :=
  let fmt := tagFmt (s.tagOf m.c t)
  if (tfmtOf fmt).isNone then dIll s
  else
    moveTail s m .store (rowBytes .tile fmt m.els) (fun ps s1 =>
      .ok (dispatchMove s1 m.c (mvWords s1 m true .tile t fmt 0 ps) m.chain scales))

/-- TSTA. -/
def doTsta (s : State) (m : Move) (a : Nat) : DRes :=
  moveTail s m .store (4 * m.els) (fun ps s1 => .ok (dispatchMove s1 m.c (mvWords s1 m true .acc (16 + a) 0 0 ps) m.chain []))

/-! ### Decode checks (R21, R146) -/

/-- Whether the geometry has tile register t. -/
def tOk (st : Strand) (t : Nat) : Bool := decide (t < nTiles st.num.tshape)
/-- Whether the geometry has accumulator a. -/
def aOk (st : Strand) (a : Nat) : Bool := decide (a < nAccs st.num.tshape)

/-- A whole move of a strand's instruction: stride from rs, or the row length when rs is g0. -/
def wholeMove (s : State) (c : CtxId) (rb rs : RSpec) (els rowBytes : Nat) : Move :=
  let t := s.str c.k
  { c := c, rb := t.x rb, st := if rs.toNat = 0 then w64 rowBytes else t.x rs, els := els, rows := nRows t.num.tshape, fill := 0,
    chain := false }

/-- Elements per row of a tile register of a format code under a strand's geometry. -/
def elsOf (s : State) (c : CtxId) (fmt : Nat) : Nat :=
  match tfmtOf fmt with
  | some f => f.perRow (rowLen (s.str c.k).num.tshape)
  | none => 0

/-- Memory bytes per row of a format code. -/
def memRowOf (s : State) (c : CtxId) (fmt : Nat) : Nat :=
  match tfmtOf fmt with
  | some f => f.memRow (rowLen (s.str c.k).num.tshape)
  | none => 0

/-! ### The move instructions -/

def execTld (t : BitVec 4) (rb rs : RSpec) (fmt : BitVec 4) (bs : Bool) (bsz : BitVec 2) (bdir : Bool) (soff : BitVec 16) (s : State) : Out :=
  tileI s true (fun st => xOk rb && xOk rs && tOk st t.toNat) (fun c s =>
    doTld s (wholeMove s c rb rs (elsOf s c fmt.toNat) (memRowOf s c fmt.toNat)) t.toNat fmt.toNat bs bsz.toNat bdir soff.toNat)

def execTst (t : BitVec 4) (rb rs : RSpec) (s : State) : Out :=
  tileI s true (fun st => xOk rb && xOk rs && tOk st t.toNat) (fun c s =>
    let fmt := tagFmt (s.tagOf c t.toNat)
    doTst s (wholeMove s c rb rs (elsOf s c fmt) (memRowOf s c fmt)) t.toNat [])

def execTldX (t : BitVec 4) (rb rs : RSpec) (s : State) : Out :=
  tileI s true (fun st => xOk rb && xOk rs && tOk st t.toNat && t.toNat % 2 == 0) (fun c s =>
    let l := rowLen (s.str c.k).num.tshape
    doTldX s (wholeMove s c rb rs (l / 2) (2 * l)) t.toNat)

def execTlda (a : BitVec 2) (rb rs : RSpec) (int : Bool) (s : State) : Out :=
  tileI s true (fun st => xOk rb && xOk rs && aOk st a.toNat) (fun c s =>
    let n := accCols (s.str c.k).num.tshape
    doTlda s (wholeMove s c rb rs n (4 * n)) a.toNat int)

def execTsta (a : BitVec 2) (rb rs : RSpec) (s : State) : Out :=
  tileI s true (fun st => xOk rb && xOk rs && aOk st a.toNat) (fun c s =>
    let n := accCols (s.str c.k).num.tshape
    doTsta s (wholeMove s c rb rs n (4 * n)) a.toNat)

/-! ### Registers and tags -/

/-- A register number with its ACC bit: decode check and number. -/
def regOk (st : Strand) (n : BitVec 4) (acc : Bool) : Bool := if acc then aOk st n.toNat else tOk st n.toNat
/-- The register number that n and ACC name. -/
def regNo (n : BitVec 4) (acc : Bool) : Nat := if acc then 16 + n.toNat else n.toNat

/-- TZERO of register r. -/
def doTzero (s : State) (c : CtxId) (r : Nat) (chain : Bool) : DRes :=
  let len := regLen (s.str c.k).num.tshape r
  .ok (dispatch s c .imm [] [r] false false [(r, 0)] chain (.write [(regOff r, List.replicate len 0)]))

def execTzero (n : BitVec 4) (acc : Bool) (s : State) : Out :=
  tileI s true (fun st => regOk st n acc) (fun c s => doTzero s c (regNo n acc) false)

def execTtagw (n : BitVec 4) (acc : Bool) (rs1 : RSpec) (s : State) : Out :=
  tileI s true (fun st => regOk st n acc && xOk rs1) (fun c s =>
    let st := s.str c.k
    let w := (st.x rs1).toNat
    let r := regNo n acc
    let put := fun (v : Word) => DRes.ok (dispatch s c .imm [] [r] false false [(r, v)] false (.write []))
    if acc then put (w64 (w % 2))
    else if tagBad s st.num.tshape (tagFmt w) (tagBs w) (bits w 10 9) (tbit w 11) (bits w 37 22) then dIll s
    else put (w64 (restoreTag 0 w)))

def execTtagr (rd : RSpec) (n : BitVec 4) (acc : Bool) (s : State) : Out :=
  tileI s false (fun st => regOk st n acc && xOk rd) (fun c s =>
    let r := regNo n acc
    if s.tiles.inflight.any (fun o => o.ctx == c && o.tags.any (fun t => t.1 == r)) then .wait s
    else .ok (((s.stampCtx c)).setX c.k rd (w64 (tagIn (s.bank c) r))))

/-! ### Context instructions (R155 to R159) -/

/-- TSAVE, TDET, TREL and TATT of a pinned context raise the gang fault with reason 0x9 (R186). -/
def pinCheck (s : State) (c : CtxId) (f : State → DRes) : DRes :=
  if s.pinned c then .event (mkEv 0x1E 0 0x9 .ul) s else f s

/-- Whether the claim in progress is for, or saves, context c. -/
def State.claiming (s : State) (c : CtxId) : Bool :=
  match s.tiles.claim with
  | none => false
  | some q => q.ctx == c || (match q.ph with | .saving v => v == c | _ => false)

/-- TSAVE of a context in any state but RESIDENT has no effect (R155). -/
def execTsave (lv : BitVec 2) (s : State) : Out :=
  ctxI s true lv (fun _ => true) (fun c s => pinCheck s c (fun s =>
    if (s.ctxOf c).st ≠ .resident then .ok s
    else if ! s.ctxIdle c then .wait s
    else match saveCtx s c with
      | .ok _ s1 => .ok (leaveBank s1 c .saved)
      | .fault e s1 => .event e (s1.modCtx c (fun x => { x with pos := 0 }))
      | .wait s1 => .wait s1
      | .check s1 => .wait s1))

/-- TDET and TREL: the chain that the context started is killed (R278), then the waits of step 4 of R147, then the context is NONE and no claim
for it waits. -/
def dropCtx (s : State) (c : CtxId) (f : State → State) : DRes :=
  let q := killChain s c
  if ! q.1 || ! q.2.ctxIdle c || q.2.claiming c then .wait q.2
  else .ok (f ((leaveBank q.2 c .none).modTiles (fun t => { t with claims := t.claims.filter (· != c) })))

/-- [DESIGN CHOICE, log 133] -/
def execTdet (lv : BitVec 2) (s : State) : Out :=
  ctxI s true lv (fun _ => true) (fun c s => pinCheck s c (fun s => dropCtx s c id))

def execTatt (lv : BitVec 2) (rs1 : RSpec) (s : State) : Out :=
  ctxI s true lv (fun _ => xOk rs1) (fun c s => pinCheck s c (fun s =>
    let fa := (s.str c.k).x rs1
    if (s.ctxOf c).st ≠ .none then dIll s
    else if fa.toNat % 64 ≠ 0 then .event (mkEv 0x0D fa 0 .ul) s
    else match probe s (s.xctxAt c.k c.lv) .pstore fa frameLen false with
      | .fault e s1 => .event e s1
      | .check s1 => .wait s1
      | .ok _ s1 => .ok (s1.modCtx c (fun x => { x with st := .saved, fa := fa, pad := 0, att := true, pos := 0 }))))

/-- [DESIGN CHOICE, log 133] -/
def execTrel (s : State) : Out :=
  .next (instr 8 false true s (fun k s =>
    let c : CtxId := { k := k, lv := (s.str k).status.lvl }
    if s.ckHold then .wait s
    else liftD k (pinCheck s c (fun s =>
      let x := s.ctxOf c
      if x.st = .none then .ok s
      else if x.att || (s.str k).g15 c.lv != x.fa then dIll s
      else dropCtx s c (fun s => s.modStr k (fun t => t.setG15 c.lv (x.fa + w64 (frameLen + x.pad.toNat))))))))

/-- The state code of Table 6-7. -/
def CtxSt.code : CtxSt → Nat
  | .none => 0
  | .cleared => 1
  | .resident => 2
  | .saved => 3
  | .saving => 4
  | .restoring => 5

/-- What TINFO returns for a context (R159). -/
def tinfoWord (x : Ctx) : Word :=
  if x.st = .none then 0
  else (x.fa &&& ~~~(0x3F : Word)) ||| w64 (fld (bit x.att) 5 + fld (if x.st = .resident then x.bank.val else 0) 3 + x.st.code)

def execTinfo (rd : RSpec) (lv : BitVec 2) (s : State) : Out :=
  ctxI s false lv (fun _ => xOk rd) (fun c s => .ok (s.setX c.k rd (tinfoWord (s.ctxOf c))))

/-! ### Claims (R147 to R149) -/

/-- Banks that exist. -/
def State.bankIds (s : State) : List (Fin 2) := if s.hw.lean then [0] else [0, 1]

/-- The bank that a claim takes: a free one, else the victim's. [DESIGN CHOICE, log 51] -/
def pickBank (s : State) (c : CtxId) : Option (Fin 2 × Option CtxId) :=
  match s.bankIds.find? (fun b => (s.tiles.banks[b]).owner.isNone) with
  | some b => some (b, none)
  | none =>
    let held := s.bankIds.filterMap (fun b => (s.tiles.banks[b]).owner.map (fun o => (b, o)))
    let free := held.filter (fun p => ! s.pinned p.2)
    let mine := free.filter (fun p => p.2.k == c.k)
    let cand := if mine.isEmpty then free else mine
    match cand with
    | [] => none
    | p :: r =>
      let v := r.foldl (fun (a : Fin 2 × CtxId) q => if (s.ctxOf q.2).last < (s.ctxOf a.2).last then q else a) p
      some (v.1, some v.2)

/-- The bank is ready for the claimant: zeroing for a CLEARED one, restoring for a SAVED one. [DESIGN CHOICE, log 48] -/
def beginFill (s : State) (c : CtxId) (b : Fin 2) : State :=
  if (s.ctxOf c).st = .saved then
    ((s.modTiles (fun t => { t with banks := vmod t.banks b (fun _ => { owner := some c, cells := [] }) })).modCtx c (fun x => { x with st := .restoring, bank := b, pos := 0 })).modTiles (fun t => { t with claim := some { ctx := c, bank := b, ph := .restoring } })
  else s.modTiles (fun t => { t with claim := some { ctx := c, bank := b, ph := .zeroing } })

/-- Wake a context's strand from its tile wait. -/
def wakeTile (s : State) (c : CtxId) : State := if (s.str c.k).run.cond = some .tile then readyStrand s c.k else s

/-- The claim in progress ends; its moves of a frame wait for no line any more. -/
def endClaim (s : State) : State :=
  let s1 := s.modTiles (fun t => { t with claim := none })
  ([0, 1, 2, 3] : List StrandId).foldl (fun s k => dropReads (engDone s { k := k, id := 1 }) (.move { k := k, id := 1 })) s1

/-- The claim of c for the bank of victim v saves v once v's work has completed (R147, steps 4 and 5); until then v stays the victim. -/
def victimStep (s : State) (c : CtxId) (b : Fin 2) (v : CtxId) : State :=
  if s.ctxIdle v then
    (s.modCtx v (fun x => { x with st := .saving })).modTiles (fun t => { t with claim := some { ctx := c, bank := b, ph := .saving v } })
  else s.modTiles (fun t => { t with claim := some { ctx := c, bank := b, ph := .waiting v } })

/-- BANK_CLAIM: the oldest claim starts, or the claim in progress looks again whether its victim's work has completed; the bank of a victim that
has given it up is taken as it is. A claim whose context has its bank again, or none to ask for, ends. -/
def execBankClaim (s : State) : Out :=
  .next (
    if s.ckHold then s
    else
      match s.tiles.claim with
      | some { ctx := c, bank := b, ph := .waiting v } =>
        if (s.ctxOf c).st ≠ .cleared ∧ (s.ctxOf c).st ≠ .saved then wakeTile (endClaim s) c
        else if (s.tiles.banks[b]).owner = none then beginFill s c b
        else if s.pinned v then (endClaim s).modTiles (fun t => { t with claims := c :: t.claims })
        else victimStep s c b v
      | some _ => s
      | none =>
        match s.tiles.claims with
        | [] => s
        | c :: rest =>
          let s1 := s.modTiles (fun t => { t with claims := rest })
          if (s.ctxOf c).st ≠ .cleared ∧ (s.ctxOf c).st ≠ .saved then wakeTile s1 c
          else
            match pickBank s c with
            | none => s
            | some (b, none) => beginFill s1 c b
            | some (b, some v) => victimStep s1 c b v)

/-- A save that failed: the victim stays RESIDENT, the claim is abandoned, and both strands issue again (R148). -/
def abandonClaim (s : State) (v c : CtxId) : State :=
  wakeTile (wakeTile ((endClaim s).modCtx v (fun x => { x with st := .resident, pos := 0 })) c) v

/-- LAZY_SAVE_COMPLETE: the victim's frame is written (R148), unless a line is still to come. -/
def execLazySaveComplete (s : State) : Out :=
  .next (
    match s.tiles.claim with
    | some { ctx := c, bank := b, ph := .saving v } =>
      match saveCtx (s.modCtx v (fun x => { x with st := .resident })) v with
      | .ok _ s1 => wakeTile (beginFill (leaveBank s1 v .saved) c b) v
      | .fault e s1 => addPendEv (abandonClaim s1 v c) v.k { e with rel := v.lv, src := .save }
      | .wait s1 => s1.modCtx v (fun x => { x with st := .saving })
      | .check s1 => abandonClaim s1 v c
    | _ => s)

/-- BANK_ZEROING_DONE: the claimed bank and its tags are zero and the claimant is RESIDENT. [DESIGN CHOICE, log 48] -/
def execBankZeroingDone (s : State) : Out :=
  .next (
    match s.tiles.claim with
    | some { ctx := c, bank := b, ph := .zeroing } => wakeTile (takeBank (endClaim s) c b []) c
    | _ => s)

/-- A restore's read fault is raised on the claiming instruction (R149): at its strand's next boundary, while the strand still waits for
this claim; a chain's step fails (R275); an instruction that was given up claims again. -/
def restoreFault (s : State) (c : CtxId) (e : Ev) : State :=
  if (s.chainOf c).st = .running then failChain s c 0x08 e.num.toNat (s.chainOf c).stepAddr e.fa
  else if (s.str c.k).run.cond = some .tile ∧ (s.str c.k).status.lvl = c.lv then
    wakeTile (s.modRun c.k (fun r => { r with entering := some e })) c
  else wakeTile s c

/-- LAZY_RESTORE_COMPLETE: the claimant's frame is read (R149), unless a line is still to come. -/
def execLazyRestoreComplete (s : State) : Out :=
  .next (
    match s.tiles.claim with
    | some { ctx := c, bank := b, ph := .restoring } =>
      match loadFrame s c b with
      | .ok _ s1 => wakeTile (endClaim s1) c
      | .fault e s1 => restoreFault (leaveBank (endClaim s1) c .saved) c e
      | .wait s1 => s1
      | .check s1 => wakeTile (leaveBank (endClaim s1) c .saved) c
    | _ => s)

/-! ### Completion of moves (R482, R224) -/

/-- How far a move has come: done, with what it read; waiting for a line, with what is left; a machine check pending, nothing more moved. -/
inductive RunRes where
  | done (b : List Byte) (s : State)
  | wait (todo : List MvPiece) (b : List Byte) (s : State)
  | check (s : State)

/-- Read pieces in order, after the bytes read so far. -/
def runLoad (g : Ag) : List MvPiece → List Byte → State → RunRes
  | [], got, s => .done got s
  | p :: r, got, s =>
    match mvRead s g p with
    | .ok b s1 => runLoad g r (got ++ b) s1
    | .wait s1 => .wait (p :: r) got s1
    | .fault _ s1 => .check s1
    | .check s1 => .check s1

/-- Write pieces in order from the bytes left. -/
def runStore (g : Ag) : List MvPiece → List Byte → State → RunRes
  | [], bs, s => .done bs s
  | p :: r, bs, s =>
    match mvWrite s g p (bs.take p.n) with
    | .ok _ s1 => runStore g r (bs.drop p.n) s1
    | .wait s1 => .wait (p :: r) bs s1
    | .fault _ s1 => .check s1
    | .check s1 => .check s1

/-- The scale bytes of a chain's TST are copied out (R267): what is left of them, and the state; a machine check leaves nothing. -/
def runScales (g : Ag) : List (Nat × MvPiece) → State → List (Nat × MvPiece) × State
  | [], s => ([], s)
  | (o, p) :: r, s =>
    let m := spMeet s g.k o p.n
    if ! m.1 then ([], m.2)
    else
      match mvWrite m.2 g p (m.2.spad.dense o p.n) with
      | .ok _ s1 => runScales g r s1
      | .wait s1 => ((o, p) :: r, s1)
      | .fault _ s1 => ([], s1)
      | .check s1 => ([], s1)

/-- The bytes that a load leaves in the bank, and the flushes it counts (R133, R170, R265). -/
def loadCells (w : MvWords) (got : List Byte) : List (Nat × List Byte) × Nat :=
  let r := nRows w.shape
  let rows := pieces w.rows (rowBytes w.kind w.fmt w.els) got
  match w.kind with
  | .tile =>
    match tfmtOf w.fmt with
    | none => ([], 0)
    | some f => ([(regOff w.reg, (fillRows f (f.perRow (rowLen w.shape)) r w.els w.fill rows).flatMap (packRow f))], 0)
  | .split =>
    let sp := (fillRows .f32 (rowLen w.shape / 2) r w.els w.fill rows).flatten.map splitX
    let read := (rows.flatMap (fun b => unpackMem .f32 w.els b)).map splitX
    ([(regOff w.reg, sp.flatMap (fun p => toLE 2 p.1)), (regOff (w.reg + 1), sp.flatMap (fun p => toLE 2 p.2.1))],
      (read.map (fun p => p.2.2)).sum)
  | .acc => ([(regOff w.reg, (fillRows .i32 (accCols w.shape) r w.els w.fill rows).flatMap (fun r => r.flatMap (toLE 4)))], 0)

/-- The bytes that a store takes from the bank: its rows in range, in memory form (R133, R142). -/
def moveBytes (b : Mem) (w : MvWords) : List Byte :=
  match w.kind with
  | .tile =>
    match tfmtOf w.fmt with
    | none => []
    | some f => ((rowsIn b w.shape w.reg (nRows w.shape)).take w.rows).flatMap (fun r =>
        if w.els = f.perRow (rowLen w.shape) ∧ f.bits ≠ 6 then r else packMem f ((unpackRow f r).take w.els))
  | _ =>
    let n := 4 * accCols w.shape
    ((pieces (nRows w.shape) n (b.dense (regOff w.reg) (n * nRows w.shape))).take w.rows).flatMap (fun r => r.take (4 * w.els))

/-- A load has read its rows: registers, tags and, for TLD.X, its counts. -/
def finishLoad (s : State) (o : TOp) (w : MvWords) (got : List Byte) : State :=
  let q := loadCells w got
  let s1 := writeRegs s o.ctx q.1 o.tags
  settle (if w.kind = .split then
      s1.toTally o.id { ns := 0, nf := q.2, ovf := false, op := 0, acc := false, reg := 0, out := none, free := false, need := [] }
    else s1.dropOp o.id)

/-- q of this core in its gang. -/
def gangQ (s : State) : Nat := s.hw.cidx.toNat - s.tiles.tmu.gang.master

/-- The fatal record of a parity error that a member meets in a gang operation: LOC holds q (R189, R394). -/
def memberPar (s : State) (k : StrandId) (h : Nat × Nat) : State :=
  (logFatal s k (s.str k).status.lvl (if 16 ≤ h.1 then 0x09 else 0x08) 0x31 (parInfo h.1 h.2 + fld (gangQ s) 8) none false 0).2

/-- A store begins: its bytes are read from the register; a parity error there raises 0x31, on the master's strand for a member's TGSTA (R189),
and the bytes are written as read. [DESIGN CHOICE, log 49] -/
def startStore (s : State) (o : TOp) (p : StoreOp) : List Byte × State :=
  match p.data with
  | some d => (d, s)
  | none =>
    (moveBytes (s.bank o.ctx) p.w,
      match s.parAt (s.ctxOf o.ctx).bank [p.w.reg] (nRows p.w.shape) with
      | some h =>
        if p.w.gang then
          (memberPar s o.ctx.k h).emit (.gangReport { ns := 0, nf := 0, out := none, faults := [(0x31, parInfo h.1 h.2)], move := true })
        else tilePar s o.ctx.k h
      | none => s)

/-- The oldest move goes on as far as its lines allow. A move that meets an uncorrectable error or poison ends there, with its machine
check pending. [DESIGN CHOICE, log 49] -/
def stepMove (s : State) (o : TOp) : State :=
  let g : Ag := { k := o.ctx.k, id := 16 + o.id }
  let gone := fun (s : State) => engDone (dropReads s (.move g)) g
  match o.body with
  | .load p =>
    match runLoad g p.todo p.got s with
    | .done got s1 => finishLoad s1 o p.w got
    | .wait todo got s1 => s1.putBody o.id (.load { p with todo := todo, got := got })
    | .check s1 => settle ((gone s1).dropOp o.id)
  | .store p =>
    let d := startStore s o p
    match runStore g p.todo d.1 d.2 with
    | .wait todo bs s1 => s1.putBody o.id (.store { p with todo := todo, data := some bs })
    | .check s1 => settle ((gone s1).dropOp o.id)
    | .done _ s1 =>
      let q := runScales g p.scales s1
      if q.1.isEmpty then settle (q.2.dropOp o.id) else q.2.putBody o.id (.store { p with todo := [], data := some [], scales := q.1 })
  | _ => s

/-- TILE_MOVE_COMPLETE: the oldest tile load or store of the load-store unit completes, once no earlier operation of its
context holds it, and no Device write of its strand (R305); one whose lines are still to come waits at the head of the unit. -/
def execTileMoveComplete (s : State) : Out :=
  .next (
    match s.tiles.inflight.find? (fun o => o.unit == .move) with
    | none => s
    | some o => if s.blocked o || (! o.chain && devOpen s o.ctx.k) then s else stepMove s o)

end Sys2Proof.Machine
end

