-- ==== Sys2Proof/Machine/Tmu.lean ====
section
/-! DEFINITION. The tile matrix unit: TMMA and its passes, retirement, the ramp governor, gangs, and the Scarab column (07). -/

namespace Sys2Proof.Machine

open Sys2Proof

/-! ### The checks of Table 7-4 -/

/-- K for the class of the wider operand format (Table 7-2). -/
def kOf (shape : BitVec 2) (wide : Nat) : Nat := rowLen shape * 8 / wide

/-- The ratio r of R166. -/
def ratioOf (shape : BitVec 2) (ta tb : Nat) : Nat :=
  max (classPerRow shape ta) (classPerRow shape tb) / kOf shape (wideOf ta tb)

/-- Whether an operand is a split part. -/
def isSplit (t : Nat) : Bool := tagFmt t == 0x4

/-- Order 1 of Table 7-4: the first cause 0x01. dstInt is ATAG.INT of the destination. -/
def tmmaIllegal (shape : BitVec 2) (zero : Bool) (ta tb : Nat) (tagA tagB : Nat) (dstInt : Bool) (ksel klen : Nat) : Bool :=
  decide (tagFmt tagA ≥ 0xA) || decide (tagFmt tagB ≥ 0xA) || isSplit tagA != isSplit tagB
    || (isSplit tagA && (tbit tagA 4 || tbit tagB 4 || ta % 2 == 1 || tb % 2 == 1))
    || decide (kOf shape (wideOf tagA tagB) < klen) || decide (ratioOf shape tagA tagB ≤ ksel)
    || (! zero && dstInt != (intFmt (tagFmt tagA) && intFmt (tagFmt tagB)))

/-- Whether an operand's format is an input format of a profile (Table 1-12). -/
def profFmt (prof fmt : Nat) : Bool :=
  if prof = 1 then [0x0, 0x2, 0x3].contains fmt
  else if prof = 2 then [0x0, 0x1, 0x2, 0x3, 0x4, 0x5, 0x6].contains fmt
  else true

/-- Whether a profile permits an operand's block scale. -/
def profBs (prof tag : Nat) : Bool :=
  ! tagBs tag || (if prof = 1 then false
    else if prof = 2 then (tagFmt tag == 0x5 || tagFmt tag == 0x6) && bits tag 10 9 == 2 && ! tbit tag 11 else true)

/-- Order 2 of Table 7-4: whether the profile refuses the TMMA (R27). -/
def profRefuses (prof tagA tagB xpass ksel klen : Nat) : Bool :=
  let fa := tagFmt tagA
  let fb := tagFmt tagB
  let mixed := fa != fb
  let mixOk := prof == 3 || (prof == 2 && ((fa == 0x5 && fb == 0x6) || (fa == 0x6 && fb == 0x5)))
  ! profFmt prof fa || ! profFmt prof fb || (mixed && ! mixOk) || ! profBs prof tagA || ! profBs prof tagB
    || (prof == 2 && isSplit tagA && xpass == 2) || (prof != 3 && (klen != 0 || ksel != 0))

/-! ### Gangs (R181 to R191) -/

/-- The first core of this core's group for a size. -/
def groupBase (s : State) (size : Nat) : Nat := s.hw.cidx.toNat / size * size

/-- The other cores of the group that starts at b. -/
def otherMembers (s : State) (b size : Nat) : List Nat := ((List.range size).map (· + b)).filter (· != s.hw.cidx.toNat)

/-- The last status word of a core. [DESIGN CHOICE, log 56] -/
def partner (s : State) (c : Nat) : PartnerWord := s.tiles.tmu.gang.partners.getD c PartnerWord.zero

/-- Whether an instruction of context c is a gang operation: this core is the master and c its gang context. -/
def inGang (s : State) (c : CtxId) : Bool :=
  let g := s.tiles.tmu.gang
  (g.st == .master || g.st == .broken) && g.ctx == c

/-- Whether a gang stands on this core (R186). -/
def gangStands (s : State) : Bool :=
  let g := s.tiles.tmu.gang
  g.st == .lent || g.st == .master || g.st == .broken

/-- A gang fault with a reason. -/
def gangFault (s : State) (r : Nat) : DRes := .event (mkEv 0x1E 0 r .ul) s

/-- Whether every pass and retirement dispatched on the core has completed. -/
def tmuIdle (s : State) : Bool :=
  s.tiles.inflight.all (fun o => o.unit != .tmu) && s.tiles.runnel.all (fun e => e.st != .reserved && e.st != .filling)

/-- TMU.STAT.BUSY: a pass or retirement is in progress or dispatched (Table 7-13). -/
def tmuBusy (s : State) : Bool := ! tmuIdle s

/-! ### TMMA and TRET -/

/-- Registers of A that a gang TMMA reads for quadrant row i (R184). -/
def gangA (split : Bool) (ta i : Nat) : List Nat := if split then [ta + 2 * i, ta + 2 * i + 1] else [ta + i]

/-- What every TMMA that this core dispatches has in common: n and K of a gang TMMA come from the tags of tA and tB, for both quadrant rows; the tag of
row 1 gives its elements' format and scales and meets no check. [DESIGN CHOICE, log 55] -/
def tmmaOp (s : State) (c : CtxId) (zero gang : Bool) (a : Fin 4) (ta tb : Fin 16) (ksel klen : Nat) : TmmaOp :=
  let t := s.str c.k
  let shape := t.num.tshape
  let tagA := s.tagOf c ta.val
  let tagB := s.tagOf c tb.val
  let split := isSplit tagA && isSplit tagB
  let k := kOf shape (wideOf tagA tagB)
  let tagA1 := if gang then s.tagOf c (ta.val + (if split then 2 else 1)) else 0
  { zero := zero, noPass := false, a := a, ta := ta, tb := tb, ksel := ksel, n := if klen = 0 then k else klen, k := k, shape := shape,
    prof := s.core.prof, passes := if split then t.num.xpass.toNat else 1, tagA := w64 tagA, tagB := w64 tagB,
    scA := scaleBytes s shape tagA, scB := scaleBytes s shape tagB, gang := gang, started := 0, finished := 0, entry := none, want := false,
    tagA1 := w64 tagA1, scA1 := scaleBytes s shape tagA1, rowsA := none, scPend := false, reps := [], faults := [], ns := 0, nf := 0 }

/-- What every TRET has in common. -/
def tretOp (s : State) (c : CtxId) (gang : Bool) (a : Fin 4) : TmmaOp :=
  { zero := false, noPass := true, a := a, ta := 0, tb := 0, ksel := 0, n := 0, k := 0, shape := (s.str c.k).num.tshape, prof := s.core.prof,
    passes := 0, tagA := 0, tagB := 0, scA := [], scB := [], gang := gang, started := 0, finished := 0, entry := none, want := false, tagA1 := 0,
    scA1 := [], rowsA := none, scPend := false, reps := [], faults := [], ns := 0, nf := 0 }

/-- Registers that a TMMA reads: A (of every quadrant row, for a gang's master), B, and the accumulator. -/
def tmmaReads (p : TmmaOp) : List Nat :=
  let split := isSplit p.tagA.toNat
  (if p.rowsA.isSome then [] else if p.gang then gangA split p.ta.val 0 ++ gangA split p.ta.val 1 else gangA split p.ta.val 0)
    ++ [p.tb.val] ++ (if split then [p.tb.val + 1] else []) ++ (if p.zero then [] else [16 + p.a.val])

/-- Dispatch a TMMA or TRET with its Runnel entry. -/
def putTmma (s : State) (c : CtxId) (p : TmmaOp) (chain : Bool) : State :=
  let en := match p.entry with | some i => [32 + i.val] | none => []
  if p.noPass then dispatch s c .tmu [16 + p.a.val] en false false [] chain (.tmma p)
  else dispatch s c .tmu (tmmaReads p) ((16 + p.a.val) :: en) p.scPend false [(16 + p.a.val, w64 (bit p.int))] chain (.tmma p)

/-- What the members of quadrant row i are handed as their master dispatches a TMMA or TRET (R184); its A registers follow.
[DESIGN CHOICE, log 55] -/
def castOf (p : TmmaOp) (retire : Bool) (i : Nat) : GangOp :=
  .tmma
    { zero := p.zero, retire := retire, noPass := p.noPass, a := p.a, tb := p.tb, ksel := p.ksel, n := p.n, k := p.k, passes := p.passes,
      prof := p.prof, tagA := if i = 0 then p.tagA else p.tagA1, scA := if i = 0 then p.scA else p.scA1 }

/-- A master's TMMA or TRET reaches the members of its gang, in dispatch order. -/
def castOp (s : State) (p : TmmaOp) (retire : Bool) : State :=
  if p.gang then (s.emit (.gangCast 0 (castOf p retire 0))).emit (.gangCast 1 (castOf p retire 1)) else s

/-- Dispatch a TMMA of context c (R165 to R174, R184). Its scale arrays are read once the strand's earlier operations have written the
scratchpad (R139); an uncorrectable word there is raised and not delivered. [DESIGN CHOICE, log 49] 0x18 is judged under the profile in effect and
comes before the hold of another strand's NPROF change (R25). [DESIGN CHOICE, log 13] -/
def doTmma (s : State) (c : CtxId) (zero retire : Bool) (a : Fin 4) (ta tb : Fin 16) (ksel klen : Nat) (chain : Bool) : DRes :=
  if gangStands s && ! inGang s c then .tile s
  else
    let t := s.str c.k
    let shape := t.num.tshape
    let tagA := s.tagOf c ta.val
    let tagB := s.tagOf c tb.val
    let gang := inGang s c
    let g := s.tiles.tmu.gang
    if tmmaIllegal shape zero ta.val tb.val tagA tagB (tbit (s.tagOf c (16 + a.val)) 0) ksel klen then dIll s
    else if profRefuses s.core.prof.toNat tagA tagB t.num.xpass.toNat ksel klen then .event (mkEv 0x18 0 0 .ul) s
    else if gang && shape != 0b11 then gangFault s 0x5
    else if gang && g.st == .broken then gangFault s 0x7
    else if gang && ta.val % (if isSplit tagA && isSplit tagB then 4 else 2) != 0 then gangFault s 0xA
    else if gang && (otherMembers s g.master g.size).any (fun m => ! (partner s m).bTagEq) then gangFault s 0x6
    else if profHold s c.k then .wait s
    else
      let p := tmmaOp s c zero gang a ta tb ksel klen
      let tags := [tagA, tagB] ++ (if gang then [p.tagA1.toNat] else [])
      if tags.any tagBs && spWrites s c.k then .wait s
      else
        match (if retire then (reserveEntry s c p.int).map (fun q => (some q.1, q.2)) else some (none, s)) with
        | none => .wait s
        | some (e, s1) =>
          let m := scaleMeet s1 c.k shape tags
          if ! m.1 then .wait (scaleMeet s c.k shape tags).2 else .ok (putTmma (castOp m.2 p retire) c { p with entry := e } chain)

/-- Dispatch a TRET (R173). -/
def doTret (s : State) (c : CtxId) (a : Fin 4) (chain : Bool) : DRes :=
  if gangStands s && ! inGang s c then .tile s
  else if inGang s c && s.tiles.tmu.gang.st == .broken then gangFault s 0x7
  else
    match reserveEntry s c (tbit (s.tagOf c (16 + a.val)) 0) with
    | none => .wait s
    | some (e, s1) =>
      let p := tretOp s c (inGang s c) a
      .ok (putTmma (castOp s1 p true) c { p with entry := some e } chain)

/-- A TMMA of the strand. -/
def tmmaI (zero retire : Bool) (a : BitVec 2) (ta tb : BitVec 4) (ksel : BitVec 2) (klen : BitVec 9) (s : State) : Out :=
  tileI s true (fun st => aOk st a.toNat && tOk st ta.toNat && tOk st tb.toNat) (fun c s =>
    doTmma s c zero retire (Fin.ofNat 4 a.toNat) (Fin.ofNat 16 ta.toNat) (Fin.ofNat 16 tb.toNat) ksel.toNat klen.toNat false)

def execTmma (a : BitVec 2) (ta tb : BitVec 4) (ksel : BitVec 2) (klen : BitVec 9) (s : State) : Out :=
  tmmaI false false a ta tb ksel klen s
def execTmmaZ (a : BitVec 2) (ta tb : BitVec 4) (ksel : BitVec 2) (klen : BitVec 9) (s : State) : Out :=
  tmmaI true false a ta tb ksel klen s
def execTmmaR (a : BitVec 2) (ta tb : BitVec 4) (ksel : BitVec 2) (klen : BitVec 9) (s : State) : Out :=
  tmmaI false true a ta tb ksel klen s
def execTmmaZr (a : BitVec 2) (ta tb : BitVec 4) (ksel : BitVec 2) (klen : BitVec 9) (s : State) : Out :=
  tmmaI true true a ta tb ksel klen s

def execTret (a : BitVec 2) (s : State) : Out :=
  tileI s true (fun st => aOk st a.toNat) (fun c s => doTret s c (Fin.ofNat 4 a.toNat) false)

/-! ### Passes (R163, R176 to R179) -/

/-- Occupancy of an array pass in cc (Table 7-2, R197). -/
def passOcc (lean : Bool) (shape : BitVec 2) : Nat := if lean || shape == 0b11 then 8 else 4

/-- Whether a TMMA or TRET of a member still waits for its Runnel entry, its B scales or its master's A registers. -/
def TmmaOp.waits (p : TmmaOp) : Bool := p.want || p.scPend || p.rowsA == some []

/-- The first TMMA with an array pass to start; none is passed over (R163), and none starts past an operation of the gang that still waits.
[DESIGN CHOICE, log 113] -/
def nextStart (s : State) : Option (TOp × TmmaOp) :=
  (s.tiles.inflight.findSome? (fun o => match o.body with
    | .tmma p =>
      if p.waits then some none
      else if ! p.noPass && decide (p.started < p.passes * quads s.hw.lean p.shape) then some (some (o, p)) else none
    | _ => none)).join

/-- Whether the operands of a TMMA are usable: no earlier operation but those of the TMU holds them. -/
def operandsReady (s : State) (o : TOp) : Bool :=
  (s.tiles.inflight.takeWhile (fun p => p.id != o.id)).all (fun p => p.unit == .tmu || ! p.before o)

/-- The A registers of quadrant row i on the gang bus; what a register with a parity error gives is free. [DESIGN CHOICE, log 55] -/
def castRows (s : State) (c : CtxId) (p : TmmaOp) (i : Nat) : GangOp :=
  .rows ((gangA (isSplit p.tagA.toNat) p.ta.val i).map (fun r =>
    if (s.parAt (s.ctxOf c).bank [r] (nRows p.shape)).isSome then
      (List.range (nRows p.shape)).map (fun j => (List.range (rowLen p.shape)).map (fun b => Config.freeByte s.free (0x20000 + 128 * j + b)))
    else rowsIn (s.bank c) p.shape r (nRows p.shape)))

/-- The master's broadcast as the first pass of a gang TMMA starts: the A registers of each quadrant row (R184). A parity error in those of row 1, which
the master's own passes do not read, is raised here (R189). [DESIGN CHOICE, log 55] -/
def castTmma (s : State) (o : TOp) (p : TmmaOp) : State :=
  if p.gang && p.rowsA.isNone && p.started == 0 then
    let s1 : State := { (s.emit (.gangCast 0 (castRows s o.ctx p 0))).emit (.gangCast 1 (castRows s o.ctx p 1)) with free := s.free + 1 }
    match s.parAt (s.ctxOf o.ctx).bank (gangA (isSplit p.tagA.toNat) p.ta.val 1) (nRows p.shape) with
    | some h => (tilePar s1 o.ctx.k h).putBody o.id (.tmma { p with started := 1, faults := [(0x31, parInfo h.1 h.2)] })
    | none => s1
  else s

/-- PASS_START: the next array pass starts when its operands are usable and every governor that counts it permits it, the master's and the
members' for a gang pass (R179). [DEDUCED, log 52] -/
def execPassStart (s : State) : Out :=
  .next (
    match nextStart s with
    | none => s
    | some (o, p) =>
      let g := s.tiles.tmu.gov
      let occ := passOcc s.hw.lean p.shape
      let relock := match s.pwr.dv with | some (_, .relock) => true | _ => false
      let members := otherMembers s s.tiles.tmu.gang.master s.tiles.tmu.gang.size
      let gangOk := ! p.gang || (! s.ckHold && members.all (fun m => (partner s m).permit && (partner s m).ready))
      if operandsReady s o && ! s.tiles.tmu.gated && ! relock && s.pwr.pstate == .c0 && gangOk
          && (! g.any || decide (g.occ + occ ≤ g.cap)) then
        (castTmma (s.putBody o.id (.tmma { p with started := p.started + 1 })) o p).modTmu (fun t =>
          { t with gov := { t.gov with occ := t.gov.occ + occ, any := true } })
      else s)

/-- GOVERNOR_WINDOW: the cap of the window that opens (R176 to R178). b + STEP does not wrap: 64 + 64 is 128 before the minimum is taken.
[DEDUCED, log 52] -/
def execGovernorWindow (s : State) : Out :=
  .next (s.modTmu (fun t =>
    let g := t.gov
    let b := if t.gated || g.still then 0 else g.occ
    let cmax := if g.hold then 16 else 64
    { t with gov := { g with cap := min cmax (max g.floor (b + g.step)), occ := 0, any := false, still := false } }))

/-! ### The Scarab column (R192 to R195) -/

/-- The physical columns of the roles from j on (R194). -/
def roleGo (f : Nat) : Nat → Nat → List Nat
  | 0, _ => []
  | n + 1, j =>
    let j1 := if j = f then (j + 1) % 66 else j
    j1 :: roleGo f n ((j1 + 1) % 66)

/-- The physical columns of roles 0 to 63, the Scarab (64) and the spare (65, which is none when a column has failed).
[DESIGN CHOICE, log 112] -/
def roles (p f : Nat) : List Nat := roleGo f 66 p

/-- Count a mismatch of a physical column, stopping at 255. -/
def countCol (s : State) (c : Nat) : State :=
  s.modTmu (fun t => { t with counts := vupd t.counts c (fun n => if n = 255 then n else n + 1) })

/-- The Scarab compare of a pass, which passed column c: whether array and Scarab column may differ, and the physical columns. -/
def scarabOf (s : State) (c : Nat) : Bool × Nat × Nat :=
  let t := s.tiles.tmu
  let rs := roles t.molt t.failc
  let arr := rs.getD c 0
  let sc := rs.getD 64 0
  ((s.markAt 0x0B arr).isSome || (s.markAt 0x0B sc).isSome, arr, sc)

/-- Raise a machine check of a gang's core q on strand k (R189). -/
def raiseGang (s : State) (k : StrandId) (q : Nat) (f : BitVec 8 × Nat) : State :=
  s.modRun k (fun u => { u with
    mchk := u.mchk ++ [{ num := f.1, fa := 0, info := BitVec.ofNat 16 (fld q 8 + f.2), rel := .ml, src := .instr, asid := 0 }] })

/-- A mismatch is logged, with q on a member, and counted on both columns, and raises 0x32 on strand k, or on its gang's master when member (R189,
R193, R195, R398). -/
def scarab (s : State) (k : StrandId) (member : Bool) (opcnt : BitVec 32) (c : Nat) : State :=
  let r := scarabOf s c
  if r.1 then
    let f := logFatal s k (s.str k).status.lvl 0x0B 0x32 (fld (if member then gangQ s else 0) 24 + fld r.2.1 16 + fld r.2.2 8 + c) none false opcnt.toNat
    let s1 := if member then f.2 else raiseGang f.2 k 0 (0x32, r.2.1)
    countCol (countCol s1 r.2.1) r.2.2
  else s

/-- OPCNT moves on; when it wraps the molt position moves by one column. [DESIGN CHOICE, log 112] -/
def nextOpcnt (s : State) : State :=
  s.modTmu (fun t => { t with
    opcnt := t.opcnt + 1
    molt := if t.opcnt = 0xFFFFFFFF then (t.molt + 1) % 66 else t.molt })

/-- The outputs of a column that a faulty array column computed: free values. [DESIGN CHOICE, log 59] -/
def faultyColumn (s : State) (b : Mem) (p : TmmaOp) (c : Nat) : Mem :=
  let nn := accCols p.shape
  accPut b p.a.val ((accIn b p.shape p.a.val).zipIdx.map (fun (x : Nat × Nat) =>
    if x.2 % nn = c then leNat ((List.range 4).map (fun j => Config.freeByte s.free (4 * x.2 + j))) else x.1))

/-- An accumulator whose values are unpredictable (Table 7-4, 0x31): free values. [DESIGN CHOICE, log 59] -/
def freeAcc (s : State) (b : Mem) (p : TmmaOp) : Mem :=
  b.splice (regOff (16 + p.a.val)) ((List.range (regLen p.shape (16 + p.a.val))).map (Config.freeByte s.free))

/-- The next TMMA whose started array pass completes. [DESIGN CHOICE, log 113] -/
def nextFinish (s : State) : Option (TOp × TmmaOp) :=
  s.tiles.inflight.findSome? (fun o => match o.body with
    | .tmma p => if ! p.noPass && decide (p.finished < p.started) then some (o, p) else none
    | _ => none)

/-- What a pass reads: registers with the rows read of each (R164, R167, Table 7-6). -/
def passReads (p : TmmaOp) (i : Nat) : List (Nat × Nat) :=
  let part := splitPart p.passes i
  (if p.rowsA.isSome then [] else [(p.ta.val + bit part.1, nRows p.shape)]) ++ [(p.tb.val + bit part.2, accCols p.shape)]
    ++ (if p.zero && i == 1 then [] else [(16 + p.a.val, nRows p.shape)])

/-- The first parity error that a pass meets. -/
def passPar (s : State) (b : Fin 2) (p : TmmaOp) (i : Nat) : Option (Nat × Nat) := (passReads p i).findSome? (fun r => s.parAt b [r.1] r.2)

/-- Saturations and flushes of the outputs outside column c, and as many of the column's as a free value says (R229).
[DESIGN CHOICE, log 59] -/
def faultyCounts (s : State) (b : Mem) (p : TmmaOp) (i c : Nat) : Nat × Nat :=
  let r := passOuts b p i
  let out := (r.1.zipIdx.filter (fun q => q.2 % accCols p.shape != c)).map (fun q => q.1)
  let m := nRows p.shape + 1
  ((out.map (fun d => d.sats)).sum + (Config.freeByte s.free 0x10000).toNat % m,
    r.2 + (out.map (fun d => d.flushes)).sum + (Config.freeByte s.free 0x10001).toNat % m)

/-- The members of this master's gang whose reports a TMMA still lacks: those that have neither left nor been reset. -/
def gangNeed (s : State) (p : TmmaOp) : List Nat :=
  if p.gang then
    (otherMembers s s.tiles.tmu.gang.master s.tiles.tmu.gang.size).filter (fun n =>
      ! (p.reps.any (fun r => r.1 == n)) && (partner s n).st != .own && ! (partner s n).reset)
  else []

/-- The last pass of a TMMA has been written: a member reports to its master (R184, R189); any other TMMA has its counts and record to apply,
with what its gang reports; a parity error in any pass leaves them unpredictable (R229). [DESIGN CHOICE, log 55] -/
def reportTmma (s : State) (o : TOp) (p : TmmaOp) : State :=
  let out := if p.int then none else firstNf (accCols p.shape) (accIn (s.bank o.ctx) p.shape p.a.val)
  if p.rowsA.isSome then (s.emit (.gangReport { ns := p.ns, nf := p.nf, out := out, faults := p.faults, move := false })).dropOp o.id
  else
    let t : Tally := { ns := p.ns, nf := p.nf, ovf := true, op := 1, acc := true, reg := p.a.val, out := out, free := p.faults.any (fun f => f.1 == 0x31), need := gangNeed s p }
    s.toTally o.id (p.reps.foldl (fun t r => t.join (r.1 - s.tiles.tmu.gang.master) r.2) t)

/-- A whole pass of TMMA o is written: its Scarab compare, its counts; after the last pass its reports and its retirement. -/
def finishPass (s : State) (o : TOp) (p : TmmaOp) : State :=
  let c := o.ctx
  let bk := (s.ctxOf c).bank
  let i := p.finished / quads s.hw.lean p.shape + 1
  let b0 := s.bank c
  let par := passPar s bk p i
  let r := passBank b0 p i
  let opcnt := s.tiles.tmu.opcnt
  let col := opcnt.toNat % (if p.shape = 0b11 then 64 else 32)
  let rs := roles s.tiles.tmu.molt s.tiles.tmu.failc
  let faulty := ! s.hw.lean && (s.markAt 0x0B (rs.getD col 0)).isSome
  let b1 := if par.isSome then freeAcc s r.1 p else if faulty then faultyColumn s r.1 p col else r.1
  let n := if faulty then faultyCounts s b0 p i col else r.2
  let s1 : State := dropPar (s.modBank c (fun _ => b1)) bk (16 + p.a.val)
  let s2 : State := if par.isSome || faulty then { s1 with free := s1.free + 1 } else s1
  let member := p.rowsA.isSome
  let s3 := match par with | some h => (if member then memberPar s2 c.k h else tilePar s2 c.k h) | none => s2
  let bad := ! s.hw.lean && (scarabOf s col).1
  let s4 := if s.hw.lean then s3 else nextOpcnt (scarab s3 c.k member opcnt col)
  let met : List (BitVec 8 × Nat) :=
    (match par with | some h => [((0x31 : BitVec 8), parInfo h.1 h.2)] | none => []) ++ (if bad then [((0x32 : BitVec 8), (scarabOf s col).2.1)] else [])
  let q := { p with finished := p.finished + 1, ns := p.ns + n.1, nf := p.nf + n.2, faults := p.faults ++ met }
  if q.finished = p.passes * quads s.hw.lean p.shape then settle (reportTmma (fillEntry s4 c q) o q)
  else s4.putBody o.id (.tmma q)

/-- PASS_COMPLETE: the oldest started array pass completes; the last one of a pass writes it. -/
def execPassComplete (s : State) : Out :=
  .next (
    match nextFinish s with
    | none => s
    | some (o, p) =>
      if (p.finished + 1) % quads s.hw.lean p.shape = 0 then finishPass s o p
      else s.putBody o.id (.tmma { p with finished := p.finished + 1 }))

/-- What a dispatched operation of group 0x3A is still to read of a Runnel entry is kept for it when the entry is freed by another that comes
later (R244, R257). [DESIGN CHOICE, log 64] -/
def grabEntry (s : State) (i : Fin 8) : State :=
  let e := s.tiles.runnel[i]
  s.modTiles (fun t => { t with inflight := t.inflight.map (fun o =>
    match o.body with
    | .rill r => if r.entry = some i ∧ r.got.isNone then { o with body := .rill { r with got := some (e.data, e.int) } } else o
    | _ => o) })

/-- A Runnel entry becomes FREE. -/
def releaseEntry (s : State) (i : Fin 8) : State :=
  settle ((grabEntry s i).modTiles (fun t => { t with runnel := vmod t.runnel i (fun _ => RnEntry.zero) }))

/-- The entry whose reservation came first. -/
def earliest (s : State) : List (Fin 8) → Option (Fin 8)
  | [] => none
  | i :: r =>
    match earliest s r with
    | none => some i
    | some j => if (s.tiles.runnel[j]).res < (s.tiles.runnel[i]).res then some j else some i

/-- RUNNEL_RETIREMENT: the copy that began first ends; its entry is READY, or FREE when it was dropped (R172, R245). -/
def execRunnelRetirement (s : State) : Out :=
  .next (
    match earliest s ((List.finRange 8).filter (fun i => (s.tiles.runnel[i]).st == .filling)) with
    | none => s
    | some j =>
      if (s.tiles.runnel[j]).drop then releaseEntry s j
      else s.modTiles (fun t => { t with runnel := vmod t.runnel j (fun e => { e with st := .ready }) }))

/-! ### Gang instructions -/

/-- The size that sz names. -/
def gangSize (sz : BitVec 2) : Nat := if sz = 0b01 then 2 else 4

/-- The frame of TLEND, TRECALL, TGANG and TUNGANG: they do not wait for a gang (R186), and at UL they are privileged. 0x0D of TLEND comes before
the gang faults of Table 7-11; a BROKEN core counts as its gang's master for reason 0x4; reason 0x5 concerns TLEND, TGANG and the gang
operations, not TRECALL and TUNGANG. [DESIGN CHOICE, log 135] -/
def gangI (s : State) (ok : Bool) (body : CtxId → State → DRes) : Out :=
  .next (instr 8 false true s (fun k s =>
    if ! ok then illegal s
    else if (s.str k).status.lvl = .ul then privileged s
    else
      let c : CtxId := { k := k, lv := (s.str k).status.lvl }
      if (s.chainOf c).active || s.ckHold || s.tiles.tmu.gang.forming.isSome then .wait s
      else liftD k ((prepare s c).bind (body c))))

/-- [DESIGN CHOICE, log 135] -/
def execTlend (rs1 rs2 : RSpec) (sz : BitVec 2) (s : State) : Out :=
  gangI s (xOk rs1 && xOk rs2 && (sz == 0b01 || sz == 0b10)) (fun c s =>
    let n := gangSize sz
    let b := groupBase s n
    let a := (s.str c.k).x rs1
    let d := (s.str c.k).x rs2
    if a.toNat % 16 ≠ 0 ∨ d.toNat % 16 ≠ 0 then .event (mkEv 0x0D (if a.toNat % 16 ≠ 0 then a else d) 0 .ul) s
    else if s.hw.lean then gangFault s 0x1
    else if s.hw.csize.toNat < b + n ∨ s.hw.cidx.toNat = b then gangFault s 0x2
    else if s.tiles.tmu.gang.st != .own then gangFault s 0x4
    else if (s.str c.k).num.tshape ≠ 0b11 then gangFault s 0x5
    else if tmuBusy s then .wait s
    else .ok ((s.stampCtx c).modTmu (fun t => { t with gang :=
      { t.gang with st := .offered, size := n, master := b, ctx := c, dispB := a, dispA := d } })))

/-- [DESIGN CHOICE, log 135] -/
def execTgang (sz : BitVec 2) (s : State) : Out :=
  gangI s (sz == 0b01 || sz == 0b10) (fun c s =>
    let n := gangSize sz
    let b := groupBase s n
    if s.hw.lean then gangFault s 0x1
    else if s.hw.csize.toNat < b + n ∨ s.hw.cidx.toNat ≠ b then gangFault s 0x2
    else if s.tiles.tmu.gang.st != .own then gangFault s 0x4
    else if (s.str c.k).num.tshape ≠ 0b11 then gangFault s 0x5
    else if ! (otherMembers s b n).all (fun m => (partner s m).st == .offered && (partner s m).size.toNat == n && (partner s m).point == s.pwr.point) then
      gangFault s 0x3
    else if tmuBusy s then .wait s
    else .ok ((s.stampCtx c).modTmu (fun t => { t with gang := { t.gang with forming := some (n, c) } })))

/-- GANG_FORMED: 64 cc after TGANG the master becomes MASTER and its context the gang context (R183). -/
def execGangFormed (s : State) : Out :=
  .next (
    match s.tiles.tmu.gang.forming with
    | none => s
    | some (n, c) => s.modTmu (fun t => { t with gang :=
        { t.gang with st := .master, size := n, master := s.hw.cidx.toNat, ctx := c, forming := none, dispB := 0, dispA := 0 } }))

/-- TUNGANG of a lent context is in the tile wait, as every tile instruction of it but TLEND, TGANG and TRECALL (R186). -/
def execTungang (s : State) : Out :=
  gangI s true (fun c s =>
    if s.lentHold c then .tile s
    else if ! inGang s c then gangFault s 0x8
    else if ! gangQuiet s then .wait s
    else .ok (ungang (s.stampCtx c)))

/-- [DESIGN CHOICE, log 135] -/
def execTrecall (s : State) : Out :=
  gangI s true (fun c s =>
    let g := s.tiles.tmu.gang
    if ! ((g.st == .offered || g.st == .lent) && g.ctx == c) then gangFault s 0x8
    else if g.st == .lent && ! gangQuiet s then .wait s
    else .ok (ungang (s.stampCtx c)))

/-- A gang operation that the master hands to this LENT core: it is dispatched into the lent context, with B, its scales, accumulator and tag
of this core's own (R184, R185); it reads its B scales as it settles. [DESIGN CHOICE, log 55] -/
def receiveOp (s : State) (op : GangOp) : State :=
  let c := s.tiles.tmu.gang.ctx
  match op with
  | .move w => dispatchMove s c w false []
  | .rows a =>
    match s.tiles.inflight.find? (fun o => match o.body with | .tmma p => p.rowsA == some [] | _ => false) with
    | some { id := id, body := .tmma p, .. } => s.putBody id (.tmma { p with rowsA := some a })
    | _ => s
  | .tmma g =>
    if g.noPass then putTmma s c { tretOp s c true g.a with want := true } false
    else
      let tagB := s.tagOf c g.tb.val
      putTmma s c
        { tretOp s c true g.a with
          zero := g.zero, noPass := false, tb := g.tb, ksel := g.ksel, n := g.n, k := g.k, passes := g.passes, prof := g.prof, tagA := g.tagA,
          tagB := w64 tagB, scA := g.scA, scPend := tagBs tagB, want := g.retire,
          rowsA := some [] } false

/-- The oldest gang TMMA that still lacks a report of core n. -/
def lacks (n : Nat) (o : TOp) : Bool :=
  match o.body with
  | .tmma p => p.gang && ! p.noPass && p.rowsA.isNone && ! p.reps.any (fun r => r.1 == n)
  | .tally t => t.need.contains n
  | _ => false

/-- A member's report reaches the master: counts and record join the TMMA, and each machine check of core q is raised on the master strand
with q in INFO (R189). [DESIGN CHOICE, log 55] -/
def takeReport (s : State) (n : Nat) (r : GangReport) : State :=
  let q := n - s.tiles.tmu.gang.master
  let raise := fun (k : StrandId) (s : State) => r.faults.foldl (fun s f => raiseGang s k q f) s
  if r.move then raise s.tiles.tmu.gang.ctx.k s
  else
  match s.tiles.inflight.find? (lacks n) with
  | none => s
  | some o =>
    let s1 := match o.body with
      | .tmma p => s.putBody o.id (.tmma { p with reps := p.reps ++ [(n, r)] })
      | .tally t => s.toTally o.id { t.join q r with need := t.need.filter (· != n) }
      | _ => s
    settle (raise o.ctx.k s1)

/-- A member has left the gang: nothing more is awaited of it. -/
def forgetMember (s : State) (n : Nat) : State :=
  settle (s.modTiles (fun t => { t with inflight := t.inflight.map (fun o =>
    match o.body with
    | .tally q => { o with body := .tally { q with need := q.need.filter (· != n) } }
    | _ => o) }))

/-- GANG_STATUS_WORD: what another core of the cluster reports changes this core's gang state (R183, R187, R188), brings a LENT core its next
gang operation, or the master a member's report. [DESIGN CHOICE, log 56] -/
def execGangStatusWord (core : BitVec 3) (w : PartnerWord) (s : State) : Out :=
  .next (
    let s1 := s.modTmu (fun t => { t with gang := { t.gang with partners := vupd t.gang.partners core.toNat (fun _ => { w with op := none, rep := none }) } })
    let g := s.tiles.tmu.gang
    let n := core.toNat
    if n = s.hw.cidx.toNat then s
    else if g.st = .offered ∧ n = g.master ∧ w.st = .master ∧ w.size.toNat = g.size ∧ ! w.reset then
      s1.modTmu (fun t => { t with gang := { t.gang with st := .lent } })
    else if g.st = .lent ∧ n = g.master ∧ (w.reset ∨ w.st = .own) then ungang s1
    else if g.st = .lent ∧ n = g.master then (match w.op with | some op => receiveOp s1 op | none => s1)
    else if (g.st = .master ∨ g.st = .broken) ∧ g.master ≤ n ∧ n < g.master + g.size then
      let s2 := match w.rep with | some r => takeReport s1 n r | none => s1
      if w.reset ∨ w.st = .own then forgetMember (s2.modTmu (fun t => { t with gang := { t.gang with st := .broken } })) n else s2
    else s1)

/-! ### Gang moves (R185) -/

/-- The check of one core's rows of a gang move (R185): its displacement `d` is added to each address; its pieces follow those of the
cores before it. [DESIGN CHOICE, log 58] -/
def gangRow (x : XCtx) (kind : AK) (m : Move) (n : Nat) (q : RowAcc × List (Nat × List MvPiece)) (core : Nat) (d : Word) :
    RowAcc × List (Nat × List MvPiece) :=
  let rows := moveRows (m.rb + d) m.st (List.replicate m.rows n)
  let a := rows.foldl (checkRow x kind (match rows with | r :: _ => isWin r.ea | [] => false)) { q.1 with places := [] }
  (a, q.2 ++ [(core, a.places)])

/-- The checks of a gang move's rows on every core, before any byte is moved (R185): the pieces of this core, then of each other member in
order. [DESIGN CHOICE, log 58] -/
def gangRows (s : State) (c : CtxId) (kind : AK) (m : Move) (n : Nat) (disp : PartnerWord → Word) :
    Except DRes (List (Nat × List MvPiece) × State) :=
  let g := s.tiles.tmu.gang
  let x := s.xctxAt c.k c.lv
  let a0 := gangRow x kind m n ({ s := s, places := [], fail := none, check := false }, []) s.hw.cidx.toNat 0
  let a := (otherMembers s g.master g.size).foldl (fun q i => gangRow x kind m n q i (disp (partner s i))) a0
  if a.1.check then .error (.wait a.1.s)
  else match a.1.fail with
    | some f => .error (.event f.ev a.1.s)
    | none => .ok (a.2, a.1.s)

/-- The gang checks of a gang move, in the order of Table 7-11; they come before the 0x01 of R137 and the 0x0D of R140, of whose place among them
R185 says nothing. [DESIGN CHOICE, log 58] -/
def gangMoveCheck (s : State) (c : CtxId) (f : State → DRes) : DRes :=
  if s.hw.lean then gangFault s 0x1
  else if (s.str c.k).num.tshape ≠ 0b11 then gangFault s 0x5
  else if ! inGang s c then gangFault s 0x8
  else if s.tiles.tmu.gang.st = .broken then gangFault s 0x7
  else f s

/-- A gang move: rows of every core are checked, this core's are dispatched, and each member is handed its own. -/
def gangMove (s : State) (m : Move) (kind : AK) (n : Nat) (disp : PartnerWord → Word) (w : List MvPiece → MvWords) : DRes :=
  if ! moveAligned m then .event (mkEv 0x0D m.rb 0 .ul) s
  else
    match gangRows s m.c kind m n disp with
    | .error r => r
    | .ok (ps, s1) =>
      .ok (ps.foldl (fun (s : State) p =>
        if p.1 = s.hw.cidx.toNat then dispatchMove s m.c (w p.2) false [] else s.emit (.gangMove p.1 (.move { w (p.2.map (fun q => { q with va := 2 ^ 64 + 2 ^ 32 })) with gang := true }))) s1)

/-- [DESIGN CHOICE, log 58] -/
def execTgld (t : BitVec 4) (rb rs : RSpec) (fmt : BitVec 4) (bs : Bool) (bsz : BitVec 2) (bdir : Bool) (soff : BitVec 16) (s : State) : Out :=
  tileI s true (fun st => xOk rb && xOk rs && tOk st t.toNat) (fun c s => gangMoveCheck s c (fun s =>
    let m := wholeMove s c rb rs (elsOf s c fmt.toNat) (memRowOf s c fmt.toNat)
    if fmt = 0x4 ∨ tagBad s (s.str c.k).num.tshape fmt.toNat bs bsz.toNat bdir soff.toNat then dIll s
    else gangMove s m .load (memRowOf s c fmt.toNat) (fun w => w.dispB)
      (mvWords s m false .tile t.toNat fmt.toNat (mkTtag fmt.toNat bs bsz.toNat bdir soff.toNat))))

def execTglda (a : BitVec 2) (rb rs : RSpec) (int : Bool) (s : State) : Out :=
  tileI s true (fun st => xOk rb && xOk rs && aOk st a.toNat) (fun c s => gangMoveCheck s c (fun s =>
    let n := accCols (s.str c.k).num.tshape
    let m := wholeMove s c rb rs n (4 * n)
    gangMove s m .load (4 * n) (fun w => w.dispA) (mvWords s m false .acc (16 + a.toNat) 0 (w64 (bit int)))))

/-- [DESIGN CHOICE, log 58] -/
def execTgsta (a : BitVec 2) (rb rs : RSpec) (s : State) : Out :=
  tileI s true (fun st => xOk rb && xOk rs && aOk st a.toNat) (fun c s => gangMoveCheck s c (fun s =>
    let n := accCols (s.str c.k).num.tshape
    let m := wholeMove s c rb rs n (4 * n)
    gangMove s m .store (4 * n) (fun w => w.dispA) (mvWords s m true .acc (16 + a.toNat) 0 0)))

end Sys2Proof.Machine
end

