-- ==== Sys2Proof/Machine/Rill.lean ====
section
/-! DEFINITION. The operations of group 0x3A: their checks, their dispatch, and their completion in the Rill and the Cistern
(10). -/

namespace Sys2Proof.Machine

open Sys2Proof

/-! ### The Runnel queue of a context (R243) -/

/-- The head entry of a context's queue. -/
def runnelHead (s : State) (c : CtxId) : Option (Fin 8) :=
  let q := (List.finRange 8).filter (fun i =>
    let e := s.tiles.runnel[i]
    e.st != .free && e.owner == c && ! e.bound && ! e.drop)
  match q with
  | [] => none
  | i :: r => some (r.foldl (fun a b => if (s.tiles.runnel[b]).res < (s.tiles.runnel[a]).res then b else a) i)

/-! ### Decode checks of the words (Table 10-10, order 1; R146) -/

/-- Operation classes by xop. -/
def isValue (xop : Nat) : Bool := decide (xop < 0x20)
/-- Bit operations. -/
def isBit (xop : Nat) : Bool := decide (0x20 ≤ xop) && decide (xop < 0x30)
/-- Move operations. -/
def isMove (xop : Nat) : Bool := decide (0x30 ≤ xop) && decide (xop < 0x40)
/-- Reductions into the Cistern. -/
def isCred (xop : Nat) : Bool := decide (0x48 ≤ xop) && decide (xop ≤ 0x4D)

/-- The conditions on MOD, TS and LENM1 that concern only the words. l3 is the L3 specifier. -/
def rillWordsOk (xop : Nat) (ts : Bool) (m : Nat) (n : Nat) (l3 : Nat) : Bool :=
  if xop = 0x04 then
    let k := bits m 4 1
    ! tbit m 0 && (if 2 ≤ bits m 6 5 then decide (1 ≤ k) else k == 0)
  else if isValue xop then m % 128 == 0
  else if xop = 0x25 ∨ xop = 0x26 ∨ xop = 0x27 then decide (m < 32)
  else if isBit xop then m == 0
  else if xop = 0x30 then m == 0 && ! ts
  else if xop = 0x31 ∨ xop = 0x32 then m == 0 && ts
  else if xop = 0x33 then m == 0
  else if xop = 0x40 then ts && bits m 6 4 == 0 && decide (m % 8 < 6)
  else if isCred xop then bits m 7 6 != 3 && (xop == 0x4B || l3 == 0)
  else ! ts && bits m 7 6 == 0 && decide (bits m 5 0 + n ≤ 64) && decide (n ≤ 64)

/-! ### Checks of the locators (R230 to R233, R241, R242) -/

/-- What a position allows: sources by class; whether the position must, may or may not be present. -/
inductive Need where
  | must
  | may
  | no
  deriving DecidableEq, Repr

/-- The sources of an operation (Table 10-4). -/
def needs (xop : Nat) : Need × Need × Need :=
  if xop = 0x04 then (.must, .may, .may)
  else if xop = 0x0C then (.must, .must, .must)
  else if xop = 0x25 ∨ xop = 0x26 ∨ xop = 0x27 then (.must, .may, .no)
  else if [0x01, 0x02, 0x03, 0x05, 0x06, 0x09, 0x0A, 0x0B, 0x20, 0x21, 0x22, 0x23, 0x28, 0x29, 0x2A, 0x30, 0x31].contains xop then
    (.must, .must, .no)
  else if xop = 0x4E then (.may, .no, .no)
  else if xop = 0x4F then (.no, .no, .no)
  else (.must, .no, .no)

/-- Whether a position's presence is as needed. -/
def Need.ok (n : Need) (l : Word) : Bool :=
  match n with
  | .must => present l
  | .may => true
  | .no => ! present l

/-- Block-scale rules for an operand of format f over a blocked dimension. -/
def bsOk (f : TFmt) (bs : Bool) (sz dim : Nat) : Bool := (! bs || ! f.bsNever) && (bs || ! f.bsReq) && (! bs || decide (sz ≤ dim))

/-- The conditions of order 1 on a source locator. Bits [49:48] of a locator, and FMT of one of KIND NONE, are reserved and ignored.
[DEDUCED, log 63] [DESIGN CHOICE, log 146] -/
def srcOk (st : Strand) (o : RillOp) (l : Word) (tag : Nat) : Bool :=
  let rows := o.rows
  let e := o.n
  let kind := locKind l
  let lf := tfmtOf (locFmt l)
  let lfOk := locFmt l != 0x4 && lf.isSome
  let lin := fun (len : Nat) => lfOk && ! locBdir l && (match lf with | some f => bsOk f (locBs l) (locSz l) len | none => false)
  ! locSg l && (kind == 3 || ! locKeep l) && (match kind with
    | 0 => true
    | 1 => o.ts && bits l.toNat 21 4 == 0 && tOk st (locReg l) && (tagFmt tag != 0xA || locFmt l == 0xA || locFmt l == 0xB)
        && (match tfmtOf (tagFmt tag) with
          | some f => f.perRow (rowLen o.shape) == e && bsOk f (tagBs tag) (bszOf (bits tag 10 9)) (if tbit tag 11 then rows else e)
          | none => false)
    | 2 => o.ts && bits l.toNat 21 4 == 0 && aOk st (locReg l) && e == accCols o.shape && ! locBs l
    | 3 => o.ts && e == accCols o.shape && ! locBs l
    | 4 => o.ts && lfOk && (match lf with | some f => bsOk f (locBs l) (locSz l) (if locBdir l then rows else e) | none => false)
    | 5 => ! o.ts && lin e
    | 6 => o.ts && lin e
    | 7 => o.ts && lin rows
    | 8 => lfOk && ! locBs l && (match lf with | some f => bsOk f false 8 1 | none => false)
    | _ => false)

/-- The conditions of order 1 on the destination of a Rill operation; n is the length of a linear destination.
[DEDUCED, log 63] -/
def dstOk (st : Strand) (o : RillOp) (ts : Bool) (n : Nat) : Bool :=
  let l := o.ld
  let lf := tfmtOf (locFmt l)
  ! locKeep l && locFmt l != 0x4 && (match lf with
    | none => false
    | some f =>
      match locKind l with
      | 1 => ts && bits l.toNat 21 4 == 0 && tOk st (locReg l) && f.perRow (rowLen o.shape) == n
          && bsOk f (locBs l) (locSz l) (if locBdir l then o.rows else n)
      | 2 => ts && bits l.toNat 21 4 == 0 && aOk st (locReg l) && n == accCols o.shape && decide (0xA ≤ locFmt l) && ! locBs l
      | 4 => ts && bsOk f (locBs l) (locSz l) (if locBdir l then o.rows else n)
      | 5 => ! ts && ! locBdir l && bsOk f (locBs l) (locSz l) n
      | _ => false)

/-- The format of a source; int gives INT of the Runnel entry or accumulator that a locator names. -/
def srcFmtOf (int : Word → Bool) (l : Word) (tag : Nat) : Option TFmt := if locKind l = 0 then none else srcFmt l tag (int l)

/-- Result elements of an RRED. -/
def rredLen (o : RillOp) : Nat := if tbit o.modf.toNat 3 then o.n else o.rows

/-- The rules of one operation (order 1). [DESIGN CHOICE, log 146] -/
def opOk (ints : Word → Bool) (st : Strand) (o : RillOp) : Bool :=
  let f1 := srcFmtOf ints o.s1 o.tag1.toNat
  let f2 := srcFmtOf ints o.s2 o.tag2.toNat
  let fd := tfmtOf (locFmt o.ld)
  let int := fun (f : Option TFmt) => match f with | some f => f.isInt | none => false
  let x := o.xop
  let shapeOk := ! o.ts || [accCols o.shape / 2, accCols o.shape, 2 * accCols o.shape, 4 * accCols o.shape].contains o.n
  let nd := needs x
  let srcs := nd.1.ok o.s1 && srcOk st o o.s1 o.tag1.toNat && nd.2.1.ok o.s2 && srcOk st o o.s2 o.tag2.toNat
  let noSg := [o.s1, o.s2, o.s3].all (fun l => present l || ! locSg l)
  let free := noSg && ! locKeep o.ld && ! locKeep o.s1 && ! locKeep o.s2 && ! locKeep o.s3
  if x = 0x4E then locKind o.ld == 0 && (locKind o.s1 == 0 || locKind o.s1 == 5) && ! present o.s2 && ! present o.s3 && free
  else if x = 0x4F then locKind o.ld == 5 && ! present o.s1 && ! present o.s2 && ! present o.s3 && free
  else if isCred x then
    let m := o.modf.toNat
    let top := match bits m 7 6 with
      | 0 => 0
      | 1 => if o.ts then o.rows - 1 else (o.n - 1) / 64
      | _ => if o.ts then o.n - 1 else min (o.n - 1) 63
    shapeOk && srcs && locKind o.ld == 0 && ! locKeep o.ld && decide (bits m 5 0 + top ≤ 63)
  else if x = 0x40 then
    shapeOk && srcs && ! present o.s3 && srcOk st o o.s3 o.tag3.toNat && (locKind o.s1 == 2 || (locKind o.s1 == 1 && decide (locReg o.s1 < 4)))
      && locKind o.ld == 5 && dstOk st o false (rredLen o) && (o.modf.toNat % 8 != 3 || locFmt o.ld == 0xB)
  else
    shapeOk && srcs && nd.2.2.ok o.s3 && srcOk st o o.s3 o.tag3.toNat && dstOk st o o.ts o.n &&
      (if isBit x then int f1 && (! present o.s2 || int f2) && int fd
       else if isMove x then f1 == fd && ! locBs o.s1 && ! locBs o.ld
          && (locKind o.s1 != 1 || ! tagBs o.tag1.toNat) && (! present o.s2 || int f2) && (x != 0x32 || o.n == o.rows)
       else true)

/-- The sources of an operation with their tags; the third position of CRED.AMAX is a number, not a locator (R249), and CINIT and CDRAIN have
no operand with elements. -/
def RillOp.operands (o : RillOp) : List (Word × Nat) :=
  if o.xop = 0x4E ∨ o.xop = 0x4F then []
  else if o.xop = 0x4B then [(o.s1, o.tag1.toNat), (o.s2, o.tag2.toNat)]
  else [(o.s1, o.tag1.toNat), (o.s2, o.tag2.toNat), (o.s3, o.tag3.toNat)]

/-- The scratchpad bytes of a destination's elements and scales. -/
def dstRanges (o : RillOp) : List (Nat × Nat) × List (Nat × Nat) :=
  if o.xop = 0x4E ∨ o.xop = 0x4F then ([], [])
  else
    let red := o.xop == 0x40
    let r := if red then 1 else o.rows
    let n := if red then rredLen o else o.n
    ((match tfmtOf (locFmt o.ld) with | some f => locRanges o.ld f r n | none => []), locScales o.ld r n)

/-- Scratchpad ranges that an operation reads: its sources with their scales, given scales of its destination, CINIT's slots. -/
def readRanges (o : RillOp) : List (Nat × Nat) :=
  if o.xop = 0x4E then (if locKind o.s1 = 5 then [(locOff o.s1, 8 * o.n)] else [])
  else o.operands.flatMap (fun p => srcRanges o p.1 p.2) ++ (if locSg o.ld then (dstRanges o).2 else [])

/-- Scratchpad ranges of every operand in the order ld, s1, s2, s3, elements then scales. -/
def allRanges (o : RillOp) : List (Nat × Nat) :=
  if o.xop = 0x4E then readRanges o
  else if o.xop = 0x4F then [(locOff o.ld, 8 * o.n)]
  else (dstRanges o).1 ++ (dstRanges o).2 ++ o.operands.flatMap (fun p => srcRanges o p.1 p.2)

/-- Whether a locator is a scratchpad operand. -/
def isSpLoc (l : Word) : Bool := decide (4 ≤ locKind l) && decide (locKind l ≤ 7)

/-- The first offending scratchpad byte of order 3, if any: a misaligned OFF first, then the ranges, in the order ld, its scales, s1, s2, s3.
[DESIGN CHOICE, log 146] -/
def spOffence (s : State) (o : RillOp) : Option Nat :=
  let locs := if o.xop = 0x4B then [o.ld, o.s1, o.s2] else [o.ld, o.s1, o.s2, o.s3]
  match locs.find? (fun l => isSpLoc l && locOff l % 16 != 0) with
  | some l => some (spw + locOff l)
  | none =>
    match (allRanges o).find? (fun r => decide (s.spadSize < r.1 + r.2)) with
    | some r => some (spw + max r.1 s.spadSize)
    | none => none

/-! ### Dispatch (R256) -/

/-- The registers that locators read (0 to 19), and the Runnel entry. -/
def regOf (l : Word) : List Nat := if locKind l = 1 then [locReg l] else if locKind l = 2 then [16 + locReg l] else []

/-- An operation of group 0x3A as dispatched: its locators with the tags that it sees, and the Runnel entry at the head of its queue. -/
def rillOp (s : State) (c : CtxId) (xop : Nat) (ts : Bool) (modf : BitVec 8) (lenm1 : Nat) (ld l1 l2 l3 : Word) : RillOp :=
  let tag := fun (l : Word) => if locKind l = 1 then w64 (s.tagOf c (locReg l)) else 0
  let runnel := [l1, l2, if xop = 0x4B then 0 else l3].filter (fun l => locKind l == 3)
  { xop := xop, ts := ts, modf := modf, n := lenm1 + 1, shape := (s.str c.k).num.tshape, prof := s.core.prof, ld := ld, s1 := l1, s2 := l2,
    s3 := l3, tag1 := tag l1, tag2 := tag l2, tag3 := if xop = 0x4B then 0 else tag l3,
    entry := if runnel.isEmpty then none else runnelHead s c, keep := runnel.any locKeep, got := none }

/-- INT of what a locator names, as an operation dispatched now sees it. -/
def intOf (s : State) (c : CtxId) (o : RillOp) (l : Word) : Bool :=
  if locKind l = 2 then tbit (s.tagOf c (16 + locReg l)) 0
  else match o.entry with | some e => (s.tiles.runnel[e]).int | none => false

/-- Whether the profile refuses a CRED.SUM or CRED.SSQ (R250, order 2). -/
def credRefused (prof : BitVec 2) (xop : Nat) (f : Option TFmt) : Bool :=
  let g := f.getD .f32
  let code := if g.bits ≤ 16 then
      (match g with | .i8 => 0 | .i4 => 1 | .f16 => 2 | .b16 => 3 | .b16s => 4 | .f8e4 => 5 | .f8e5 => 6 | _ => 9) else 0x2
  (xop == 0x48 || xop == 0x4C) && prof != 0b11 && ! profFmt prof.toNat code

/-- Dispatch an operation that has passed its checks; one that consumes its Runnel entry takes it off the queue (R244). -/
def putRill (s : State) (c : CtxId) (o : RillOp) (chain : Bool) : State :=
  let s1 := match o.entry with
    | some e => if o.keep then s else s.modTiles (fun t => { t with runnel := vmod t.runnel e (fun q => { q with bound := true }) })
    | none => s
  let en := match o.entry with | some e => [32 + e.val] | none => []
  let srcs := if o.xop = 0x4B then [o.s1, o.s2] else [o.s1, o.s2, o.s3]
  let spRd := srcs.any isSpLoc || (locBs o.ld && locSg o.ld) || [o.tag1, o.tag2, o.tag3].any (fun t => tagBs t.toNat)
  let spWr := isSpLoc o.ld || (locKind o.ld != 0 && locBs o.ld)
  let tags := match destTag o.ld with | some t => [(t.1, w64 t.2)] | none => []
  dispatch s1 c (if isCistern o.xop then .cistern else .rill) (srcs.flatMap regOf ++ en) (regOf o.ld) spRd spWr tags chain (.rill o)

/-- Whether locators name a tile register or accumulator: the operation is then a tile instruction (R256). -/
def isTileOp (xop : Nat) (ld l1 l2 l3 : Word) : Bool :=
  (if xop = 0x4B then [ld, l1, l2] else [ld, l1, l2, l3]).any (fun l => locKind l == 1 || locKind l == 2)

/-- Dispatch an operation of group 0x3A with locators ld, l1, l2, l3 of context c. [DEDUCED, log 73] -/
def doRill (s : State) (c : CtxId) (xop : Nat) (ts : Bool) (modf : BitVec 8) (lenm1 : Nat) (ld l1 l2 l3 : Word) (chain : Bool) : DRes :=
  let go := fun (s : State) =>
    let o := rillOp s c xop ts modf lenm1 ld l1 l2 l3
    let runnel := [l1, l2, if xop = 0x4B then 0 else l3].any (fun l => locKind l == 3)
    if ! opOk (intOf s c o) (s.str c.k) o || (runnel && o.entry.isNone) then dIll s
    else if credRefused s.core.prof xop (srcFmtOf (intOf s c o) l1 o.tag1.toNat) then .event (mkEv 0x18 0 0 .ul) s
    else
      match spOffence s o with
      | some a => .event (mkEv 0x0D (w64 a) 0 .ul) s
      | none => if profHold s c.k then .wait s else .ok (putRill s c o chain)
  if isTileOp xop ld l1 l2 l3 then (prepare s c).bind go else go s

/-- The frame of an operation of group 0x3A of the strand. -/
def rillI (xop : Nat) (w : RillWords) (s : State) : Out :=
  .next (instr 8 false true s (fun k s =>
    let st := s.str k
    let n := w.lenm1.toNat + 1
    if ! (xOk w.ld && xOk w.l1 && xOk w.l2 && xOk w.l3) || ! rillWordsOk xop w.ts w.modf.toNat n w.l3.toNat then illegal s
    else
      let c : CtxId := { k := k, lv := st.status.lvl }
      let tile := isTileOp xop (st.x w.ld) (st.x w.l1) (st.x w.l2) (st.x w.l3)
      if (s.chainOf c).active || s.ckHold || s.tiles.tmu.gang.forming.isSome then .wait s
      else if tile && s.lentHold c then liftD k (.tile s)
      else liftD k (doRill s c xop w.ts w.modf w.lenm1.toNat (st.x w.ld) (st.x w.l1) (st.x w.l2) (st.x w.l3) false)))

def execRillMov (w : RillWords) (s : State) : Out := rillI 0x00 w s
def execRillAdd (w : RillWords) (s : State) : Out := rillI 0x01 w s
def execRillSub (w : RillWords) (s : State) : Out := rillI 0x02 w s
def execRillMul (w : RillWords) (s : State) : Out := rillI 0x03 w s
def execEpi (w : RillWords) (s : State) : Out := rillI 0x04 w s
def execRillMin (w : RillWords) (s : State) : Out := rillI 0x05 w s
def execRillMax (w : RillWords) (s : State) : Out := rillI 0x06 w s
def execAbs (w : RillWords) (s : State) : Out := rillI 0x07 w s
def execNeg (w : RillWords) (s : State) : Out := rillI 0x08 w s
def execCmpeq (w : RillWords) (s : State) : Out := rillI 0x09 w s
def execCmplt (w : RillWords) (s : State) : Out := rillI 0x0A w s
def execCmple (w : RillWords) (s : State) : Out := rillI 0x0B w s
def execSelI (w : RillWords) (s : State) : Out := rillI 0x0C w s
def execRcp (w : RillWords) (s : State) : Out := rillI 0x10 w s
def execSqrt (w : RillWords) (s : State) : Out := rillI 0x11 w s
def execRsqrt (w : RillWords) (s : State) : Out := rillI 0x12 w s
def execExp2 (w : RillWords) (s : State) : Out := rillI 0x13 w s
def execLog2 (w : RillWords) (s : State) : Out := rillI 0x14 w s
def execExp (w : RillWords) (s : State) : Out := rillI 0x15 w s
def execTanh (w : RillWords) (s : State) : Out := rillI 0x16 w s
def execSigm (w : RillWords) (s : State) : Out := rillI 0x17 w s
def execRillAnd (w : RillWords) (s : State) : Out := rillI 0x20 w s
def execRillOr (w : RillWords) (s : State) : Out := rillI 0x21 w s
def execRillXor (w : RillWords) (s : State) : Out := rillI 0x22 w s
def execRillAndn (w : RillWords) (s : State) : Out := rillI 0x23 w s
def execRillNot (w : RillWords) (s : State) : Out := rillI 0x24 w s
def execShl (w : RillWords) (s : State) : Out := rillI 0x25 w s
def execShrl (w : RillWords) (s : State) : Out := rillI 0x26 w s
def execShra (w : RillWords) (s : State) : Out := rillI 0x27 w s
def execAddw (w : RillWords) (s : State) : Out := rillI 0x28 w s
def execSubw (w : RillWords) (s : State) : Out := rillI 0x29 w s
def execMulw (w : RillWords) (s : State) : Out := rillI 0x2A w s
def execPerm (w : RillWords) (s : State) : Out := rillI 0x30 w s
def execRperm (w : RillWords) (s : State) : Out := rillI 0x31 w s
def execTrn (w : RillWords) (s : State) : Out := rillI 0x32 w s
def execMovc (w : RillWords) (s : State) : Out := rillI 0x33 w s
def execRred (w : RillWords) (s : State) : Out := rillI 0x40 w s
/-- [DEDUCED, log 63] -/
def execCredSum (w : RillWords) (s : State) : Out := rillI 0x48 w s
def execCredMax (w : RillWords) (s : State) : Out := rillI 0x49 w s
def execCredMin (w : RillWords) (s : State) : Out := rillI 0x4A w s
def execCredAmax (w : RillWords) (s : State) : Out := rillI 0x4B w s
def execCredSsq (w : RillWords) (s : State) : Out := rillI 0x4C w s
def execCredCnz (w : RillWords) (s : State) : Out := rillI 0x4D w s
/-- [DEDUCED, log 63] -/
def execCinit (w : RillWords) (s : State) : Out := rillI 0x4E w s
/-- [DEDUCED, log 63] -/
def execCdrain (w : RillWords) (s : State) : Out := rillI 0x4F w s

/-! ### RDROP and RSUM -/

/-- RDROP of a context (R245). -/
def doRdrop (s : State) (c : CtxId) : DRes :=
  match runnelHead s c with
  | none => .ok s
  | some i =>
    if (s.tiles.runnel[i]).st = .ready then .ok (releaseEntry s i)
    else .ok (s.modTiles (fun t => { t with runnel := vmod t.runnel i (fun e => { e with drop := true }) }))

def execRdrop (s : State) : Out :=
  .next (instr 8 false true s (fun k s =>
    let c : CtxId := { k := k, lv := (s.str k).status.lvl }
    if (s.chainOf c).active || s.ckHold then .wait s else liftD k (doRdrop s c)))

/-- Whether a summarising operation of strand k is still to apply (R253). -/
def sumPending (s : State) (k : StrandId) : Bool := s.tiles.inflight.any (fun o => o.ctx.k == k && o.unit == .rill)

/-- Whether a counting operation of strand k is still to apply (R226). -/
def countPending (s : State) (k : StrandId) : Bool := s.tiles.inflight.any (fun o => o.ctx.k == k && o.counts)

def execRsum (rd : RSpec) (sel : Bool) (s : State) : Out :=
  extBarred s (fun k s =>
    if ! xOk rd then illegal s
    else
      let c : CtxId := { k := k, lv := (s.str k).status.lvl }
      if (s.chainOf c).active || s.ckHold || sumPending s k then .wait s
      else .done (s.setX k rd (if sel then (s.str k).num.rowf else (s.str k).num.sumr)))

/-! ### Completion (R258) -/

/-- The operation at the head of a unit. -/
def unitHead (s : State) (u : TUnit) : Option (TOp × RillOp) :=
  match s.tiles.inflight.find? (fun o => o.unit == u) with
  | none => none
  | some o => match o.body with
    | .rill r => some (o, r)
    | _ => none

/-- Whether an operation's sources are ready. [DESIGN CHOICE, log 64] -/
def rillReady (s : State) (o : TOp) (r : RillOp) : Bool :=
  ! s.blocked o && (r.got.isSome || (match r.entry with | some e => (s.tiles.runnel[e]).st == .ready | none => true))

/-- A consuming read has taken its entry's last element: the entry is FREE. [DESIGN CHOICE, log 65] -/
def freeEntry (s : State) (r : RillOp) : State :=
  match r.entry with
  | none => s
  | some e => if r.keep || r.got.isSome then s else releaseEntry s e

/-- RUNNEL_ENTRY_FREED: the running Rill operation, or else the running Cistern operation, has read its entry.
[DESIGN CHOICE, log 64] -/
def execRunnelEntryFreed (s : State) : Out :=
  .next (
    let can := fun (u : TUnit) => match unitHead s u with
      | some (o, r) => if r.entry.isSome && ! r.keep && r.got.isNone && rillReady s o r then some (o, r) else none
      | none => none
    match can .rill with
    | some (_, r) => freeEntry s r
    | none =>
      match can .cistern with
      | some (_, r) => freeEntry s r
      | none => s)

/-- A Runnel entry with a parity error that is read. -/
def entryPar (s : State) (r : RillOp) : Option (Nat × Nat) :=
  match r.entry with
  | none => none
  | some e => ((List.range 64).find? (fun row => (s.markAt 0x0A (parInfo (16 + e.val) row)).isSome)).map (fun row => (e.val, row))

/-- The scratchpad bytes that an operation reads are met: whether every word can be delivered. -/
def rillMeet (s : State) (k : StrandId) (r : RillOp) : Bool × State :=
  if s.marks.isEmpty then (true, s)
  else (readRanges r).foldl (fun (a : Bool × State) q => if a.1 then spMeet a.2 k q.1 q.2 else a) (true, s)

/-- An operation with what it reads of its Runnel entry. -/
def withEntry (s : State) (r : RillOp) : RillOp :=
  if r.got.isSome then r
  else match r.entry with
    | some e => { r with got := some ((s.tiles.runnel[e]).data, (s.tiles.runnel[e]).int) }
    | none => r

/-- Complete the operation at the head of a unit; one that meets an uncorrectable word leaves nothing.
[DESIGN CHOICE, log 64] -/
def completeRill (u : TUnit) (s : State) : State :=
  match unitHead s u with
  | none => s
  | some (o, r) =>
    if ! rillReady s o r then s
    else
      let k := o.ctx.k
      let par := s.parAt (s.ctxOf o.ctx).bank (o.rd.filter (· < 20)) (nRows r.shape)
      let ep := entryPar s r
      let s0 := match par with
        | some h => tilePar s k h
        | none => match ep with
          | some h => consume31 s k 0x0A (parInfo (16 + h.1) h.2)
          | none => s
      let r1 := withEntry s0 r
      let m := rillMeet (freeEntry s0 r) k r1
      settle (if m.1 then
          (if isCistern r.xop then cisternApply m.2 o.ctx o.id r1 else rillApply m.2 o.ctx o.id r1 (par.isSome || ep.isSome))
        else m.2.dropOp o.id)

/-- RILL_OP_COMPLETE: the oldest Rill operation completes. -/
def execRillOpComplete (s : State) : Out := .next (completeRill .rill s)

/-- CISTERN_OP_COMPLETE: the oldest Cistern operation completes. -/
def execCisternOpComplete (s : State) : Out := .next (completeRill .cistern s)

end Sys2Proof.Machine
end

