-- ==== Sys2Proof/Machine/Desc.lean ====
section
/-! DEFINITION. Tensor descriptors: slots, their instructions, views, and the start of a descriptor chain (11). -/

namespace Sys2Proof.Machine

open Sys2Proof

/-! ### The descriptor (Table 11-1) -/

/-- Doubleword i of a descriptor. -/
def dwAt (d : Vector Word 8) (i : Nat) : Nat := (d.getD i 0).toNat
/-- TYPE. -/
def dType (d : Vector Word 8) : Nat := bits (dwAt d 0) 63 62
/-- RANK. -/
def dRank (d : Vector Word 8) : Nat := bits (dwAt d 0) 61 59
/-- TPOL. -/
def dTpol (d : Vector Word 8) : Nat := bits (dwAt d 0) 58 57
/-- FMT. -/
def dFmt (d : Vector Word 8) : Nat := bits (dwAt d 0) 55 52
/-- FMT as a tile tag holds it: binary32 for INT32. -/
def dFmtT (d : Vector Word 8) : Nat := if dFmt d = 0xB then 0xA else dFmt d
/-- BS. -/
def dBs (d : Vector Word 8) : Bool := tbit (dwAt d 0) 51
/-- BSZ. -/
def dBsz (d : Vector Word 8) : Nat := bits (dwAt d 0) 50 49
/-- BDIR. -/
def dBdir (d : Vector Word 8) : Bool := tbit (dwAt d 0) 48
/-- BASE. -/
def dBase (d : Vector Word 8) : Nat := bits (dwAt d 0) 47 0
/-- LSEL of dimension i. -/
def dLsel (d : Vector Word 8) (i : Nat) : Nat := bits (dwAt d 1) (49 + 2 * i) (48 + 2 * i)
/-- SBASE. -/
def dSbase (d : Vector Word 8) : Nat := bits (dwAt d 1) 47 0
/-- EXT of dimension i. -/
def dExt (d : Vector Word 8) (i : Nat) : Nat :=
  match i with
  | 0 => bits (dwAt d 2) 23 0
  | 1 => bits (dwAt d 2) 47 24
  | 2 => bits (dwAt d 3) 23 0
  | 3 => bits (dwAt d 3) 47 24
  | _ => bits (dwAt d 4) 23 0
/-- FILL. -/
def dFill (d : Vector Word 8) : Nat := bits (dwAt d 4) 63 32
/-- STR of dimension i, 1 to 4, in units of 16 bytes. -/
def dStr (d : Vector Word 8) (i : Nat) : Int :=
  sInt 32 (match i with
    | 1 => bits (dwAt d 5) 31 0
    | 2 => bits (dwAt d 5) 63 32
    | 3 => bits (dwAt d 6) 31 0
    | _ => bits (dwAt d 6) 63 32)
/-- Whether a tensor is a scratchpad descriptor. -/
def dSpad (d : Vector Word 8) : Bool := isWin (w64 (dBase d))

/-- The content check of R261. -/
def descOk (d : Vector Word 8) : Bool :=
  if dType d = 1 then true
  else if dType d ≠ 0 then false
  else
    match tfmtOf (dFmt d) with
    | none => false
    | some f =>
      dFmt d != 0x4 && decide (1 ≤ dRank d) && decide (dRank d ≤ 5) && dTpol d != 3
        && ([0, 1, 2, 3, 4].all (fun i => dLsel d i != 3
          && (if i < dRank d then dExt d i != 0 else dExt d i == 1 && dLsel d i == 0)))
        && dBase d % 16 == 0 && ! (dBs d && f.bsNever) && (dBs d || ! f.bsReq)
        && (dTpol d == 0 || dExt d 0 * f.bits % 8 == 0)
        && (! dBs d || ! dSpad d || (isWin (w64 (dSbase d)) && dSbase d % 64 == 0))

/-! ### Slots (R260, R263) -/

/-- Slot d of strand k. -/
def State.dslot (s : State) (k : StrandId) (d : Nat) : DSlot := (s.str k).dslots.getD d DSlot.zero

/-- Change slot d of strand k. -/
def State.modSlot (s : State) (k : StrandId) (d : Nat) (f : DSlot → DSlot) : State :=
  s.modStr k (fun t => { t with dslots := vupd t.dslots d f })

/-- Whether an active chain of the strand pins slot d (R268). -/
def State.slotPinned (s : State) (k : StrandId) (d : Nat) : Bool :=
  (s.str k).chains.any (fun q => q.active && decide (q.dbase.toNat ≤ d) && decide (d < q.dbase.toNat + q.dcnt))

/-- The descriptor fault with a reason. -/
def descFault (fa : Word) (reason : Nat) : Ev := mkEv 0x1C fa reason .ul

/-- The slot check with reason 0x02, and with reason 0x03 where pins count. [DEDUCED, log 68] -/
def slotCheck (s : State) (k : StrandId) (d : Nat) (pins : Bool) : Option Ev :=
  let q := s.dslot k d
  if q.valid && (s.str k).status.lvl.below q.tag then some (descFault q.lda 0x02)
  else if pins && q.valid && s.slotPinned k d then some (descFault q.lda 0x03)
  else none

/-- A parity error in a slot that strand k uses: machine check 0x30 pending on the strand (Table 17-1). -/
def dslotMeet (s : State) (k : StrandId) (ds : List Nat) : Option State :=
  if s.marks.isEmpty then none
  else (ds.find? (fun d => (s.markAt 0x10 (64 * k.val + d)).isSome)).map (fun d =>
    consume30 (s.dropMark 0x10 (64 * k.val + d)) k 0x10 (64 * k.val + d) none)

/-- The frame of DLD, DST and DINV: decode, and the wait of R273. -/
def slotI (s : State) (ok : Bool) (body : StrandId → State → Res) : Out :=
  .next (instr 8 false true s (fun k s =>
    if ! ok then illegal s
    else
      let c : CtxId := { k := k, lv := (s.str k).status.lvl }
      if (s.chainOf c).active then .wait s else body k s))

/-- The eight doublewords of 64 bytes. -/
def descOf (b : List Byte) : Vector Word 8 := Vector.ofFn (fun j : Fin 8 => (dwords b 8).getD j.val 0)

/-- The bits of doubleword i of a descriptor that are not reserved (Table 11-1): SBASE is a field only when BS = 1, and a literal has TYPE and
LOC alone. -/
def descMask (d : Vector Word 8) (i : Nat) : Nat :=
  if dType d = 1 then (match i with | 0 => 0xC000000000000000 | 1 => 2 ^ 64 - 1 | _ => 0)
  else
    match i with
    | 0 => 0xFEFFFFFFFFFFFFFF
    | 1 => 0x03FF000000000000 + (if dBs d then 2 ^ 48 - 1 else 0)
    | 2 => 2 ^ 48 - 1
    | 3 => 2 ^ 48 - 1
    | 4 => 0xFFFFFFFF00FFFFFF
    | 5 => 2 ^ 64 - 1
    | 6 => 2 ^ 64 - 1
    | _ => 0

/-- The 64 bytes that DST stores of a slot: reserved fields 0 (R11), and an invalid slot all 0. -/
def dstBytes (q : DSlot) : List Byte :=
  if q.valid then (List.range 8).flatMap (fun i => toLE 8 (dwAt q.dw i &&& descMask q.dw i)) else toLE 64 0

/-- [DEDUCED, log 15] -/
def execDld (d : BitVec 6) (rs1 : RSpec) (s : State) : Out :=
  slotI s (xOk rs1) (fun k s =>
    let a := (s.str k).x rs1
    if a.toNat % 64 ≠ 0 then .event (mkEv 0x0D a 0 .ul) s
    else match loadBlock s (s.xctx k) a 64 64 with
      | .fault e s1 => .event e s1
      | .check s1 => .wait s1
      | .ok b s1 =>
        match slotCheck s1 k d.toNat true with
        | some e => .event e s1
        | none =>
          if descOk (descOf b) then
            .done ((s1.dropMark 0x10 (64 * k.val + d.toNat)).modSlot k d.toNat (fun _ => { valid := true, tag := (s1.str k).status.lvl, lda := a, dw := descOf b }))
          else .event (descFault a 0x01) s1)

/-- DST: the whole 64 bytes are translated first (R263), then the slot is checked, then the store is made. [DEDUCED, log 15] -/
def execDst (d : BitVec 6) (rs1 : RSpec) (s : State) : Out :=
  slotI s (xOk rs1) (fun k s =>
    let a := (s.str k).x rs1
    if a.toNat % 64 ≠ 0 then .event (mkEv 0x0D a 0 .ul) s
    else match placeUnits (s.xctx k) true 64 [a] [] s with
      | .error r => r
      | .ok (_, s1) =>
        match slotCheck s1 k d.toNat false with
        | some e => .event e s1
        | none =>
          match dslotMeet s1 k [d.toNat] with
          | some s2 => .wait s2
          | none =>
          if s1.ckHold && isWin a then .wait s1 else
          match storeBlock s1 (s1.xctx k) a (dstBytes (s1.dslot k d.toNat)) 64 with
          | .ok _ s2 => .done s2
          | .fault e s2 => .event e s2
          | .check s2 => .wait s2)

def execDinv (d : BitVec 6) (s : State) : Out :=
  slotI s true (fun k s =>
    match slotCheck s k d.toNat true with
    | some e => .event e s
    | none => .done (s.modSlot k d.toNat (fun q => { q with valid := false })))

/-! ### Views (R264 to R267) -/

/-- A view: its first element address, loop coordinates, in-range elements and rows. -/
structure DView where
  u : List Nat
  x0 : Nat
  x1 : Nat
  els : Nat
  rows : Nat
  part : Bool
  ea : Word
  rs : Word
  deriving DecidableEq, Repr

/-- Signed strides times 16, as a 64-bit word. -/
def strW (i : Int) : Word := BitVec.ofInt 64 (16 * i)

/-- The view of a tensor at loop counters io and ii, U0 by V1 (R264); none when an index is out of range. -/
def viewOf (d : Vector Word 8) (io ii u0 v1 : Nat) : Option DView :=
  let sel := fun (i : Nat) => match dLsel d i with | 0 => 0 | 1 => ii | _ => io
  let u := [0, 1, 2, 3, 4].map sel
  let x0 := (sel 0 * u0) % 2 ^ 32
  let x1 := (sel 1 * v1) % 2 ^ 32
  if dExt d 0 ≤ x0 ∨ dExt d 1 ≤ x1 ∨ ([2, 3, 4].any (fun i => decide (dExt d i ≤ sel i))) then none
  else
    let w := (tfmtOf (dFmt d)).elim 8 (fun f => f.bits)
    let rs := strW (dStr d 1)
    let ea := w64 (dBase d) + w64 (x0 * w / 8) + w64 x1 * rs + strW (dStr d 2) * w64 (sel 2) + strW (dStr d 3) * w64 (sel 3)
      + strW (dStr d 4) * w64 (sel 4)
    some { u := u, x0 := x0, x1 := x1, els := min u0 (dExt d 0 - x0), rows := min v1 (dExt d 1 - x1),
           part := decide (dExt d 0 < x0 + u0) || decide (dExt d 1 < x1 + v1), ea := ea, rs := rs }

/-- Ceiling of a quotient. -/
def ceilDiv (a b : Nat) : Nat := (a + b - 1) / b

/-- The index of the scale of an element in the scale array of a memory descriptor (R262); z is the part of dimensions 2 to 4. -/
def scaleIdx (d : Vector Word 8) (u : List Nat) (x0 x1 : Nat) : Nat :=
  let z := u.getD 2 0 + dExt d 2 * (u.getD 3 0 + dExt d 3 * u.getD 4 0)
  let sz := bszOf (dBsz d)
  if dBdir d then x0 + dExt d 0 * (x1 / sz + ceilDiv (dExt d 1) sz * z)
  else x0 / sz + ceilDiv (dExt d 0) sz * (x1 + dExt d 1 * z)

/-- SOFF of the scale array of a scratchpad view (R267); len is the array's size. -/
def viewSoff (d : Vector Word 8) (v : DView) (u0 v1 len : Nat) : Nat :=
  let t0 := ceilDiv (dExt d 0) u0
  let t1 := ceilDiv (dExt d 1) v1
  let g := fun (i : Nat) => v.u.getD i 0
  let n := g 0 + t0 * (g 1 + t1 * (g 2 + dExt d 2 * (g 3 + dExt d 3 * g 4)))
  (dSbase d + n * (ceilDiv len 64 * 64) - spw) / 64

/-- The runs of a scale copy: index in the tile array, virtual address, bytes; only blocks with an in-range element. e is
elements per tile row. -/
def scaleRuns (d : Vector Word 8) (v : DView) (e : Nat) : List (Nat × Word × Nat) :=
  let sz := bszOf (dBsz d)
  if dBdir d then
    (List.range (ceilDiv v.rows sz)).map (fun b =>
      (b * e, w64 (dSbase d + scaleIdx d v.u v.x0 (v.x1 + b * sz)), v.els))
  else
    (List.range v.rows).map (fun r =>
      (r * (e / sz), w64 (dSbase d + scaleIdx d v.u v.x0 (v.x1 + r)), ceilDiv v.els sz))

/-! ### Chain programs (Tables 11-5, 11-6; R269) -/

/-- The steps of a program. -/
def stepsOf : Nat → List Byte → List CStep
  | 0, _ => []
  | n + 1, b =>
    let g := fun (o w : Nat) => leNat ((b.drop o).take w)
    { wa := BitVec.ofNat 32 (g 0 4), wb := BitVec.ofNat 32 (g 4 4), b0 := BitVec.ofNat 16 (g 8 2), b1 := BitVec.ofNat 16 (g 10 2),
      b2 := BitVec.ofNat 16 (g 12 2), b3 := BitVec.ofNat 16 (g 14 2) } :: stepsOf n (b.drop 16)

/-- The op field of a step's first word. -/
def CStep.op (t : CStep) : Nat := bits t.wa.toNat 31 26
/-- The xop or control code of a step. -/
def CStep.xop (t : CStep) : Nat := bits t.wa.toNat 25 18
/-- The control code of a control step, 0 for an issue step. -/
def CStep.ctl (t : CStep) : Nat := if t.op = 0 then t.xop else 0
/-- V of a binding. -/
def bndV (b : BitVec 16) : Bool := b.getLsbD 15
/-- VIEW of a binding. -/
def bndView (b : BitVec 16) : Nat := bits b.toNat 14 12
/-- Slot offset of a binding. -/
def bndOff (b : BitVec 16) : Nat := bits b.toNat 5 0

/-- Whether a binding keeps to its fields. -/
def bndOk (b : BitVec 16) (dcnt : Nat) : Bool :=
  bits b.toNat 10 6 == 0 && decide (bndView b ≤ 3) && decide (bndOff b < dcnt)

/-- Whether a count word is well formed. -/
def countOk (wb dcnt : Nat) : Bool :=
  if tbit wb 31 then
    bits wb 30 14 == 0 && bits wb 5 3 == 0 && bits wb 7 6 != 3 && decide (bits wb 2 0 ≤ 4) && decide (bits wb 13 8 < dcnt)
  else bits wb 30 24 == 0

/-- Whether an issue step of group 0x3A names a defined xop other than RSUM. -/
def xop3A (x : Nat) : Bool :=
  decide (x ≤ 0x0C) || (decide (0x10 ≤ x) && decide (x ≤ 0x17)) || (decide (0x20 ≤ x) && decide (x ≤ 0x2A))
    || (decide (0x30 ≤ x) && decide (x ≤ 0x33)) || x == 0x40 || (decide (0x48 ≤ x) && decide (x ≤ 0x50))

/-- The rules of R269 for one step alone. -/
def stepOk (t : CStep) (dcnt : Nat) : Bool :=
  let bs := [t.b0, t.b1, t.b2, t.b3]
  let wb := t.wb.toNat
  bs.all (fun b => bndOk b dcnt) &&
  (if t.op = 0 then
    bits t.wa.toNat 17 0 == 0 && bs.all (· == 0) &&
      (match t.xop with
        | 1 => countOk wb dcnt
        | 2 => countOk wb dcnt
        | 3 => wb == 0
        | 4 => wb == 0
        | 5 => bits wb 31 25 == 0 && bits wb 3 1 == 0
        | _ => false)
  else if t.op = 0x39 then
    let mv := decide (t.xop ≤ 4)
    (decide (t.xop ≤ 5) || (decide (0x10 ≤ t.xop) && decide (t.xop ≤ 0x14))) && bits wb 31 24 == 0
      && bndV t.b0 == mv && bndView t.b0 == 0 && [t.b1, t.b2, t.b3].all (· == 0) && (! mv || bits t.wa.toNat 17 6 == 0)
  else if t.op = 0x3A then xop3A t.xop && bits t.wa.toNat 17 0 == 0 && bits wb 31 26 == 0
  else false)

/-- What is open while a program is read: LOOPO seen, LOOPO open, LOOPI open. -/
structure Nest where
  seen : Bool
  o : Bool
  i : Bool

/-- The nest after a step; none when the step breaks the structure. last says that it is the last one. -/
def Nest.step (n : Nest) (t : CStep) (last : Bool) : Option Nest :=
  if last && t.ctl != 5 then none
  else
    match t.ctl with
    | 1 => if n.seen || n.i then none else some { n with seen := true, o := true }
    | 2 => if n.i then none else some { n with i := true }
    | 3 => if n.i then some { n with i := false } else none
    | 4 => if n.o && ! n.i then some { n with o := false } else none
    | 5 => if last && ! n.o && ! n.i then some n else none
    | _ => some n

/-- The index of the first offending step of a program (R269). -/
def badStep (dcnt : Nat) : List CStep → Nat → Nest → Option Nat
  | [], _, _ => none
  | t :: r, i, n =>
    if ! stepOk t dcnt then some i
    else match n.step t r.isEmpty with
      | none => some i
      | some n1 => badStep dcnt r (i + 1) n1

/-- The first slot of a range that a chain of context c may not use (R270): its event. [DEDUCED, log 68] -/
def badSlot (s : State) (c : CtxId) (dbase dcnt : Nat) : Option Ev :=
  (List.range dcnt).findSome? (fun i =>
    let q := s.dslot c.k (dbase + i)
    if ! q.valid then some (descFault 0 0x02)
    else if c.lv.below q.tag then some (descFault q.lda 0x02)
    else none)

/-- The checks of R269 and R270 on the program read from address a, and the start of the chain of a context with slots dbase to
dbase + dcnt − 1. [DEDUCED, log 68] -/
def chainFrom (s : State) (c : CtxId) (a : Word) (b : List Byte) (n dbase dcnt : Nat) : DRes :=
  let prog := stepsOf n b
  match badStep dcnt prog 0 { seen := false, o := false, i := false } with
  | some i => .event (descFault (a + w64 (16 * i)) 0x06) s
  | none =>
    match badSlot s c dbase dcnt with
    | some e => .event e s
    | none =>
      .ok (s.modChain c (fun _ =>
        { st := .running, cause := 0, rsn := 0, step := 0, dbase := BitVec.ofNat 6 dbase, dcnt := dcnt, io := 0, ii := 0, no := 0,
          ni := 0, faddr := 0, prog := prog, paddr := a, record := none, killed := false }))

/-- DSCH's checks from R268 on and the start of the chain: n steps at address a, read as the strand's own loads. -/
def startChain (s : State) (c : CtxId) (a : Word) (n dbase dcnt : Nat) : DRes :=
  if a.toNat % 16 ≠ 0 then .event (mkEv 0x0D a 0 .ul) s
  else
    match loadBlock s (s.xctxAt c.k c.lv) a (16 * n) 16 with
    | .fault e s1 => .event e s1
    | .check s1 => .wait s1
    | .ok b s1 => chainFrom s1 c a b n dbase dcnt

def execDsch (rs1 : RSpec) (nsm1 dbase dcntm1 : BitVec 6) (s : State) : Out :=
  tileI s true (fun _ => xOk rs1 && decide (dbase.toNat + dcntm1.toNat ≤ 63)) (fun c s =>
    (startChain s c ((s.str c.k).x rs1) (nsm1.toNat + 1) dbase.toNat (dcntm1.toNat + 1)).bind (fun s => .ok (s.stampCtx c)))

/-! ### Status and stop (R278, Table 11-7) -/

/-- The code of a chain or engine state. -/
def RunSt.code : RunSt → Nat
  | .idle => 0
  | .running => 1
  | .suspended => 2
  | .done => 3
  | .aborted => 4

/-- What DSTAT returns. -/
def dstatWord (q : Chain) (sel : Nat) : Word :=
  if sel = 0 then w64 (fld q.cause.toNat 56 + fld q.rsn.toNat 48 + fld (q.step % 64) 32 + fld q.dbase.toNat 24 + q.st.code)
  else if sel = 1 then w64 (fld q.io 32 + q.ii)
  else q.faddr

def execDstat (rd : RSpec) (lv sel : BitVec 2) (s : State) : Out :=
  ext s (fun k s =>
    if ! xOk rd || ! lvOk lv || sel == 0b11 then illegal s
    else if (s.str k).status.lvl.below (lvlOf lv.toNat) then privileged s
    else .done (s.setX k rd (dstatWord (s.chainOf { k := k, lv := lvlOf lv.toNat }) sel.toNat)))

/-- DKILL (R278): the dispatched steps complete, then the chain is IDLE. -/
def execDkill (lv : BitVec 2) (s : State) : Out :=
  extBarred s (fun k s =>
    if ! lvOk lv then illegal s
    else if (s.str k).status.lvl.below (lvlOf lv.toNat) then privileged s
    else
      let c : CtxId := { k := k, lv := lvlOf lv.toNat }
      let q := killChain s c
      if q.1 then .done q.2 else .wait q.2)

end Sys2Proof.Machine
end

