-- ==== Sys2Proof/Machine/Chain.lean ====
section
/-! DEFINITION. The descriptor sequencer: the walk of a chain, the issue of its steps, and the count-based vector instructions
(11). -/

namespace Sys2Proof.Machine

open Sys2Proof

/-! ### Bindings (R266, R267) -/

/-- The slot that a binding or count word names. -/
def chainSlot (s : State) (c : CtxId) (off : Nat) : DSlot := s.dslot c.k ((s.chainOf c).dbase.toNat + off)

/-- A view failure with a reason of Table 11-8. -/
def viewFail (q : DSlot) (reason : Nat) (s : State) : DRes := .event (descFault q.lda reason) s

/-- Whether an operation of the strand in progress reads or writes the scratchpad. -/
def State.spBusy (s : State) (k : StrandId) : Bool := s.tiles.inflight.any (fun o => o.ctx.k == k && (o.spRd || o.spWr))

/-- The runs of a scale copy, cut where lines begin: index in the tile array, address, bytes. -/
def runCuts (rs : List (Nat × Word × Nat)) : List (Nat × Nat × Nat) :=
  rs.flatMap (fun r => (cutAt 128 (r.2.2 / 128 + 2) r.2.1.toNat r.2.2).map (fun c => (r.1 + (c.1 - r.2.1.toNat), c.1, c.2)))

/-- The bytes read for runs, each at its index of the array. -/
def placeRuns : List (Nat × Nat × Nat) → List Byte → List Byte → List Byte
  | [], _, arr => arr
  | (i, _, n) :: r, b, arr => placeRuns r (b.drop n) (patch arr i (b.take n))

/-- How an engine's access ends a step's check. -/
def MvR.stop : MvR → DRes
  | .ok _ s => .ok s
  | .fault e s => .event e s
  | .wait s => .wait s
  | .check s => .wait s

/-- The scale copy into the tile array before a TLD (R267), after every tile store of the strand that has been dispatched (R274); an array that runs past the scratchpad takes no bytes, and the tag's own check
(R137) then refuses the step. -/
def scaleIn (s : State) (c : CtxId) (d : Vector Word 8) (v : DView) (e r soff : Nat) : DRes :=
  if s.spBusy c.k || s.tiles.inflight.any (fun o => o.ctx.k == c.k && (match o.body with | .store _ => true | _ => false)) then .wait s
  else
    let len := scaleLen (bszOf (dBsz d)) e r
    let cs := runCuts (scaleRuns d v e)
    match engReadAll (s.xctxAt c.k c.lv) (cs.map (fun q => (q.2.1, q.2.2))) [] s with
    | .ok b s1 =>
      if s1.spadSize < 64 * soff + len then .ok s1
      else .ok (writeSpad s1 c.k [(64 * soff, placeRuns cs b (List.replicate len (0x7F : Byte)))])
    | q => q.stop

/-- The places of the scale copy that follows a TST (R267, R275): scratchpad offset and piece of each run. -/
def scaleOut (x : XCtx) (soff : Nat) : List (Nat × Nat × Nat) → List (Nat × MvPiece) → State → Except DRes (List (Nat × MvPiece) × State)
  | [], acc, s => .ok (acc, s)
  | (i, va, n) :: r, acc, s =>
    match engPlace s x .store (w64 va) n with
    | .error q => .error q.stop
    | .ok (p, s1) => scaleOut x soff r (acc ++ [(64 * soff + i, p)]) s1

/-- A TST step whose view holds, on a context that has its bank: FMT agrees with the tag (R266), then the places of the scale copy, then the
checks and the dispatch of TST. -/
def storeStep (s : State) (m : Move) (d : Vector Word 8) (q : DSlot) (v : DView) (e reg : Nat) : DRes :=
  let c := m.c
  let tag := s.tagOf c reg
  if tagFmt tag ≠ dFmtT d then viewFail q 0x07 s
  else if dBs d && ! dSpad d then
    match scaleOut (s.xctxAt c.k c.lv) (bits tag 37 22) (runCuts (scaleRuns d v e)) [] s with
    | .error r => r
    | .ok (sc, s1) => doTst s1 m reg sc
  else doTst s m reg []

/-- A TLD, TST, TLD.X, TLDA or TSTA step: its decode checks, its view checks and scale copy, then the reservation and the claim, then its
remaining checks (R272). What a view check asks of the register's tag comes after the claim. [DESIGN CHOICE, log 66] -/
def moveStep (s : State) (c : CtxId) (t : CStep) : DRes :=
  let st := s.str c.k
  let shape := st.num.tshape
  let wa := t.wa.toNat
  let acc := t.xop == 3 || t.xop == 4
  let reg := if acc then bits wa 5 4 else bits wa 5 2
  let decOk := (if acc then bits wa 3 0 == 0 && aOk st reg else bits wa 1 0 == 0 && tOk st reg && (t.xop != 2 || reg % 2 == 0))
    && (if t.xop = 0 then bits t.wb.toNat 23 16 == 0 else t.wb == 0)
  if ! decOk then dIll s
  else
    let q := chainSlot s c (bndOff t.b0)
    let d := q.dw
    let fmtOk := if acc then dFmt d == 0xA || dFmt d == 0xB else if t.xop = 2 then dFmt d == 0xA else true
    if dType d ≠ 0 ∨ ! fmtOk then viewFail q 0x07 s
    else
      let e := if acc then accCols shape else if t.xop = 2 then rowLen shape / 2 else elsOf s c (dFmtT d)
      match viewOf d (s.chainOf c).io (s.chainOf c).ii e (nRows shape) with
      | none => viewFail q 0x04 s
      | some v =>
        if v.part ∧ dTpol d = 0 then viewFail q 0x05 s
        else
          let m : Move :=
            { c := c, rb := v.ea, st := v.rs, els := v.els, rows := v.rows, fill := if dTpol d = 2 then dFill d else 0, chain := true }
          let len := scaleLen (bszOf (dBsz d)) e (nRows shape)
          let soff := if dBs d && dSpad d then viewSoff d v e (nRows shape) len else bits t.wb.toNat 15 0
          (if t.xop = 0 ∧ dBs d ∧ ! dSpad d then scaleIn s c d v e (nRows shape) soff else DRes.ok s).bind (fun s => (prepare s c).bind (fun s =>
            if t.xop = 0 then doTld s m reg (dFmtT d) (dBs d) (dBsz d) (dBdir d) soff
            else if t.xop = 1 then storeStep s m d q v e reg
            else if t.xop = 2 then doTldX s m reg
            else if t.xop = 3 then doTlda s m reg (dFmt d == 0xB)
            else if tbit (s.tagOf c (16 + reg)) 0 != (dFmt d == 0xB) then viewFail q 0x07 s
            else doTsta s m reg))

/-- The result of binding a position of a group 0x3A step. -/
inductive LocRes where
  | ok (l : Word)
  | fail (q : DSlot) (reason : Nat)
  | addr (ea : Word)

/-- The locator of a bound position (R266, R267); pos is 0 for Ld. -/
def bindLoc (s : State) (c : CtxId) (xop pos n : Nat) (b : BitVec 16) : LocRes :=
  if ! bndV b then .ok 0
  else
    let q := chainSlot s c (bndOff b)
    let d := q.dw
    let shape := (s.str c.k).num.tshape
    if dType d = 1 then .ok (d.getD 1 0)
    else if (xop = 0x4B ∧ pos = 3) ∨ ! dSpad d then .fail q 0x07
    else
      let r := nRows shape
      let dim := match bndView b with | 0 => (n, r) | 3 => (r, 1) | _ => (n, 1)
      match viewOf d (s.chainOf c).io (s.chainOf c).ii dim.1 dim.2 with
      | none => .fail q 0x04
      | some v =>
        if v.part then .fail q 0x05
        else if bndView b = 0 ∧ (dStr d 1 < 0 ∨ 1023 < dStr d 1) then .fail q 0x07
        else if v.ea.toNat < spw ∨ spw + 2 ^ 22 ≤ v.ea.toNat then .addr v.ea
        else
          let sz := bszOf (dBsz d)
          let len := if bndView b = 0 then scaleLen sz n r else ceilDiv dim.1 sz
          let soff := if dBs d then viewSoff d v dim.1 dim.2 len else 0
          let str := if bndView b = 0 then (dStr d 1).toNat else 0
          .ok (w64 (fld (bndView b + 4) 60 + fld (dFmt d) 56 + fld (bit (dBs d)) 55 + fld (dBsz d) 53 + fld (bit (dBdir d)) 52
            + fld (bit (b.getLsbD 11)) 51 + fld (soff % 65536) 32 + fld str 22 + (v.ea.toNat - spw)))

/-- A step of group 0x3A. -/
def rillStep (s : State) (c : CtxId) (t : CStep) : DRes :=
  let wb := t.wb.toNat
  if t.xop = 0x50 then (if wb ≠ 0 then dIll s else doRdrop s c)
  else
    let lenm1 := bits wb 15 0
    let ts := tbit wb 24
    let m := bits wb 23 16
    if tbit wb 25 ∨ ! rillWordsOk t.xop ts m (lenm1 + 1) (bit (bndV t.b3)) then dIll s
    else
      let at' := fun (pos : Nat) (b : BitVec 16) (k : Word → DRes) =>
        match bindLoc s c t.xop pos (lenm1 + 1) b with
        | .ok l => k l
        | .fail q r => viewFail q r s
        | .addr ea => .event (mkEv 0x0D ea 0 .ul) s
      at' 0 t.b0 (fun ld => at' 1 t.b1 (fun l1 => at' 2 t.b2 (fun l2 => at' 3 t.b3 (fun l3 =>
        if s.lentHold c && isTileOp t.xop ld l1 l2 l3 then .wait s
        else doRill s c t.xop ts (BitVec.ofNat 8 m) lenm1 ld l1 l2 l3 true))))

/-- A TZERO, TMMA or TRET step. -/
def tmuStep (s : State) (c : CtxId) (t : CStep) : DRes :=
  let st := s.str c.k
  let wa := t.wa.toNat
  let wb := t.wb.toNat
  if t.xop = 5 then
    let acc := tbit wa 1
    let n := bits wa 5 2
    if bits wa 17 6 ≠ 0 ∨ tbit wa 0 ∨ wb ≠ 0 ∨ ! (if acc then aOk st n else tOk st n) then dIll s
    else (prepare s c).bind (fun s => doTzero s c (if acc then 16 + n else n) true)
  else
    let a := bits wa 17 16
    if t.xop = 0x14 then
      if bits wa 15 0 ≠ 0 ∨ wb ≠ 0 ∨ ! aOk st a then dIll s
      else (prepare s c).bind (fun s => doTret s c (Fin.ofNat 4 a) true)
    else
      let ta := bits wa 15 12
      let tb := bits wa 11 8
      if bits wa 7 0 ≠ 0 ∨ bits wb 31 11 ≠ 0 ∨ ! (aOk st a && tOk st ta && tOk st tb) then dIll s
      else (prepare s c).bind (fun s =>
        doTmma s c (t.xop == 0x11 || t.xop == 0x13) (t.xop == 0x12 || t.xop == 0x13) (Fin.ofNat 4 a) (Fin.ofNat 16 ta) (Fin.ofNat 16 tb)
          (bits wb 10 9) (bits wb 8 0) true)

/-- An issue step. -/
def issueStep (s : State) (c : CtxId) (t : CStep) : DRes :=
  if t.op = 0x3A then rillStep s c t else if t.xop ≤ 4 then moveStep s c t else tmuStep s c t

/-! ### The walk (R271, R275) -/

/-- The index of the step that closes or opens a loop: the first step after or before p with a control code. -/
def nextCtl (prog : List CStep) (p code : Nat) : Nat := p + 1 + ((prog.drop (p + 1)).findIdx (fun t => t.ctl == code))
/-- The last step before p with a control code. -/
def prevCtl (prog : List CStep) (p code : Nat) : Nat := p - 1 - (((prog.take p).reverse).findIdx (fun t => t.ctl == code))

/-- A count word's value (Table 11-6); none when it names a literal slot. -/
def countOf (s : State) (c : CtxId) (wb : Nat) : Option Nat :=
  if ! tbit wb 31 then some (bits wb 23 0)
  else
    let d := (chainSlot s c (bits wb 13 8)).dw
    let shape := (s.str c.k).num.tshape
    let i := bits wb 2 0
    let u := match bits wb 7 6 with
      | 0 => if i = 0 then max 1 (elsOf s c (dFmtT d)) else if i = 1 then nRows shape else 1
      | 1 => accCols shape
      | _ => 1
    if dType d = 1 then none else some (ceilDiv (dExt d i) u)

/-- One control step. -/
def ctlStep (s : State) (c : CtxId) (t : CStep) : State :=
  let q := s.chainOf c
  let p := q.step
  let put := fun (f : Chain → Chain) => s.modChain c f
  let bad := failChain s c 0x07 0 (chainSlot s c (bits t.wb.toNat 13 8)).lda (chainSlot s c (bits t.wb.toNat 13 8)).lda
  match t.ctl with
  | 1 =>
    match countOf s c t.wb.toNat with
    | none => bad
    | some 0 => put (fun q => { q with no := 0, step := nextCtl q.prog p 4 + 1 })
    | some n => put (fun q => { q with no := n, io := 0, step := p + 1 })
  | 2 =>
    match countOf s c t.wb.toNat with
    | none => bad
    | some 0 => put (fun q => { q with ni := 0, step := nextCtl q.prog p 3 + 1 })
    | some n => put (fun q => { q with ni := n, ii := 0, step := p + 1 })
  | 3 =>
    if q.ii + 1 < q.ni then put (fun q => { q with ii := q.ii + 1, step := prevCtl q.prog p 2 + 1 })
    else put (fun q => { q with ii := 0, step := p + 1 })
  | _ =>
    if q.io + 1 < q.no then put (fun q => { q with io := q.io + 1, step := prevCtl q.prog p 1 + 1 })
    else put (fun q => { q with io := 0, step := p + 1 })

/-- A step's failure (R275). -/
def failStep (s : State) (c : CtxId) (e : Ev) (retry : Bool) : State :=
  if retry && (e.num == 0x05 || e.num == 0x06) then
    let s1 := s.modChain c (fun q => { q with st := .suspended, cause := e.num, rsn := 0, faddr := e.fa, record := none })
    addPendEv s1 c.k { e with rel := c.lv, src := .chain c }
  else if e.num = 0x1C then failChain s c e.info.toNat 0 e.fa e.fa
  else failChain s c 0x08 e.num.toNat (s.chainOf c).stepAddr e.fa

/-- Issue the step at which the chain stands. -/
def issueAt (s : State) (c : CtxId) (t : CStep) : State :=
  if s.lentHold c && t.op = 0x39 || s.tiles.tmu.gang.forming.isSome then s
  else
    match issueStep s c t with
    | .ok s1 => s1.modChain c (fun q => { q with step := q.step + 1, cause := 0, rsn := 0 })
    | .event e s1 => failStep s1 c e true
    | .early e s1 => failStep s1 c e false
    | .wait s1 => s1
    | .tile s1 => s1

/-- The slots that a step names. -/
def stepSlots (q : Chain) (t : CStep) : List Nat :=
  if t.ctl = 1 ∨ t.ctl = 2 then (if t.wb.getLsbD 31 then [q.dbase.toNat + bits t.wb.toNat 13 8] else [])
  else ([t.b0, t.b1, t.b2, t.b3].filter bndV).map (fun b => q.dbase.toNat + bndOff b)

/-- Control steps are walked, at most n of them, until an issue step is issued or the END is reached. [DESIGN CHOICE, log 66] -/
def walkChain : Nat → State → CtxId → State
  | 0, s, _ => s
  | n + 1, s, c =>
    let q := s.chainOf c
    if q.st ≠ .running ∨ q.killed then s
    else
      match q.prog[q.step]? with
      | none => s
      | some t =>
        match dslotMeet s c.k (stepSlots q t) with
        | some s1 => s1
        | none =>
        if t.ctl = 0 then issueAt s c t
        else if t.ctl = 5 then s
        else walkChain n (ctlStep s c t) c

/-- Whether the sequencer may issue now: the core's clocks run, no job abort, no checkpoint drain or copy (R405, R409).
[DEDUCED, log 19] [DESIGN CHOICE, log 66] -/
def seqRuns (s : State) : Bool := ! s.core.halted && s.pwr.pstate == .c0 && s.pwr.bstate == 2 && ! s.rel.aborted && ! s.ckHold

/-- CHAIN_STEP_ISSUE: the chain of (k, lv) walks to its next issue step and issues it; a chain that is being killed stops once its dispatched
steps have completed. A strand whose machine check is pending has no step issued. [DESIGN CHOICE, log 66] -/
def execChainStepIssue (k : StrandId) (lv : Lvl) (s : State) : Out :=
  .next (
    let c : CtxId := { k := k, lv := lv }
    if ! seqRuns s || ! (s.str k).run.mchk.isEmpty then s
    else if (s.chainOf c).killed then (if chainBusy s c then s else stopChain s c)
    else walkChain 256 s c)

/-! ### Count-based vector instructions (R280) -/

/-- A format that R280 admits. -/
def vecFmt (f : BitVec 4) : Bool := [0x0, 0x2, 0x3, 0xA, 0xB].contains f.toNat

/-- The byte length of n elements of a format. -/
def vecLen (f : BitVec 4) (n : Nat) : Nat := match tfmtOf f.toNat with | some g => (n * g.bits + 7) / 8 | none => 0

/-- The SPL locator of a window address. [DEDUCED, log 73] -/
def vecLoc (f : BitVec 4) (a : Word) : Word := w64 (fld 5 60 + fld f.toNat 56 + (a.toNat - spw) % 2 ^ 22)

/-- A group 0x3F instruction: its operation, MOD, whether it has a second and a third source, and FMTD. [DEDUCED, log 73] -/
def vecI (xop modf : Nat) (two three cvt : Bool) (v : VecWords) (s : State) : Out :=
  .next (instr 8 false true s (fun k s =>
    let st := s.str k
    if ! (xOk v.rd && xOk v.rs1 && xOk v.rs2 && xOk v.rs3 && xOk v.rn) || ! vecFmt v.fmt || ! vecFmt v.fmtd
        || (! cvt && v.fmtd != 0) || (! three && v.rs3 != 0) then illegal s
    else
      let c : CtxId := { k := k, lv := st.status.lvl }
      if (s.chainOf c).active || s.ckHold then .wait s
      else
        let n := (st.x v.rn).toNat
        if n = 0 then .done s
        else if 4096 < n then .event (descFault 0 0x09) s
        else
          let fd := if cvt then v.fmtd else v.fmt
          let ops : List (Word × BitVec 4) := [(st.x v.rd, fd), (st.x v.rs1, v.fmt)] ++ (if two then [(st.x v.rs2, v.fmt)] else [])
            ++ (if three then [(st.x v.rs3, v.fmt)] else [])
          match ops.find? (fun p => ! isWin p.1) with
          | some p => .event (mkEv 0x0D p.1 0 .ul) s
          | none =>
            let r := doRill s c xop false (BitVec.ofNat 8 modf) (n - 1) (vecLoc fd (st.x v.rd)) (vecLoc v.fmt (st.x v.rs1))
              (if two then vecLoc v.fmt (st.x v.rs2) else 0) (if three then vecLoc v.fmt (st.x v.rs3) else 0) false
            let beyond := fun (p : Word × BitVec 4) => decide (spw + s.spadSize < p.1.toNat + vecLen p.2 n)
            let other := match r with | .event e _ => e.num != 0x0D | _ => false
            if other then liftD k r
            else match ops.find? (fun p => p.1.toNat % 16 != 0) with
              | some p => .event (mkEv 0x0D p.1 0 .ul) s
              | none =>
                match ops.find? beyond with
                | some p => .event (mkEv 0x0D (w64 (max p.1.toNat (spw + s.spadSize))) 0 .ul) s
                | none => liftD k r))

def execVadd (v : VecWords) (s : State) : Out := vecI 0x01 0x00 true false false v s
def execVsub (v : VecWords) (s : State) : Out := vecI 0x02 0x00 true false false v s
def execVmul (v : VecWords) (s : State) : Out := vecI 0x03 0x00 true false false v s
def execVfma (v : VecWords) (s : State) : Out := vecI 0x04 0x00 true true false v s
def execVmin (v : VecWords) (s : State) : Out := vecI 0x05 0x00 true false false v s
def execVmax (v : VecWords) (s : State) : Out := vecI 0x06 0x00 true false false v s
def execVcvt (v : VecWords) (s : State) : Out := vecI 0x00 0x00 false false true v s
def execVrelu (v : VecWords) (s : State) : Out := vecI 0x04 0x20 false false false v s

end Sys2Proof.Machine
end

