-- ==== Sys2Proof/Machine/Queue.lean ====
section
/-! DEFINITION. The queue engine: descriptors, items and marks, pushes, the queue instructions, action programs, and the end of a
descriptor chain (16; R279). -/

namespace Sys2Proof.Machine

open Sys2Proof

/-! ### Descriptors (Table 16-2, R375, R376) -/

/-- The table address of queue q. -/
def State.qAddr (s : State) (q : Nat) : Nat := s.queues.qtb.toNat * 4096 + 64 * q

/-- The descriptor of queue q, when it is held on the core. -/
def State.qOf (s : State) (q : Nat) : Option QDesc := s.queues.hot.find? (fun d => d.q == q)

/-- Change the held descriptor of queue q. -/
def State.modQ (s : State) (q : Nat) (f : QDesc → QDesc) : State :=
  { s with queues := { s.queues with hot := s.queues.hot.map (fun d => if d.q == q then f d else d) } }

/-- Queue q becomes the most recently used descriptor. -/
def State.useQ (s : State) (q : Nat) : State :=
  { s with queues := { s.queues with hot := s.queues.hot.filter (fun d => d.q == q) ++ s.queues.hot.filter (fun d => d.q != q) } }

/-- Slots of a queue. -/
def QDesc.size (d : QDesc) : Nat := 2 ^ d.szlog2
/-- USED. -/
def QDesc.used (d : QDesc) : Nat := (d.tail - d.head).toNat
/-- The ring address of slot index i. -/
def QDesc.slotAt (d : QDesc) (i : BitVec 32) : Nat := d.ring + 64 * (i.toNat % d.size)
/-- The mark address of slot index i. -/
def QDesc.markAt (d : QDesc) (i : BitVec 32) : Nat := d.mark + 8 * (i.toNat % d.size)

/-- The 64 bytes of a descriptor. -/
def QDesc.bytes (d : QDesc) : List Byte :=
  toLE 8 (fld (bit d.v) 63 + fld (bit d.pkt) 62 + fld (bit d.lossy) 61 + fld (bit d.rmt) 60 + fld (bit d.pin) 59 + fld d.clvl.toNat 54
    + fld d.plvl.toNat 52 + fld d.owns.toNat 50 + fld d.olvl.toNat 48 + fld d.szlog2 32 + d.cthr)
  ++ toLE 8 d.ring ++ toLE 8 d.mark ++ toLE 4 d.tail.toNat ++ toLE 4 d.take.toNat
  ++ toLE 8 (fld d.head.toNat 32 + fld d.lost.toNat 16 + fld d.err.toNat 8) ++ d.act.toList.flatMap (fun w => toLE 8 w.toNat)

/-- The descriptor of queue q in 64 bytes, without its items. -/
def qdescOf (q : Nat) (b : List Byte) : QDesc :=
  let d := dwords b 8
  let g := fun (i : Nat) => (d.getD i 0).toNat
  { q := q, v := tbit (g 0) 63, pkt := tbit (g 0) 62, lossy := tbit (g 0) 61, rmt := tbit (g 0) 60, pin := tbit (g 0) 59,
    clvl := BitVec.ofNat 2 (bits (g 0) 55 54), plvl := BitVec.ofNat 2 (bits (g 0) 53 52), owns := BitVec.ofNat 2 (bits (g 0) 51 50),
    olvl := BitVec.ofNat 2 (bits (g 0) 49 48), szlog2 := bits (g 0) 39 32, cthr := bits (g 0) 12 0, ring := bits (g 1) 51 12 * 4096,
    mark := bits (g 2) 51 6 * 64, take := BitVec.ofNat 32 (bits (g 3) 63 32), tail := BitVec.ofNat 32 (bits (g 3) 31 0),
    head := BitVec.ofNat 32 (bits (g 4) 63 32), lost := BitVec.ofNat 16 (bits (g 4) 31 16), err := BitVec.ofNat 8 (bits (g 4) 15 8),
    act := #v[d.getD 5 0, d.getD 6 0, d.getD 7 0], items := [], deferred := none, fwding := false }

/-- The items between HEAD and TAIL as the marks of written slots describe them (Table 16-3). -/
def itemsOf (m : Mem) (d : QDesc) : Nat → BitVec 32 → List QItem
  | 0, _ => []
  | n + 1, i =>
    let w := m.getLE (d.markAt i) 8
    if tbit w 45 then
      let len := bits w 44 32
      let k := if d.pkt then max 1 (ceilDiv len 64) else 1
      { idx := i, k := k, len := len, gap := tbit w 47, gapcnt := BitVec.ofNat 16 (bits w 63 48), data := [], wr := k, poppable := true,
        taken := decide ((i - d.head).toNat < (d.take - d.head).toNat) } :: itemsOf m d n (i + 1)
    else itemsOf m d n (i + 1)

/-- Whether the engine has work of a descriptor in progress, so that it stays held. -/
def QDesc.busy (d : QDesc) : Bool := d.deferred.isSome || d.fwding || d.items.any (fun i => decide (i.wr < i.k))

/-- Drop the least recently used descriptor that is neither pinned nor in use, with its write-back. [DEDUCED, log 91] -/
def evictQ (s : State) : Option State :=
  match s.queues.hot.reverse.find? (fun d => ! (d.pin && d.v) && ! d.busy) with
  | none => none
  | some d =>
    some (nearWrite { s with queues := { s.queues with hot := s.queues.hot.filter (fun e => e.q != d.q) } } (s.qAddr d.q) d.bytes)

/-- Read a descriptor that is not held (R376), once its line has come; then room is made for it. [DEDUCED, log 91] [DESIGN CHOICE, log 140] -/
def fetchQ (s : State) (q : Nat) : State :=
  if (s.qOf q).isSome then s
  else
    let a := s.qAddr q
    match agentRead (.queue q) [(a, 64)] [] s with
    | .wait s1 => s1
    | .got _ (some b) s1 => fatalNoEvent s1 b.1 b.2 (some a) false
    | .got bs none s1 =>
      match (if s1.queues.hot.length < 1024 then some s1 else evictQ s1) with
      | none => s1
      | some s2 =>
        let d := qdescOf q bs
        let items := if d.v then itemsOf s2.near d (min d.used d.size) d.head else []
        { s2 with queues := { s2.queues with hot := { d with items := items } :: s2.queues.hot } }

/-- DESCRIPTOR_FETCH. -/
def execDescriptorFetch (q : BitVec 20) (s : State) : Out := .next (fetchQ s q.toNat)

/-- The descriptor of queue q for an operation: none while it is not held; a parity error in it raises job abort (Table
17-1). [DEDUCED, log 91] -/
def meetQ (s : State) (q : Nat) : Option QDesc × State :=
  if (s.markAt 0x11 (q % 65536)).isSome then (none, fatalNoEvent (s.dropMark 0x11 (q % 65536)) 0x11 (q % 65536) none false)
  else
    match s.qOf q with
    | none => (none, s)
    | some d => (some d, s.useQ q)

/-! ### Queue faults (R381) -/

/-- ERR takes the reason; the event names the descriptor's table address and the queue. -/
def queueFault (s : State) (q reason : Nat) : Ev × State :=
  (mkEv 0x1B (w64 (s.qAddr q)) (q % 65536) .ul, s.modQ q (fun d => { d with err := BitVec.ofNat 8 reason }))

/-- A fault found by an action: ERR, and 0x1B pending on the owner with OLVL as the raising level (R386, R387).
[DESIGN CHOICE, log 95] -/
def ownerFault (s : State) (d : QDesc) (reason : Nat) : State :=
  let f := queueFault s d.q reason
  addPendEv f.2 (Fin.ofNat 4 d.owns.toNat) { f.1 with rel := lvlOf d.olvl.toNat, src := .action }

/-! ### Pushes (R377, R381, R383, R384) -/

/-- How a push ends. -/
inductive PushRes where
  | ok (s : State)
  | hold (s : State)
  | fault (reason : Nat) (s : State)

/-- Slots that an item of len bytes takes. -/
def QDesc.slots (d : QDesc) (len : Nat) : Nat := if d.pkt then ceilDiv len 64 else 1

/-- Whether an item's length suits the queue. -/
def QDesc.lenOk (d : QDesc) (len : Nat) : Bool := (d.pkt || len == 64) && decide (len ≤ 64 * d.size)

/-- Allocate an item, or drop it in a full lossy queue; hold while a lossless queue is full. -/
def allocQ (s : State) (d : QDesc) (data : List Byte) : PushRes :=
  let k := d.slots data.length
  if d.used + k ≤ d.size then
    let it : QItem :=
      { idx := d.tail, k := k, len := data.length, gap := d.lost != 0, gapcnt := d.lost, data := data, wr := 0, poppable := false, taken := false }
    .ok (s.modQ d.q (fun d => { d with tail := d.tail + BitVec.ofNat 32 k, lost := 0, items := d.items ++ [it] }))
  else if d.lossy then .ok (s.modQ d.q (fun d => { d with lost := if d.lost = 0xFFFF then d.lost else d.lost + 1 }))
  else .hold s

/-- A push with the privilege of a level, or with no level check. -/
def pushQ (s : State) (q : Nat) (lv : Option Lvl) (data : List Byte) : PushRes :=
  match meetQ s q with
  | (none, s1) => .hold s1
  | (some d, s1) =>
    let bad := fun (r : Nat) => PushRes.fault r (queueFault s1 q r).2
    if ! d.v then bad 0x01
    else if lv.any (fun l => l.below (lvlOf d.plvl.toNat)) then bad 0x02
    else if ! d.lenOk data.length then bad 0x03
    else allocQ s1 d data

/-! ### Actions (R386, R387) -/

/-- Whether ACT0 is FWD. -/
def QDesc.isFwd (d : QDesc) : Bool := bits (d.act.getD 0 0).toNat 63 60 == 4

/-- Start the chain of an action word for queue d with OLVL privilege, as a DSCH does: the claim of its context's bank, the program, its checks
(R268, R386); or record the failure. A start that must wait for the claim, for the program's lines or for a checkpoint stays deferred.
[DESIGN CHOICE, log 95] -/
def actionStart (s : State) (d : QDesc) (w : Nat) : State :=
  let c : CtxId := { k := Fin.ofNat 4 d.owns.toNat, lv := lvlOf d.olvl.toNat }
  let a := bits w 59 18 * 64
  let n := bits w 17 12 + 1
  let later := fun (s : State) => s.modQ d.q (fun d => { d with deferred := some w })
  let go := fun (s : State) =>
    match engReadAll (s.xctxAt c.k c.lv) (cutAt 128 (n / 8 + 2) a (16 * n)) [] s with
    | .wait s1 => DRes.wait s1
    | .check s1 => .wait s1
    | .fault e s1 => .event e s1
    | .ok b s1 => (chainFrom s1 c (w64 a) b n (bits w 11 6) (bits w 5 0 + 1)).bind (fun s2 => .ok (s2.stampCtx c))
  if (s.ctxOf c).st = .none ∨ 63 < bits w 11 6 + bits w 5 0 then ownerFault s d 0x08
  else if s.ckHold then later s
  else
    match (claimBank s c).bind go with
    | .ok s1 => s1
    | .event _ s1 => ownerFault s1 d 0x08
    | .early _ s1 => ownerFault s1 d 0x08
    | .wait s1 => later s1
    | .tile s1 => later s1

/-- Run an action word. [DESIGN CHOICE, log 95] -/
def runAction (s : State) (q : Nat) (w : Nat) : State :=
  match s.qOf q with
  | none => s
  | some d =>
    match bits w 63 60 with
    | 1 =>
      let k : StrandId := Fin.ofNat 4 (bits w 1 0)
      (match (s.str k).run.cond with | some (.queue _) => readyStrand s k | _ => s)
    | 2 => setPend s (bits w 7 0)
    | 3 =>
      let c : CtxId := { k := Fin.ofNat 4 d.owns.toNat, lv := lvlOf d.olvl.toNat }
      if d.deferred.isSome then s
      else if (s.chainOf c).active then s.modQ q (fun d => { d with deferred := some w })
      else actionStart s d w
    | _ => s

/-- The action words up to the first END. -/
def QDesc.acts (d : QDesc) : List Nat := (d.act.toList.map (fun w => w.toNat)).takeWhile (fun w => bits w 63 60 != 0)

/-- Run the actions of queue q; action programs stop in job abort (Table 17-6). -/
def runActions (s : State) (q : Nat) : State :=
  if s.rel.aborted then s
  else match s.qOf q with
    | none => s
    | some d => d.acts.foldl (fun s w => runAction s q w) s

/-! ### Items (R378, R379) -/

/-- Bytes that the engine writes through the near port, coherently and with no allocation in any cache (R377).
[DESIGN CHOICE, log 128] -/
def portWrite (s : State) (pa : Nat) (bs : List Byte) : State := nearWrite s pa bs

/-- The mark word of slot j of an item (Table 16-3). -/
def markWord (it : QItem) (j : Nat) : Nat :=
  fld 1 31 + (if j = 0 then fld (if it.gap then it.gapcnt.toNat else 0) 48 + fld (bit it.gap) 47 + fld 1 45 + fld it.len 32 else 0)

/-- Write slots j to j + n − 1 of an item and their marks. [DESIGN CHOICE, log 92] -/
def writeSlots (s : State) (d : QDesc) (it : QItem) (j n : Nat) : State :=
  ((List.range n).map (· + j)).foldl (fun s j =>
    let i := it.idx + BitVec.ofNat 32 j
    portWrite (portWrite s (d.slotAt i) ((it.data.drop (64 * j)).take 64)) (d.markAt i) (toLE 8 (markWord it j))) s

/-- Release the oldest item: HEAD passes its slots and their marks become 0. -/
def releaseItem (s : State) (d : QDesc) (it : QItem) : State :=
  let s1 := (List.range it.k).foldl (fun s j => portWrite s (d.markAt (it.idx + BitVec.ofNat 32 j)) (toLE 8 0)) s
  s1.modQ d.q (fun d => { d with head := it.idx + BitVec.ofNat 32 it.k, items := d.items.drop 1 })

/-- The bytes of an item in the ring. -/
def itemBytes (s : State) (d : QDesc) (it : QItem) : List Byte :=
  ((List.range it.k).flatMap (fun j => s.near.getN (d.slotAt (it.idx + BitVec.ofNat 32 j)) 64)).take it.len

/-- The near-port reads of an item that is forwarded. -/
def readItem (s : State) (d : QDesc) (it : QItem) : State :=
  (List.range it.k).foldl (fun s j => (portRead s (d.slotAt (it.idx + BitVec.ofNat 32 j)) 64).2) s

/-- Forward the oldest item of a FWD queue once it is complete (R387). A forward to this endpoint is a local push with the
owner's level; a queue does not forward to itself. [DESIGN CHOICE, log 95] -/
def tryForward (s : State) (q : Nat) : State :=
  match s.qOf q with
  | none => s
  | some d =>
    match d.items with
    | [] => s
    | it :: _ =>
      if ! d.v || ! d.isFwd || d.fwding || decide (it.wr < it.k) || s.rel.aborted then s
      else
        let w := (d.act.getD 0 0).toNat
        let node : BitVec 14 := BitVec.ofNat 14 (bits w 59 46)
        let ep : BitVec 6 := BitVec.ofNat 6 (bits w 45 40)
        let dst := bits w 19 0
        let data := itemBytes s d it
        let taken := fun (s : State) => (readItem s d it).modQ q (fun d => { d with
          take := it.idx + BitVec.ofNat 32 it.k
          items := d.items.map (fun x => if x.idx == it.idx then { x with taken := true } else x) })
        if node == s.far.regs.node && ep == s.hw.epnum then
          if dst = q then ownerFault (releaseItem (taken s) d it) d 0x09
          else
            match pushQ s dst (some (lvlOf d.olvl.toNat)) data with
            | .ok s1 => releaseItem (taken s1) d it
            | .hold s1 => s1
            | .fault _ s1 => ownerFault (releaseItem (taken s1) d it) d 0x09
        else
          let s1 := (taken s).modQ q (fun d => { d with fwding := true })
          (farRequest s1 (.forward q) 0 none false (reqMsg s1 4 node ep 0 dst data)).2

/-- The oldest item of queue q with unwritten slots is written: up to its cut-through threshold if it is not yet poppable, else
to its end. When it becomes poppable, a strand that waits for it becomes ready and the actions run. [DESIGN CHOICE, log 92] -/
def stepItem (s : State) (d : QDesc) : State :=
  match d.items.find? (fun it => decide (it.wr < it.k)) with
  | none => s
  | some it =>
    let cut := ! it.poppable && d.cthr != 0 && decide (d.cthr ≤ it.len)
    let n := if cut then min it.k (ceilDiv d.cthr 64) - it.wr else it.k - it.wr
    let s1 := writeSlots s d it it.wr n
    let s2 := s1.modQ d.q (fun d => { d with items := d.items.map (fun x =>
      if x.idx == it.idx then { x with wr := it.wr + n, poppable := true } else x) })
    if it.poppable then s2 else runActions (wakeCond s2 (.queue d.q)) d.q

/-- QUEUE_ITEM_POPPABLE. [DESIGN CHOICE, log 92] -/
def execQueueItemPoppable (q : BitVec 20) (s : State) : Out :=
  .next (
    match meetQ s q.toNat with
    | (none, s1) => s1
    | (some d, s1) => tryForward (stepItem s1 d) q.toNat)

/-- DEFERRED_CHAIN_START: the deferred start is made once the context's chain is neither RUNNING nor SUSPENDED.
[DESIGN CHOICE, log 95] -/
def execDeferredChainStart (q : BitVec 20) (s : State) : Out :=
  .next (
    match s.qOf q.toNat with
    | none => s
    | some d =>
      let c : CtxId := { k := Fin.ofNat 4 d.owns.toNat, lv := lvlOf d.olvl.toNat }
      match d.deferred with
      | none => s
      | some w =>
        if (s.chainOf c).active || s.rel.aborted then s else actionStart (s.modQ d.q (fun d => { d with deferred := none })) d w)

/-- Codes that make a source send its request again (Table 15-7). [DEDUCED, log 79] -/
def retryCode (code : Nat) : Bool := code == 0x0A || code == 0x0D

/-- The code of the response to a queue's forward: the recorded one, where it has come. -/
def fwdCode (s : State) (q : Nat) (code : BitVec 8) : BitVec 8 :=
  match (s.far.reqs.find? (fun r => r.owner == .forward q)).bind (fun r => r.done) with
  | some r => r.1
  | none => code

/-- FWD_RESPONSE: the forwarded item is released; an error records ERR 0x09 (R387). In job abort a late response is discarded (Table 15-11).
[DESIGN CHOICE, log 95] -/
def execFwdResponse (q : BitVec 20) (code0 : BitVec 8) (s : State) : Out :=
  let code : BitVec 8 := fwdCode s q.toNat code0
  .next (
    match s.qOf q.toNat with
    | none => s
    | some d =>
      if ! d.fwding || retryCode code.toNat || s.rel.aborted then s
      else
        let s1 := s.modFar (fun f => { f with reqs := f.reqs.filter (fun r => r.owner != .forward q.toNat) })
        let s2 := s1.modQ d.q (fun d => { d with fwding := false })
        let s3 := match d.items with | it :: _ => (if it.taken then releaseItem s2 d it else s2) | [] => s2
        tryForward (if code = 0 then s3 else ownerFault s3 d 0x09) q.toNat)

/-! ### The queue instructions (Table 16-4) -/

/-- The frame of a queue instruction on a local queue: decode, the handle, privilege, the held descriptor and the checks that it
names, then its effect. [DEDUCED, log 91] -/
def queueI (s : State) (barred ok : Bool) (handle : Strand → Word) (priv cons : Bool) (body : StrandId → QDesc → State → Res) : Out :=
  .next (instr 8 false barred s (fun k s =>
    let h := (handle (s.str k)).toNat
    if ! ok || decide (2 ^ 20 ≤ h) then illegal s
    else if priv && (s.str k).status.lvl == .ul then privileged s
    else
      match meetQ s h with
      | (none, s1) => .wait s1
      | (some d, s1) =>
        let bad := fun (r : Nat) => let f := queueFault s1 h r; Res.event f.1 f.2
        if ! priv && ! d.v then bad 0x01
        else if cons && (s1.str k).status.lvl.below (lvlOf d.clvl.toNat) then bad 0x02
        else body k d s1))

/-- A fault of a queue operation. -/
def qBad (s : State) (q reason : Nat) : Res := let f := queueFault s q reason; .event f.1 f.2

/-- The information of a taken item (R379). -/
def itemWord (d : QDesc) (it : QItem) : Word :=
  w64 ((if it.gap then fld it.gapcnt.toNat 48 + fld 1 47 else 0) + fld (bit (decide (it.wr < it.k))) 46 + fld it.len 32
    + it.idx.toNat % d.size)

/-- Take the head item when it is poppable. -/
def takeItem (s : State) (d : QDesc) : Option (Word × State) :=
  match d.items.find? (fun it => ! it.taken) with
  | none => none
  | some it =>
    if it.poppable then
      some (itemWord d it, s.modQ d.q (fun d => { d with
        take := it.idx + BitVec.ofNat 32 it.k
        items := d.items.map (fun x => if x.idx == it.idx then { x with taken := true } else x) }))
    else none

def execQpop (rd rs1 : RSpec) (s : State) : Out :=
  queueI s true (xOk rd && xOk rs1) (fun t => t.x rs1) false true (fun k d s =>
    if d.isFwd then qBad s d.q 0x04
    else match takeItem s d with
      | some (w, s1) => .done (s1.setX k rd w)
      | none => .wait (s.modRun k (fun r => { r with cond := some (.queue d.q) })))

def execQtry (rd rs1 : RSpec) (s : State) : Out :=
  queueI s true (xOk rd && xOk rs1) (fun t => t.x rs1) false true (fun k d s =>
    if d.isFwd then qBad s d.q 0x04
    else match takeItem s d with
      | some (w, s1) => .done (s1.setX k rd w)
      | none => .done (s.setX k rd 0))

def execQrel (rs1 : RSpec) (s : State) : Out :=
  queueI s true (xOk rs1) (fun t => t.x rs1) false true (fun _ d s =>
    match d.items with
    | [] => qBad s d.q 0x04
    | it :: _ =>
      if ! it.taken then qBad s d.q 0x04
      else if it.wr < it.k then .wait s
      else .done (releaseItem s d it))

def execQflush (rs1 : RSpec) (s : State) : Out :=
  queueI s true (xOk rs1) (fun t => t.x rs1) false true (fun _ d s =>
    if d.items.any (fun it => decide (it.wr < it.k)) then .wait s
    else
      let kept := d.items.filter (fun it => it.taken)
      let e := match kept.getLast? with | some it => it.idx + BitVec.ofNat 32 it.k | none => d.head
      .done (s.modQ d.q (fun d => { d with take := e, tail := e, items := kept })))

/-- [DEDUCED, log 93] -/
def execQstat (rd rs1 : RSpec) (s : State) : Out :=
  queueI s false (xOk rd && xOk rs1) (fun t => t.x rs1) false false (fun k d s =>
    .done (s.setX k rd (w64 (fld d.err.toNat 56 + fld (d.used % 2 ^ 24) 32 + fld d.lost.toNat 16))))

/-- Whether every byte of a near physical range is Normal: its type can change only where a region begins or ends. -/
def State.allNormal (s : State) (a n : Nat) : Bool :=
  let pts := s.ms.page.regions.toList.flatMap (fun r => [r.base.toNat * 4096, r.lim.toNat * 4096 + 4096])
  decide (a + n ≤ 2 ^ 52) && (n == 0 || (a :: pts.filter (fun p => decide (a < p) && decide (p < a + n))).all (fun p => s.mtype p == .normal))

/-- Whether an action word is well formed at its place. [DEDUCED, log 94] -/
def actOk (w : Nat) (i : Nat) (rest : List Nat) : Bool :=
  match bits w 63 60 with
  | 0 => w == 0
  | 1 => bits w 59 2 == 0
  | 2 => bits w 59 8 == 0 && decide (0x80 ≤ w % 256)
  | 3 => true
  | 4 => i == 0 && rest.all (· == 0) && bits w 39 20 == 0
  | _ => false

/-- The validity of a QCFG block (Table 16-5, 0x0A). [DEDUCED, log 93] [DEDUCED, log 94] -/
def qcfgOk (s : State) (b : List Byte) : Bool :=
  let w := (dwords b 8).map (fun w => w.toNat)
  let g := fun (i : Nat) => w.getD i 0
  let d := qdescOf 0 b
  let lv := fun (l : BitVec 2) => l != 0b10
  decide (1 ≤ d.szlog2) && decide (d.szlog2 ≤ 24) && (d.cthr == 0 || (d.cthr % 64 == 0 && decide (d.cthr ≤ 4096)))
    && lv d.clvl && lv d.plvl && lv d.olvl && actOk (g 5) 0 [g 6, g 7] && actOk (g 6) 1 [] && actOk (g 7) 2 []
    && bits (g 0) 58 56 == 0 && bits (g 0) 47 40 == 0 && bits (g 0) 31 13 == 0 && g 1 == d.ring && g 2 == d.mark && g 4 % 256 == 0
    && s.allNormal d.ring (64 * 2 ^ d.szlog2) && s.allNormal d.mark (8 * 2 ^ d.szlog2)

/-- [DEDUCED, log 93] [DEDUCED, log 94] -/
def execQcfg (rs1 rs2 : RSpec) (s : State) : Out :=
  queueI s true (xOk rs1 && xOk rs2) (fun t => t.x rs1) true false (fun k d s =>
    let a := (s.str k).x rs2
    if a.toNat % 64 ≠ 0 then .event (mkEv 0x0D a 0 .ul) s
    else match loadBlock s (s.xctx k) a 64 64 with
      | .fault e s1 => .event e s1
      | .check s1 => .wait s1
      | .ok b s1 =>
        let n := qdescOf d.q b
        if d.v && d.used != 0 && n.v then qBad s1 d.q 0x06
        else if n.pin && decide (512 ≤ (s1.queues.hot.filter (fun e => e.pin && e.v)).length) then qBad s1 d.q 0x07
        else if ! qcfgOk s1 b then qBad s1 d.q 0x0A
        else if d.items.any (fun it => decide (it.wr < it.k)) then .wait s1
        else .done (s1.modQ d.q (fun _ => { n with take := 0, tail := 0, head := 0, lost := 0, err := 0 })))

/-- [DESIGN CHOICE, log 96] -/
def execQpush (rs1 rs2 rs3 : RSpec) (s : State) : Out :=
  extBarred s (fun k s =>
    let t := s.str k
    let h := (t.x rs1).toNat
    let n := (t.x rs3).toNat
    let loc := tbit h 63
    if ! (xOk rs1 && xOk rs2 && xOk rs3) || tbit h 62 || bits h 41 20 != 0 || (loc && bits h 61 42 != 0)
        || decide (n < 16) || decide (4096 < n) || n % 16 != 0 then illegal s
    else
      match loadBlock s (s.xctx k) (t.x rs2) n 16 with
      | .fault e s1 => .event e s1
      | .check s1 => .wait s1
      | .ok b s1 =>
        if loc then
          match pushQ s1 (bits h 19 0) (some t.status.lvl) b with
          | .ok s2 => .done s2
          | .hold s2 => .wait s2
          | .fault _ s2 => .event (mkEv 0x1B (w64 (s2.qAddr (bits h 19 0))) (bits h 15 0) .ul) s2
        else
          let v := s1.freeVal
          let m := reqMsg v.2 4 (BitVec.ofNat 14 (bits h 61 48)) (BitVec.ofNat 6 (bits h 47 42)) 0 (bits h 19 0) b
          .done (farPost v.2 k v.1 none m))

/-! ### The end of a chain (R279) -/

/-- A 64-byte completion entry: status, GTIME and address. -/
def doneEntry (s : State) (st addr : Word) : List Byte := toLE 8 st.toNat ++ toLE 8 s.core.gtime.toNat ++ toLE 8 addr.toNat ++ toLE 40 0

/-- CHAIN_END: at its END with every dispatched step complete, the chain becomes DONE and signals completion. -/
def execChainEnd (k : StrandId) (lv : Lvl) (s : State) : Out :=
  .next (
    let c : CtxId := { k := k, lv := lv }
    let q := s.chainOf c
    match q.prog[q.step]? with
    | none => s
    | some t =>
      if q.st ≠ .running ∨ q.killed ∨ t.ctl ≠ 5 ∨ chainBusy s c ∨ ! seqRuns s then s
      else
        let wb := t.wb.toNat
        let s1 := s.modChain c (fun q => { q with st := .done })
        let sig := fun (s : State) => if tbit wb 24 then setPend s 0x49 else s
        if tbit wb 0 then
          match pushQ s1 (bits wb 23 4) (some lv) (doneEntry s1 (dstatWord (s1.chainOf c) 0) q.paddr) with
          | .ok s2 => sig s2
          | .hold s2 => s2.modChain c (fun _ => q)
          | .fault _ s2 => failChain s2 c 0x0A 0 q.stepAddr q.stepAddr
        else sig s1)

end Sys2Proof.Machine
end

