-- ==== Sys2Proof/Machine/Link.lean ====
section
/-! DEFINITION. The link layer of the far port: flits received, replay, retraining, and the assembly of messages (15, R350 to
R354). -/

namespace Sys2Proof.Machine

open Sys2Proof

/-- The payload of a CREDIT flit: the counts returned for VC 0, 1 and 2. -/
def creditBytes (v n : Nat) : List Byte :=
  toLE 2 (if v = 0 then n else 0) ++ toLE 2 (if v = 1 then n else 0) ++ toLE 2 (if v = 2 then n else 0)

/-- Send a control flit of the link. -/
def sendCtlFlit (s : State) (ltype : Nat) (payload : List Byte) : State := s.emit (.flit (s.far.link.ctl ltype payload))

/-- Send waiting flits. -/
def pump (s : State) : State := pumpLink (s.far.link.waiting.length + 1) s

/-- Replay buffer and session records: a correctable error is corrected, an uncorrectable one raises job abort (Table 17-1);
whether the record can be used. -/
def meet14 (s : State) (loc : Nat) : Bool × State :=
  match s.markAt 0x14 loc with
  | none => (true, s)
  | some m => if m.unc then (false, fatalNoEvent (s.dropMark 0x14 loc) 0x14 loc none false) else (true, logCorr (s.dropMark 0x14 loc) none 0x14 loc none false)

/-- Every buffered flit up to and including an ACKSEQ is freed (Table 15-4). -/
def freeTo (s : State) (a : Nat) : State :=
  match s.far.link.buf.findIdx? (fun e => e.1.toNat == a) with
  | none => s
  | some i => s.modLink (fun l => { l with buf := l.buf.drop (i + 1), replays := 0 })

/-- An ACKSEQ received: what it frees makes room for new flits. -/
def ackTo (s : State) (a : Nat) : State := pump (freeTo s a)

/-- The acknowledgement that a good flit carries. -/
def flitAck (s : State) (f : Flit) : State := if f.ackv then ackTo s f.ackseq else s

/-- Change LSTATE; every change sets ISTAT.LINK (Table 15-12). -/
def setLState (s : State) (l : LState) : State :=
  s.modFarRegs (fun r => if r.lstate = l then r else { r with lstate := l, istat := r.istat ||| 2 })

/-- PA_RETRAIN is asserted and the link goes to RETRAIN. -/
def askRetrain (s : State) : State :=
  let s1 := s.modLink (fun l => { l with snd := .retrain, retrain := true })
  setLState (s1.modFarRegs (fun r => { r with retrains := if r.retrains = 0xFFFF then r.retrains else r.retrains + 1 })) .retrain

/-- Every buffered flit is sent again in order. -/
def resendAll (s : State) : State :=
  s.far.link.buf.foldl (fun s e => s.emit (.flit (s.far.link.stamp e.1 e.2.2))) s

/-- One replay: in REPLAY every buffered flit is sent again, then new flits follow; the eighth replay in succession without progress asks for
retraining. [DESIGN CHOICE, log 74] -/
def replay (s : State) : State :=
  if s.far.link.snd ≠ .send ∨ s.far.link.buf.isEmpty then s
  else
    let m := meet14 s 0x100
    let s1 := (resendAll (m.2.modLink (fun l => { l with snd := .replay }))).modLink (fun l => { l with replays := l.replays + 1 })
    if 8 ≤ s1.far.link.replays then askRetrain s1 else pump (s1.modLink (fun l => { l with snd := .send }))

/-- The receiver sends a NACK. -/
def sendNack (s : State) : State := sendCtlFlit s 3 []

/-- Return credits as a buffer is freed (R352). -/
def giveCredits (s : State) (v n : Nat) : State := if n = 0 then s else sendCtlFlit s 2 (creditBytes v n)

/-- Deliver a DATA flit to its VC; the last flit of a message completes it (R352, R354). A flit of VC 3 or one that continues
no message is dropped. [DEDUCED, log 75] -/
def deliver (s : State) (f : Flit) : State :=
  let v := f.vc
  let old := s.far.link.rx.getD v []
  if v = 3 ∨ (old.isEmpty ∧ ! f.sop) then giveCredits s v 1
  else
    let fs := if f.sop then [f] else old ++ [f]
    let lost := if f.sop then old.length else 0
    let s1 := giveCredits s v lost
    if f.eop then
      let m := msgOf (fs.flatMap (fun g => g.payload))
      let s2 := (s1.modLink (fun l => { l with rx := vupd l.rx v (fun _ => []) })).modFar (fun x => { x with rxMsgs := x.rxMsgs ++ [m] })
      giveCredits s2 v fs.length
    else s1.modLink (fun l => { l with rx := vupd l.rx v (fun _ => fs) })

/-- Whether the link takes flits: PA_LINKUP is 1. -/
def State.linkOn (s : State) : Bool := s.far.link.linkup && s.hw.farp

/-- A flit whose CRC does not match is discarded; in NORMAL the receiver sends NACK (Table 15-4). -/
def badFlit (s : State) : State := if s.far.link.nacked then s else sendNack (s.modLink (fun l => { l with nacked := true }))

/-- DATA_FLIT_RECEIVED. -/
def execDataFlitReceived (f : Flit) (s : State) : Out :=
  .next (
    if ! s.linkOn then s
    else if ! f.good then badFlit s
    else if f.ltype ≠ 1 then s
    else
      let s1 := flitAck s f
      if f.fseq = s1.far.link.erx.toNat then
        deliver (s1.modLink (fun l => { l with erx := l.erx + 1, nacked := false, recvAny := true })) f
      else badFlit s1)

/-- The frame of the flits that carry no sequence number. -/
def ctlFlit (ltype : Nat) (f : Flit) (s : State) (body : State → State) : Out :=
  .next (if ! s.linkOn then s else if ! f.good then badFlit s else if f.ltype ≠ ltype then s else body (flitAck s f))

def execIdleFlitReceived (f : Flit) (s : State) : Out := ctlFlit 0 f s (fun s => s)

/-- CREDIT_FLIT_RECEIVED: the counts in bytes 8 to 13 return credits. -/
def execCreditFlitReceived (f : Flit) (s : State) : Out :=
  ctlFlit 2 f s (fun s =>
    let n := fun (i : Nat) => leNat ((f.payload.drop (2 * i)).take 2)
    let cr := s.far.link.credits
    pump (s.modLink (fun l => { l with credits := #v[cr[0] + n 0, cr[1] + n 1, cr[2] + n 2] })))

/-- NACK_FLIT_RECEIVED: flits up to ACKSEQ are freed and every later buffered flit is sent again, before any new one. -/
def execNackFlitReceived (f : Flit) (s : State) : Out :=
  .next (
    if ! s.linkOn then s
    else if ! f.good then badFlit s
    else if f.ltype ≠ 3 then s
    else pump (replay (freeTo s f.ackseq)))

/-- INIT_FLIT_RECEIVED: the partner's version and initial credits; every buffered flit is sent again and new flits follow (R353,
Table 15-4). -/
def execInitFlitReceived (f : Flit) (s : State) : Out :=
  ctlFlit 4 f s (fun s =>
    let n := fun (i : Nat) => leNat ((f.payload.drop (4 + 2 * i)).take 2)
    let held := fun (v : Nat) => (s.far.link.buf.filter (fun e => e.2.1.toNat == v)).length
    let s1 := s.modFarRegs (fun r => { r with pver := BitVec.ofNat 4 (f.payload.headD 0).toNat })
    let s2 := s1.modLink (fun l => { l with
      credits := #v[n 0 - held 0, n 1 - held 1, n 2 - held 2]
      snd := .send
      replays := 0
      nacked := false })
    pump (resendAll (setLState s2 .up)))

/-- IDLE_SEND_TIMER: an IDLE flit with the current ACKSEQ. -/
def execIdleSendTimer (s : State) : Out :=
  .next (if s.linkOn && s.far.regs.lstate == .up then sendCtlFlit s 0 [] else s)

/-- REPLAY_TIMEOUT. [DESIGN CHOICE, log 74] -/
def execReplayTimeout (s : State) : Out := .next (if s.linkOn then replay s else s)

/-- NACK_RESEND_TIMER: a NACKED receiver sends NACK again. [DESIGN CHOICE, log 74] -/
def execNackResendTimer (s : State) : Out := .next (if s.linkOn && s.far.link.nacked then sendNack s else s)

/-- The payload of this endpoint's INIT flit (R353). -/
def initBytes (s : State) : List Byte :=
  toLE 1 (bits (s.feat.getD 6 0).toNat 15 8) ++ toLE 2 s.far.regs.node.toNat ++ toLE 1 s.hw.epnum.toNat ++ toLE 2 128 ++ toLE 2 128
    ++ toLE 2 16

/-- LINKUP_RISE: INIT is sent; sequence numbers continue; the receiver is NORMAL. -/
def execLinkupRise (ldly : BitVec 16) (s : State) : Out :=
  .next (
    if ! s.hw.farp || s.far.link.linkup then s
    else
      let s1 := s.modLink (fun l => { l with linkup := true, nacked := false, replays := 0 })
      let s2 := setLState (s1.modFarRegs (fun r => { r with ldly := ldly })) .init
      sendCtlFlit s2 4 (initBytes s2))

/-- PA_LINKUP_FALL: the link is down and trains again; PA_RETRAIN is released. -/
def execPaLinkupFall (s : State) : Out :=
  .next (
    if ! s.far.link.linkup then s
    else
      let asked := s.far.link.retrain
      let s1 := s.modLink (fun l => { l with linkup := false, retrain := false, snd := .retrain })
      let s2 := if asked then s1 else s1.modFarRegs (fun r => { r with retrains := if r.retrains = 0xFFFF then r.retrains else r.retrains + 1 })
      setLState s2 .retrain)

/-- RETRAIN_TIMEOUT: the link is lost (Table 15-4, Table 17-6 cause 0x06); PA_RETRAIN stays asserted until PA_LINKUP falls (Table 15-2).
[DESIGN CHOICE, log 74] -/
def execRetrainTimeout (s : State) : Out :=
  .next (
    if s.far.link.snd = .retrain ∧ s.far.regs.lstate = .retrain then
      origAbort (setLState (s.modLink (fun l => { l with snd := .down })) .down) 0x06
    else s)

end Sys2Proof.Machine
end

