-- ==== Sys2Proof/Machine/FarTgt.lean ====
section
/-! DEFINITION. The far port as a target: sessions, the duplicate filter, and the requests it performs (15, R347, R355 to R358,
R363 to R365, R368; R380). -/

namespace Sys2Proof.Machine

open Sys2Proof

/-- A message that a command handles leaves the received messages. -/
def takeMsg (s : State) (m : FarMsg) : State := s.modFar (fun f => { f with rxMsgs := f.rxMsgs.erase m })

/-! ### Sessions (R355, R358) -/

/-- The session that a request names, when the target holds it for the request's source. -/
def State.tgtSess (s : State) (m : FarMsg) : Option TgtSess :=
  s.far.tgt.find? (fun t => t.num == m.sess && t.node == m.srcNode && t.ep == m.srcEp)

/-- Change session num. -/
def State.modTgt (s : State) (num : BitVec 14) (f : TgtSess → TgtSess) : State :=
  s.modFar (fun x => { x with tgt := x.tgt.map (fun t => if t.num == num then f t else t) })

/-- A stamp later than that of every session's last use. -/
def State.nextUse (s : State) : Nat := (s.far.tgt.foldl (fun a t => max a t.used) 0) + 1

/-- A session record in memory (R358): 64 bytes of state, whose layout the spec does not give, then 64 response slots of 96
bytes, each a response header and its body; every byte that holds neither is a free value. [DESIGN CHOICE, log 80] -/
def recordBytes (free : Nat) (t : TgtSess) : List Byte :=
  (List.range 64).map (Config.freeByte free) ++ (List.range 64).flatMap (fun i =>
    let known := match t.slots.find? (fun p => p.1 == i) with
      | some p => (msgHeader p.2 ++ p.2.body).take 96
      | none => []
    known ++ (List.range (96 - known.length)).map (fun j => Config.freeByte free (64 + 96 * i + known.length + j)))

/-- Room for one more record on the core: the least recently used of 256 is written back to FAR.SCB + 8,192 × its number.
[DESIGN CHOICE, log 80] -/
def roomRecord (s : State) : State :=
  let held := s.far.tgt.filter (fun t => t.held)
  if held.length < 256 then s
  else
    match held with
    | [] => s
    | t :: r =>
      let v := r.foldl (fun (a : TgtSess) b => if b.used < a.used then b else a) t
      let s1 := (portWrite s (s.far.regs.scb.toNat * 4096 + 8192 * v.num.toNat) (recordBytes s.free v)).modTgt v.num
        (fun t => { t with held := false })
      { s1 with free := s.free + 1 }

/-- SESSION_RECORD_FILL: the record of a session is read in, once its lines have come; an uncorrectable error in it raises job abort (R358).
[DESIGN CHOICE, log 80] [DESIGN CHOICE, log 140] -/
def execSessionRecordFill (sess : BitVec 14) (s : State) : Out :=
  .next (
    match s.far.tgt.find? (fun t => t.num == sess) with
    | none => s
    | some t =>
      let a := s.far.regs.scb.toNat * 4096 + 8192 * sess.toNat
      if t.held then s
      else
        match agentRead (.sess sess.toNat) (cutAt 128 60 a 6208) [] s with
        | .wait s1 => s1
        | .got _ (some b) s1 => fatalNoEvent s1 b.1 b.2 (some a) false
        | .got _ none s1 =>
          let n := s1.nextUse
          (roomRecord s1).modTgt sess (fun t => { t with held := true, used := n }))

/-! ### The filter (R357, R368) -/

/-- How a request is performed: its response code and body; or it waits for what it reads, and is received again. -/
structure Served where
  code : Nat
  body : List Byte
  s : State
  wait : Bool := false

/-- A request goes back to the received messages. -/
def keepMsg (s : State) (m : FarMsg) : State :=
  if s.far.rxMsgs.contains m then s else s.modFar (fun f => { f with rxMsgs := f.rxMsgs ++ [m] })

/-- Perform a request that the filter lets through, and answer it. A code that asks for a retry leaves the session as it was.
[DEDUCED, log 79] -/
def serveNew (s : State) (t : TgtSess) (m : FarMsg) (run : State → Served) : State :=
  let r := run s
  let resp := respMsg m r.code r.body
  if r.wait then keepMsg r.s m
  else if retryCode r.code then sendMsg r.s resp
  else
    let sq := m.seq.toNat
    let h := t.h.toNat
    let map : BitVec 64 :=
      if h < sq then (if 64 ≤ sq - h then 1 else (t.m <<< (sq - h)) ||| 1) else t.m ||| ((1 : BitVec 64) <<< (h - sq))
    let s1 := r.s.modTgt t.num (fun t => { t with
      h := if h < sq then m.seq else t.h
      m := map
      slots := (sq % 64, resp) :: t.slots.filter (fun p => p.1 != sq % 64) })
    sendMsg s1 resp

/-- The filter of R357 on a session whose record is on the core. -/
def filterReq (s : State) (t : TgtSess) (m : FarMsg) (run : State → Served) : State :=
  let n := s.nextUse
  let s1 := s.modTgt t.num (fun t => { t with used := n })
  let sq := m.seq.toNat
  let h := t.h.toNat
  if h < sq then serveNew s1 t m run
  else if h - sq < 64 then
    if t.m.getLsbD (h - sq) then
      match t.slots.find? (fun p => p.1 == sq % 64) with
      | some p => sendMsg s1 p.2
      | none => s1
    else serveNew s1 t m run
  else sendMsg s1 (respMsg m 0x01 [])

/-- Whether this endpoint takes part in its job. -/
def State.joined (s : State) : Bool := s.far.regs.jstate == .joined && s.far.regs.en

/-- A request at this endpoint: dropped in job abort (Table 15-11); else refused when not joined or by its epoch, and passed
through its session. A request whose session record is not on the core waits (R358). -/
def onRequest (op : Nat) (m : FarMsg) (s : State) (run : State → Served) : Out :=
  .next (
    let s0 := takeMsg s m
    if m.kind ≠ 0 ∨ m.op.toNat ≠ op then s
    else if s.rel.aborted || s.far.regs.jstate == .aborted then s0
    else if ! s.joined then sendMsg s0 (respMsg m 0x08 [])
    else if m.epoch < s.far.regs.epoch then sendMsg s0 (respMsg m 0x07 [])
    else if s.far.regs.epoch < m.epoch then sendMsg s0 (respMsg m 0x0D [])
    else
      match s.tgtSess m with
      | none => sendMsg s0 (respMsg m 0x09 [])
      | some t =>
        if t.held then
          let r := meet14 s0 t.num.toNat
          if r.1 then filterReq r.2 t m run else r.2
        else keepMsg s m)

/-! ### Loads, stores and atomics (R347) -/

/-- The checks of R347: the response code of the first that fails. -/
def tgtCheck (s : State) (ga n : Nat) (amo : Bool) : Option Nat :=
  let pa := ga % 2 ^ 48
  let lo := s.far.regs.expb.toNat * 4096
  let hi := s.far.regs.expl.toNat * 4096 + 0xFFF
  if pa < lo ∨ hi < pa + n - 1 then some 0x02
  else if (linesOf pa n).any (fun l => s.mtype (max pa (l * 128)) == .device) then some 0x03
  else if n = 0 ∨ (amo && pa % n != 0) ∨ 64 < pa % 64 + n then some 0x03
  else none

/-- Uncorrectable data at this core as a far target, in the structure and at the place that show it: the error is logged and job abort raised
(Table 17-6, cause 0x09). -/
def tgtError (s : State) (pa : Nat) (bad : Nat × Nat) : Served :=
  { code := 0x04, body := [], s := origAbort (logFatal s 0 .ul bad.1 0 bad.2 (some pa) false 0).2 0x09 }

/-- A read of near memory for a request, which waits until the near port has answered where it must. [DESIGN CHOICE, log 140] -/
def tgtRead (s : State) (m : FarMsg) (pa n : Nat) (go : List Byte → State → Served) : Served :=
  match agentRead (.target m) (cutAt 128 3 pa n) [] s with
  | .wait s1 => { code := 0, body := [], s := s1, wait := true }
  | .got _ (some bad) s1 => tgtError s1 pa bad
  | .got bs none s1 => go bs s1

/-- A far load. -/
def serveFld (m : FarMsg) (s : State) : Served :=
  let n := bits m.attr.toNat 6 0
  let pa := m.addr.toNat % 2 ^ 48
  match tgtCheck s m.addr.toNat n false with
  | some c => { code := c, body := [], s := s }
  | none => tgtRead s m pa n (fun bs s => { code := 0, body := bs, s := s })

/-- A far store. -/
def serveFst (m : FarMsg) (s : State) : Served :=
  let pa := m.addr.toNat % 2 ^ 48
  match tgtCheck s m.addr.toNat m.body.length false with
  | some c => { code := c, body := [], s := s }
  | none => { code := 0, body := [], s := portWrite s pa m.body }

/-- A far atomic. An operation that version 1 lacks is answered 0x0B when the link runs at version 1 (R353); so is one that no
source may send. [DEDUCED, log 81] -/
def serveFamo (m : FarMsg) (s : State) : Served :=
  let d := m.attr.getLsbD 7
  let op := bits m.attr.toNat 4 0
  let n := if d then 8 else 4
  let pa := m.addr.toNat % 2 ^ 48
  let old1 := s.far.regs.pver != 0 && decide (s.far.regs.pver.toNat < 2) && (op == 0x5 || op == 0x6 || op == 0xA)
  if ! amoExists op d || ! amoFar op || old1 then { code := 0x0B, body := [], s := s }
  else
    match tgtCheck s m.addr.toNat n true with
    | some c => { code := c, body := [], s := s }
    | none =>
      tgtRead s m pa n (fun bs s =>
        let old := leNat bs
        let x := leNat (m.body.take 8)
        let c := leNat ((m.body.drop 8).take 8)
        { code := 0, body := toLE 8 (amoOld (8 * n) old).toNat, s := portWrite s pa (toLE n (amoNew op (8 * n) old x c)) })

def execFldRequest (m : FarMsg) (s : State) : Out := onRequest 1 m s (serveFld m)
def execFstRequest (m : FarMsg) (s : State) : Out := onRequest 2 m s (serveFst m)
/-- [DEDUCED, log 81] -/
def execFamoRequest (m : FarMsg) (s : State) : Out := onRequest 3 m s (serveFamo m)

/-! ### Queue pushes (R380, R383) -/

/-- A remote push: 0x05 when the queue is invalid, has RMT = 0, or the length does not suit it; 0x0A when a lossless queue is
full. A descriptor that is not held is read first (R376). [DEDUCED, log 91] -/
def serveQpush (m : FarMsg) (s0 : State) : Served :=
  let q := bits m.addr.toNat 19 0
  let s := fetchQ s0 q
  match meetQ s q with
  | (none, s1) => { code := 0, body := [], s := s1, wait := true }
  | (some d, s1) =>
    let self := d.isFwd && m.srcNode == s.far.regs.node && m.srcEp == s.hw.epnum && bits (d.act.getD 0 0).toNat 19 0 == q
      && bits (d.act.getD 0 0).toNat 59 46 == s.far.regs.node.toNat && bits (d.act.getD 0 0).toNat 45 40 == s.hw.epnum.toNat
    if ! d.v || ! d.rmt || ! d.lenOk m.body.length || self then { code := 0x05, body := [], s := s1 }
    else
      match allocQ s1 d m.body with
      | .ok s2 => { code := 0x00, body := [], s := s2 }
      | .hold s2 => { code := 0x0A, body := [], s := s2 }
      | .fault _ s2 => { code := 0x05, body := [], s := s2 }

def execQpushRequest (m : FarMsg) (s : State) : Out := onRequest 4 m s (serveQpush m)

/-! ### Sessions opened and closed (R355) -/

/-- SOPEN: a session is opened or found again. -/
def execSopen (m : FarMsg) (s : State) : Out :=
  .next (
    let s0 := takeMsg s m
    if m.kind ≠ 0 ∨ m.op ≠ 6 then s
    else if s.rel.aborted || s.far.regs.jstate == .aborted then s0
    else if ! s.joined then sendMsg s0 (respMsg m 0x08 [])
    else if m.epoch < s.far.regs.epoch then sendMsg s0 (respMsg m 0x07 [])
    else if s.far.regs.epoch < m.epoch then sendMsg s0 (respMsg m 0x0D [])
    else
      let src := fun (t : TgtSess) => t.node == m.srcNode && t.ep == m.srcEp
      let answer := fun (s : State) (n : BitVec 14) => sendMsg s { respMsg m 0x00 [] with sess := n }
      match s0.far.tgt.find? (fun t => src t && t.sgen == m.aux) with
      | some t => answer s0 t.num
      | none =>
        let s1 := s0.modFar (fun f => { f with tgt := f.tgt.filter (fun t => ! src t) })
        if 16384 ≤ s1.far.tgt.length then sendMsg s1 (respMsg m 0x0A [])
        else
          let n : BitVec 14 := BitVec.ofNat 14 (((List.range 16384).find? (fun i => s1.far.tgt.all (fun t => t.num.toNat != i))).getD 0)
          let u := s1.nextUse
          let s2 := (roomRecord s1).modFar (fun f => { f with tgt := f.tgt ++
            [{ num := n, node := m.srcNode, ep := m.srcEp, sgen := m.aux, h := 0, m := 0, slots := [], held := true, used := u }] })
          answer s2 n)

/-- A session is closed; its closing passes the filter as every other request does (R357). -/
def serveSclose (m : FarMsg) (s : State) : Served :=
  { code := 0, body := [], s := s.modFar (fun f => { f with tgt := f.tgt.filter (fun t => t.num != m.sess) }) }

/-- SCLOSE. -/
def execSclose (m : FarMsg) (s : State) : Out := onRequest 7 m s (serveSclose m)

end Sys2Proof.Machine
end

