-- ==== Sys2Proof/Machine/Window.lean ====
section
/-! DEFINITION. Ordered reduction windows (15, R361 to R365). -/

namespace Sys2Proof.Machine

open Sys2Proof

/-! ### FRED (R361) -/

/-- Doubleword 3 of a RED request: GEN, WIN and RANK. -/
def redAddr (gen win rank : Nat) : Nat := fld gen 48 + fld win 36 + rank

def execFred (rs1 rs2 rs3 : RSpec) (s : State) : Out :=
  extBarred s (fun k s =>
    let t := s.str k
    let h := (t.x rs1).toNat
    let a := t.x rs2
    let n := (t.x rs3).toNat
    if ! (xOk rs1 && xOk rs2 && xOk rs3) || bits h 63 62 != 0 || bits h 35 32 != 0 || bits h 15 10 != 0 || n == 0 || decide (1024 < n) then
      illegal s
    else if t.status.lvl == .ul && ! s.far.regs.ufred then privileged s
    else if ! isWin a || a.toNat % 16 != 0 || decide (spw + s.spadSize < a.toNat + 4 * n) then .event (mkEv 0x0D a 0 .ul) s
    else if spWrites s k || devOpen s k then .wait s
    else
      let o := a.toNat - spw
      let m := spMeet s k o (4 * n)
      if ! m.1 then .wait m.2
      else
        let q := frameLoad m.2 k a.toNat (m.2.spad.getN o (4 * n))
        let msg := reqMsg q.2 5 (BitVec.ofNat 14 (bits h 61 48)) (BitVec.ofNat 6 (bits h 47 42)) 0
          (redAddr (bits h 31 16) (bits h 41 36) (bits h 9 0)) q.1
        .done (farPost q.2 k 0 none msg))

/-! ### Configuration and status (R362, Table 15-9) -/

/-- Change window w. -/
def State.modWinR (s : State) (w : Fin 64) (f : RWin → RWin) : State := s.modFar (fun x => { x with wins := vmod x.wins w f })

/-- Whether an RWCFG block keeps its reserved bits 0 and its bases aligned and in Normal memory. -/
def rwOk (s : State) (d : List Word) : Bool :=
  let g := fun (i : Nat) => (d.getD i 0).toNat
  let n := bits (g 0) 25 16 + 1
  let c := bits (g 0) 9 0 + 1
  bits (g 0) 37 36 != 3 && bits (g 0) 15 10 == 0 && bits (g 0) 31 26 == 0 && bits (g 0) 35 33 == 0 && bits (g 0) 47 38 == 0
    && bits (g 0) 63 50 == 0 && g 1 % 64 == 0 && g 2 % 64 == 0 && bits (g 3) 63 20 == 0 && bits (g 4) 63 62 == 0 && bits (g 4) 35 32 == 0
    && bits (g 4) 15 10 == 0 && bits (g 5) 63 16 == 0 && g 6 == 0 && g 7 == 0 && s.allNormal (g 1) (c * n * 4) && s.allNormal (g 2) (n * 4)

/-- The window that a valid block arms. -/
def rwOf (d : List Word) : RWin :=
  let g := fun (i : Nat) => (d.getD i 0).toNat
  { RWin.zero with
    st := .armed
    cntm1 := bits (g 0) 9 0
    nm1 := bits (g 0) 25 16
    int := tbit (g 0) 32
    op := bits (g 0) 37 36
    qp := tbit (g 0) 48
    fwd := tbit (g 0) 49
    spa := g 1
    rpa := g 2
    qnum := bits (g 3) 19 0
    handle := d.getD 4 0
    gen := BitVec.ofNat 16 (g 5) }

/-- [DEDUCED, log 94] -/
def execRwcfg (w : BitVec 6) (rs1 : RSpec) (s : State) : Out :=
  extBarred s (fun k s =>
    if ! xOk rs1 then illegal s
    else if (s.str k).status.lvl = .ul then privileged s
    else
      let a := (s.str k).x rs1
      if a.toNat % 64 ≠ 0 then .event (mkEv 0x0D a 0 .ul) s
      else match loadBlock s (s.xctx k) a 64 64 with
        | .fault e s1 => .event e s1
        | .check s1 => .wait s1
        | .ok b s1 =>
          let i : Fin 64 := Fin.ofNat 64 w.toNat
          if (s1.far.wins[i]).st ≠ .idle ∨ ! rwOk s1 (dwords b 8) then illegal s1
          else .done (s1.modWinR i (fun _ => rwOf (dwords b 8))))

/-- The code of a window state. -/
def WinSt.code : WinSt → Nat
  | .idle => 0
  | .armed => 1
  | .filling => 2

/-- What RWSTAT returns. -/
def rwstatWord (w : RWin) (sel : Nat) : Word :=
  if sel = 0 then w64 (fld w.gen.toNat 48 + fld (w.next % 1024) 32 + w.st.code)
  else w64 (fld (w.lastSat % 2 ^ 32) 32 + w.lastFlush % 2 ^ 32)

def execRwstat (rd : RSpec) (w : BitVec 6) (sel : BitVec 2) (s : State) : Out :=
  ext s (fun k s =>
    if ! xOk rd || decide (2 ≤ sel.toNat) then illegal s
    else if (s.str k).status.lvl = .ul then privileged s
    else .done (s.setX k rd (rwstatWord (s.far.wins[Fin.ofNat 64 w.toNat]) sel.toNat)))

def execRwkill (w : BitVec 6) (s : State) : Out :=
  extBarred s (fun k s =>
    if (s.str k).status.lvl = .ul then privileged s
    else .done (s.modWinR (Fin.ofNat 64 w.toNat) (fun x => { x with st := .idle, present := [], next := 0 })))

/-! ### Folding (R363) -/

/-- The fold of one element: the code and the saturations and flushes it counts; none for rank 0. -/
def foldElem (int : Bool) (op : Nat) (res : Option Nat) (x : Nat) : Nat × Nat × Nat :=
  let f : TFmt := if int then .i32 else .f32
  let d := tdec f x 0x7F
  match res with
  | none =>
    let e := tenc f d.1
    (e.code, bit e.sat, d.2 + bit e.flush)
  | some r =>
    let a := tdec f r 0x7F
    let e := tenc f (valueOp (if op = 0 then 0x01 else if op = 1 then 0x06 else 0x05) 0 a.1 (some d.1) none)
    (e.code, bit e.sat, a.2 + d.2 + bit e.flush)

/-- Fold rank NEXT of window i. -/
def foldRank (s : State) (i : Fin 64) : State :=
  let w := s.far.wins[i]
  let n := w.nm1 + 1
  let p := portRead s (w.spa + w.next * 4 * n) (4 * n)
  let q := if w.next = 0 then ([], p.2) else portRead p.2 w.rpa (4 * n)
  let stage := p.1
  let res := q.1
  let at' := fun (b : List Byte) (j : Nat) => leNat ((b.drop (4 * j)).take 4)
  let r := (List.range n).map (fun j => foldElem w.int w.op (if w.next = 0 then none else some (at' res j)) (at' stage j))
  let s1 := portWrite q.2 w.rpa (r.flatMap (fun p => toLE 4 p.1))
  s1.modWinR i (fun w => { w with
    next := w.next + 1
    sat := w.sat + (r.map (fun p => p.2.1)).sum
    flush := w.flush + (r.map (fun p => p.2.2)).sum })

/-- Fold every rank that is present in order. -/
def foldRanks : Nat → State → Fin 64 → State
  | 0, s, _ => s
  | n + 1, s, i =>
    let w := s.far.wins[i]
    if w.next ≤ w.cntm1 ∧ w.present.contains w.next then foldRanks n (foldRank s i) i else s

/-- complete(w) (R364): the completion entry, the forward, and the window armed for its next generation. A push that a full
lossless queue holds back leaves the window FILLING with every rank folded. [DESIGN CHOICE, log 84] -/
def completeWin (s : State) (i : Fin 64) : State :=
  let w := s.far.wins[i]
  if w.st ≠ .filling ∨ w.next ≠ w.cntm1 + 1 ∨ s.rel.aborted then s
  else
    let w1 := { w with lastSat := w.sat, lastFlush := w.flush }
    let entry := toLE 8 (rwstatWord w1 0).toNat ++ toLE 8 s.core.gtime.toNat ++ toLE 8 w.rpa ++ toLE 8 (rwstatWord w1 1).toNat ++ toLE 32 0
    match (if w.qp then pushQ s w.qnum none entry else .ok s) with
    | .hold s1 => s1
    | .fault _ s1 => origAbort s1 0x0A
    | .ok s1 =>
      let h := w.handle.toNat
      let s2 :=
        if w.fwd then
          let p := portRead s1 w.rpa (4 * (w.nm1 + 1))
          let body := p.1
          let q := farRequest p.2 (.window i) 0 none false (reqMsg s1 5 (BitVec.ofNat 14 (bits h 61 48)) (BitVec.ofNat 6 (bits h 47 42)) 0
            (redAddr w.gen.toNat (bits h 41 36) (bits h 9 0)) body)
          if s1.farOn then q.2 else origAbort (q.2.dropReq q.1) 0x0A
        else s1
      s2.modWinR i (fun _ => { w1 with st := .armed, present := [], next := 0, gen := w.gen + 1, sat := 0, flush := 0 })

/-- A contribution that arrives at a window. -/
def serveRed (m : FarMsg) (s0 : State) : Served :=
  let a := m.addr.toNat
  let i : Fin 64 := Fin.ofNat 64 (bits a 41 36)
  let s := completeWin s0 i
  let gen : BitVec 16 := BitVec.ofNat 16 (bits a 63 48)
  let rank := bits a 9 0
  let w := s.far.wins[i]
  if w.st = .idle then { code := 0x06, body := [], s := s }
  else if gen = w.gen + 1 then { code := 0x0A, body := [], s := s }
  else if gen ≠ w.gen ∨ w.cntm1 < rank ∨ m.body.length ≠ 4 * (w.nm1 + 1) ∨ w.present.contains rank then { code := 0x06, body := [], s := s }
  else
    let s1 := portWrite s (w.spa + rank * m.body.length) m.body
    let s2 := s1.modWinR i (fun w => { w with
      present := rank :: w.present
      since := if w.st = .filling then w.since else s.core.gtime
      st := .filling })
    { code := 0x00, body := [], s := completeWin (foldRanks 1024 s2 i) i }

def execRedRequest (m : FarMsg) (s : State) : Out := onRequest 5 m s (serveRed m)

/-- WINDOW_WATCHDOG: a window that has been FILLING for longer than FAR.WTO µs before its completion begins raises job abort
(R365). The record holds w in LOC, GEN and NEXT in EXTRA. [DESIGN CHOICE, log 85] -/
def execWindowWatchdog (w : BitVec 6) (s : State) : Out :=
  .next (
    let i : Fin 64 := Fin.ofNat 64 w.toNat
    let x := s.far.wins[i]
    if x.st = .filling ∧ x.next ≤ x.cntm1 ∧ s.far.regs.wto.toNat * 1000 < (s.core.gtime - x.since).toNat ∧ ! s.rel.aborted then
      origAbort (logFatal s 0 .ul 0x00 0 w.toNat none false (fld x.gen.toNat 16 + x.next)).2 0x07
    else s)

end Sys2Proof.Machine
end

