-- ==== Sys2Proof/Machine/Rel.lean ====
section
/-! DEFINITION. Firefly, the checkpoint engine, and the commands of the REL page (17, R396 to R412). -/

namespace Sys2Proof.Machine

open Sys2Proof

/-! ### Firefly (R396, R397) -/

/-- Whether an L2 way is skipped: disabled or powered down. -/
def State.l2Off (s : State) (w : Nat) : Bool :=
  s.ms.l2.dis.getLsbD w || s.ms.page.l2off.getLsbD w

/-- Firefly reads a tag (R396). -/
def fireTag (s : State) (c : CId) (set way : Nat) : State := readTag true s c set way

/-- Firefly reads one data word of an L2 line: a single-bit error is corrected in place; an uncorrectable word of a clean line
invalidates the line, of a dirty line it is fatal and the line leaves poisoned (Table 13-5). -/
def fireWord (set way : Nat) (s : State) (w : Nat) : State :=
  let loc := cacheLoc set way w
  match s.markAt 0x03 loc, s.ms.l2.at set way with
  | some m, some l =>
    let pa := l.line * 128 + 8 * w
    let s1 := s.dropMark 0x03 loc
    if ! m.unc then wayCount (logCorr s1 none 0x03 loc (some pa) true) .l2 way
    else if l.st == .modified || s.l1dDirty l.line then
      fatalNoEvent (s1.addMark { code := 0x15, loc := l.line, unc := true }) 0x03 loc (some pa) true
    else wayCount (logCorr ((dropL1 s1 l.line).modArr .l2 (fun a => a.drop false l.line)) none 0x03 loc (some pa) true) .l2 way
  | _, _ => s

/-- One L2 step: the line at the position, data and tag, and one set of L1I and of L1D tags, in ascending order of their structure codes (R401).
[DESIGN CHOICE, log 45]
[DESIGN CHOICE, log 99] -/
def fireL2 (s : State) : State :=
  let p := s.rel.ffL2.toNat
  let set := p / 16
  let way := p % 16
  let s1 := if s.l2Off way then s else (List.range 16).foldl (fireWord set way) s
  let s2 := (List.range 4).foldl (fun s w => if s.ms.l1i.dis.getLsbD w then s else fireTag s .l1i (p % 256) w) s1
  let s3 := (List.range 8).foldl (fun s w => if s.ms.l1d.dis.getLsbD w then s else fireTag s .l1d (p % 128) w) s2
  let s4 := if s.l2Off way then s3 else fireTag s3 .l2 set way
  s4.modRel (fun r => { r with ffL2 := r.ffL2 + 1 })

/-- FIREFLY_L2_STEP. [DESIGN CHOICE, log 31] [DESIGN CHOICE, log 45] -/
def execFireflyL2Step (s : State) : Out := .next (if s.rel.ffen && s.clockOn then fireL2 s else s)

/-- Firefly reads one 8-byte scratchpad word. -/
def fireSpWord (s : State) (w : Nat) : State :=
  match s.markAt 0x07 w with
  | none => s
  | some m => if m.unc then fatalNoEvent s 0x07 0 (some w) true else logCorr (s.dropMark 0x07 w) none 0x07 0 (some w) true

/-- One scratchpad step: the 64-byte word at the position; the position wraps at the scratchpad's end (R414 in E3-L).
[DESIGN CHOICE, log 45] -/
def fireSp (s : State) : State :=
  let p := s.rel.ffSp.toNat
  let s1 := (List.range 8).foldl (fun s j => fireSpWord s (64 * p + 8 * j)) s
  s1.modRel (fun r => { r with ffSp := if (p + 1) * 64 < s.spadSize then r.ffSp + 1 else 0 })

/-- FIREFLY_SP_STEP. [DESIGN CHOICE, log 45] -/
def execFireflySpStep (s : State) : Out := .next (if s.rel.ffen && s.clockOn then fireSp s else s)

/-! ### Clearing records, and the abort request (R399, R400, R403) -/

/-- ECLR_CORR. -/
def execEclrCorr (s : State) : Out :=
  .next (if s.pwr.pstate = .c0 then s.modRel (fun r => { r with crec := vrep 16 (vrep 8 0), cecount := 0 }) else s)

/-- ECLR_FATAL. -/
def execEclrFatal (s : State) : Out :=
  .next (
    if s.pwr.pstate = .c0 then s.modRel (fun r => { r with frec := vrep 4 (vrep 8 0), abst := 0, abt := 0, fovf := 0 })
    else s)

/-- ABREQ. -/
def execAbreq (s : State) : Out := .next (if s.pwr.pstate = .c0 then origAbort s 0x0C else s)

/-! ### The checkpoint image (R410, Table 17-8) -/

/-- Bytes of the scratchpad range. -/
def Rel.spBytes (r : Rel) : Nat := r.cklen0.toNat * 4096

/-- First byte of the scratchpad range. -/
def Rel.spFirst (r : Rel) : Nat := r.ckoff.toNat * 4096

/-- The banks that BANKS names, lowest first; E3-L has one. -/
def State.ckBankList (s : State) : List (Fin 2) :=
  ([0, 1] : List (Fin 2)).filter (fun b => s.rel.ckbanks.getLsbD b.val && decide (b.val < s.nBanks))

/-- Bytes of the image. -/
def State.ckTotal (s : State) : Nat := 0x100 + s.ckBankList.length * frameLen + s.rel.spBytes

/-- n bytes at an offset of the frame of a bank; a part that the geometry leaves unwritten, or a free bank, is 0. -/
def ckFrame (s : State) (b : Fin 2) (off n : Nat) : List Byte :=
  match (s.tiles.banks[b]).owner with
  | none => toLE n 0
  | some c =>
    let shape := (s.str c.k).num.tshape
    let cells := (s.tiles.banks[b]).cells
    if off < 0x100 then ((frameHeader cells c shape).drop off).take n
    else
      let r := if off < 0x20100 then (off - 0x100) / 0x2000 else 16 + (off - 0x20100) / 0x4000
      if (regNums shape).contains r && decide (off - regOff r + n ≤ regLen shape r) then cells.dense off n else toLE n 0

/-- 64 bytes of the image body, at an image offset from 0x100 on. -/
def ckChunk (s : State) (off : Nat) : List Byte :=
  let o := off - 0x100
  match s.ckBankList[o / frameLen]? with
  | some b => ckFrame s b (o % frameLen) 64
  | none => s.spad.dense (s.rel.spFirst + (o - s.ckBankList.length * frameLen)) 64

/-- The CRC of the image bytes that have been sent (R410). [DESIGN CHOICE, log 100] -/
def ckCrcOf (s : State) : Nat := s.rel.ckacc ^^^ 0xFFFFFFFF

/-- The 256 bytes of the header. -/
def ckHeader (s : State) : List Byte :=
  toLE 8 (fld s.far.regs.epoch.toNat 32 + fld s.rel.ckbanks.toNat 8 + 1) ++ toLE 8 s.rel.cktime.toNat ++ toLE 8 (s.feat[0]).toNat
    ++ toLE 8 (fld s.rel.spBytes 32 + s.rel.spFirst) ++ toLE 8 (ckCrcOf s) ++ toLE 216 0

/-! ### The checkpoint engine (R408, R409, R411, R412) -/

/-- The checkpoint's requests. -/
def State.ckReqs (s : State) : List FarReq := s.far.reqs.filter (fun r => r.owner == .ckpt)

/-- FAILED with an error; the requests in progress are given up. [DEDUCED, log 101] -/
def ckFail (s : State) (err : Nat) : State :=
  (s.modRel (fun r => { r with ckst := .failed, ckerr := BitVec.ofNat 8 err })).modFar
    (fun f => { f with reqs := f.reqs.filter (fun r => r.owner != .ckpt) })

/-- Send one FST of 64 bytes to an offset of the image. [DEDUCED, log 101] -/
def ckSend (s : State) (off : Nat) (bs : List Byte) : State :=
  let ga := (s.rel.ckga.toNat + off) % 2 ^ 62
  let q := farRequest s .ckpt 0 none false (reqMsg s 2 (BitVec.ofNat 14 (bits ga 61 48)) (s.dstEp ga) 0 ga bs)
  if s.farOn then q.2 else ckFail q.2 0x08

/-- A scratchpad word that the engine reads: it has no consumer, so an uncorrectable one raises job abort. [DEDUCED, log 102] -/
def ckMeet (s : State) (off : Nat) : State :=
  let o := off - 0x100
  if s.marks.isEmpty || decide (o < s.ckBankList.length * frameLen) then s
  else
    (spWords (s.rel.spFirst + (o - s.ckBankList.length * frameLen)) 64).foldl (fun s w =>
      match s.markAt 0x07 w with
      | none => s
      | some m => if m.unc then fatalNoEvent s 0x07 0 (some w) false else logCorr (s.dropMark 0x07 w) none 0x07 0 (some w) false) s

/-- COPY sends the body, keeping up to 64 FSTs in flight. [DESIGN CHOICE, log 100] -/
def ckPump : Nat → State → State
  | 0, s => s
  | n + 1, s =>
    if s.rel.ckst = .copy ∧ s.rel.ckpos ≠ 0 ∧ s.rel.ckpos < s.ckTotal ∧ s.ckReqs.length < 64 then
      let p := s.rel.ckpos
      let s1 := ckMeet s p
      let bs := ckChunk s1 p
      if s1.rel.ckst = .copy then
        ckPump n ((ckSend (s1.modRel (fun r => { r with ckpos := p + 64, ckacc := bs.foldl crcByte r.ckacc })) p bs))
      else s1
    else s

/-- A checkpoint is started over the banks of a mask (R408, Table 17-10); job abort is tested first. [DEDUCED, log 101] -/
def startCkpt (banks : BitVec 2) (s : State) : State :=
  if s.ckHold then s
  else if s.rel.aborted then s.modRel (fun r => { r with ckst := .failed, ckerr := 0xFE })
  else if s.far.regs.jstate ≠ .joined then s.modRel (fun r => { r with ckst := .failed, ckerr := 0xF0 })
  else if s.spadSize < s.rel.spFirst + s.rel.spBytes then s.modRel (fun r => { r with ckst := .failed, ckerr := 0xF1 })
  else s.modRel (fun r => { r with ckst := .drain, ckerr := 0, ckbanks := if s.hw.lean then banks &&& 1 else banks })

/-- CKCMD_GO. -/
def execCkcmdGo (banks : BitVec 2) (s : State) : Out := .next (if s.pwr.pstate = .c0 then startCkpt banks s else s)

/-- Whether everything that R409 waits for has completed. -/
def State.drained (s : State) : Bool :=
  s.tiles.inflight.isEmpty && s.tiles.claim.all (fun c => match c.ph with | .waiting _ => true | _ => false) && s.weevils.all (fun e => e.pieces.isEmpty) && s.tiles.tmu.gang.forming.isNone

/-- A parity error of a bank that the image takes is raised on the strand of its context, as a save raises it. -/
def ckParity (s : State) (b : Fin 2) : State :=
  match (s.tiles.banks[b]).owner with
  | none => s
  | some c =>
    match s.parAt b (regNums (s.str c.k).num.tshape) 64 with
    | some h => tilePar s c.k h
    | none => s

/-- CHECKPOINT_DRAIN_DONE. [DESIGN CHOICE, log 100] -/
def execCheckpointDrainDone (s : State) : Out :=
  .next (
    if s.rel.ckst = .drain ∧ s.drained then
      let s1 := s.modRel (fun r => { r with ckst := .copy, cktime := s.core.gtime, ckpos := 0x100, ckacc := 0xFFFFFFFF })
      ckPump 64 (s1.ckBankList.foldl ckParity s1)
    else s)

/-- CHECKPOINT_BODY_ACKED: every body FST has received 0x00, and the header follows. [DESIGN CHOICE, log 100] -/
def execCheckpointBodyAcked (s : State) : Out :=
  .next (
    if s.rel.ckst = .copy ∧ s.rel.ckpos ≠ 0 ∧ s.ckTotal ≤ s.rel.ckpos ∧ s.ckReqs.isEmpty then
      let h := ckHeader s
      ([0, 1, 2, 3] : List Nat).foldl (fun (s : State) i =>
        if s.rel.ckst = .copy then ckSend s (64 * i) ((h.drop (64 * i)).take 64) else s) (s.modRel (fun r => { r with ckpos := 0 }))
    else s)

/-- CHECKPOINT_DONE: the header's responses have arrived. [DESIGN CHOICE, log 100] -/
def execCheckpointDone (s : State) : Out :=
  .next (
    if s.rel.ckst = .copy ∧ s.rel.ckpos = 0 ∧ s.ckReqs.isEmpty then
      s.modRel (fun r => { r with
        ckst := .done
        ckcrc := BitVec.ofNat 32 (ckCrcOf s)
        cklen := BitVec.ofNat 24 s.ckTotal })
    else s)

end Sys2Proof.Machine
end

