-- ==== Sys2Proof/Machine/Weevil.lean ====
section
/-! DEFINITION. The gather engines: WGO, WSTAT, WKILL, the issue and completion of pieces, failures and the end of an operation
(12, R290 to R300). -/

namespace Sys2Proof.Machine

open Sys2Proof

/-! ### The command block (Table 12-3) -/

/-- Change engine n. -/
def State.modEng (s : State) (n : Fin 4) (f : Engine → Engine) : State := { s with weevils := vmod s.weevils n f }

/-- Doubleword i of the block. -/
def Engine.dw (e : Engine) (i : Nat) : Nat := (e.blk.toList.getD i 0).toNat
/-- MODE[0]: rows by address. -/
def Engine.byAddr (e : Engine) : Bool := tbit (e.dw 0) 62
/-- MODE[1]: scatter. -/
def Engine.scatter (e : Engine) : Bool := tbit (e.dw 0) 63
/-- Bytes of a stream element. -/
def Engine.elSize (e : Engine) : Nat := if bits (e.dw 0) 61 60 = 0 then 4 else 8
/-- Bytes of a row. -/
def Engine.rowBytes (e : Engine) : Nat := 16 * (bits (e.dw 0) 12 0 + 1)
/-- COUNT. -/
def Engine.count (e : Engine) : Nat := bits (e.dw 2) 23 0
/-- The address of stream element i. -/
def Engine.elAddr (e : Engine) (i : Nat) : Word := w64 (e.dw 1 + i * e.elSize)
/-- The scratchpad offset of row i. -/
def Engine.rowSo (e : Engine) (i : Nat) : Nat := (bits (e.dw 6) 21 0 + i * bits (e.dw 6) 53 32) % 2 ^ 22
/-- The memory address of row i, whose stream element is v (R293). -/
def Engine.rowAddr (e : Engine) (v : Word) : Word := if e.byAddr then v else w64 (e.dw 4) + v * w64 (e.dw 5)

/-- With whose level and translation an engine makes its accesses (R290). -/
def Engine.xctx (e : Engine) : XCtx := { k := e.k, lv := e.lv, sap := e.sap, sep := false, ptb := e.ptb, asid := e.asid }

/-- The checks of R292 on a block. -/
def blockOk (s : State) (e : Engine) : Bool :=
  let g := e.dw
  let ifmt := bits (g 0) 61 60
  let span := e.count * e.elSize
  bits (g 0) 58 56 == 0 && bits (g 0) 35 13 == 0 && bits (g 2) 63 24 == 0 && bits (g 6) 63 54 == 0 && bits (g 6) 31 22 == 0 && g 7 == 0
    && decide (ifmt < 2) && (! e.byAddr || (ifmt == 1 && g 3 == 0 && g 4 == 0 && g 5 == 0))
    && (e.byAddr || (g 4 % 16 == 0 && g 5 % 16 == 0)) && bits (g 6) 21 0 % 16 == 0 && bits (g 6) 53 32 % 16 == 0
    && (e.count == 0 || decide (bits (g 6) 21 0 + (e.count - 1) * bits (g 6) 53 32 + e.rowBytes ≤ s.spadSize))
    && g 1 % e.elSize == 0
    && ! (winPart (w64 (g 1)) span || (isWin (w64 (g 1)) && decide (spw + s.spadSize < g 1 + span)))

/-! ### Status (Table 12-5) -/

/-- The lowest row not known complete. -/
def Engine.lowRow (e : Engine) : Nat := e.pieces.foldl (fun a p => min a p.row) e.row

/-- NEXT follows the pieces. -/
def Engine.track (e : Engine) : Engine := { e with next := e.lowRow }

/-- What WSTAT returns. -/
def wstatWord (e : Engine) (sel : Nat) : Word :=
  if e.st = .idle then 0
  else if sel = 0 then
    w64 (fld e.cause.toNat 56 + fld e.rsn.toNat 48 + fld e.frsp.toNat 40 + fld e.k.val 32 + fld e.lv.code 8 + e.st.code)
  else if sel = 1 then w64 e.next
  else e.faddr

/-- Whether strand k at its level may read or stop engine e (R291). -/
def engMay (s : State) (k : StrandId) (e : Engine) : Bool :=
  let lv := (s.str k).status.lvl
  e.st == .idle || lv == .ml || (e.k == k && ! lv.below e.lv)

def execWstat (rd : RSpec) (n sel : BitVec 2) (s : State) : Out :=
  ext s (fun k s =>
    let e := s.weevils[Fin.ofNat 4 n.toNat]
    if ! xOk rd || decide (s.nWeevils ≤ n.toNat) || sel == 0b11 then illegal s
    else if ! engMay s k e then privileged s
    else .done (s.setX k rd (wstatWord e sel.toNat)))

/-! ### Failures (R298, Table 12-4) -/

/-- Event 0x1D with a reason. -/
def gatherEv (n : Fin 4) (reason : Nat) (fa : Word) (rel : Lvl) (src : EvSrc) (asid : BitVec 16) : Ev :=
  { num := 0x1D, fa := fa, info := BitVec.ofNat 16 (fld reason 8 + n.val), rel := rel, src := src, asid := asid }

/-- Whether a reason suspends the engine. -/
def suspends (reason : Nat) : Bool := reason == 0x05 || reason == 0x06 || reason == 0x0B

/-- A failure is applied once the pieces already issued have completed: the state, NEXT and FADDR, and the event.
[DEDUCED, log 70] -/
def applyFail (s : State) (n : Fin 4) : State :=
  let e := s.weevils[n]
  match e.fail with
  | none => s
  | some f =>
    if e.st ≠ .running ∨ ! e.pieces.isEmpty ∨ e.killed then s
    else
      let s1 := s.modEng n (fun e => { e with
        st := if suspends f.reason then .suspended else .aborted
        next := f.row
        faddr := f.faddr
        rsn := BitVec.ofNat 8 f.reason
        frsp := BitVec.ofNat 8 f.frsp
        cause := 0x1D
        fail := none
        record := none })
      addPendEv s1 e.k (gatherEv n f.reason f.svfa e.lv (.engine n) e.asid)

/-- A failure is noted; of several, the one of the lowest row, and of the lowest address in it, stands. [DEDUCED, log 70] -/
def noteFail (s : State) (n : Fin 4) (f : EngFail) : State :=
  applyFail (s.modEng n (fun e =>
    match e.fail with
    | some g => if f.row < g.row ∨ (f.row = g.row ∧ f.faddr < g.faddr) then { e with fail := some f } else e
    | none => { e with fail := some f })) n

/-! ### Completion (R299) -/

/-- Every piece of every row has completed: DONE, and the completion entry. A push that a full lossless queue holds back keeps the
engine RUNNING. What SVFA and FADDR hold when the push is refused is open: free values. [DESIGN CHOICE, log 71]
[DEDUCED, log 61] -/
def finishEng (s : State) (n : Fin 4) : State :=
  let e := s.weevils[n]
  if e.st ≠ .running ∨ e.row < e.count ∨ ! e.pieces.isEmpty ∨ e.fail.isSome ∨ e.killed then s
  else
    let s1 := s.modEng n (fun e => { e with st := .done, next := e.count })
    if ! tbit (e.dw 0) 59 then s1
    else
      match pushQ s1 (bits (e.dw 0) 55 36) (some e.lv) (doneEntry s1 (wstatWord (s1.weevils[n]) 0) e.baddr) with
      | .ok s2 => s2
      | .hold s2 => s2.modEng n (fun q => { q with st := .running })
      | .fault _ s2 =>
        let v := s2.freeVal
        let w := v.2.freeVal
        noteFail (w.2.modEng n (fun q => { q with st := .running })) n { reason := 0x1B, row := e.count, faddr := v.1, svfa := w.1, frsp := 0 }

/-- WEEVIL_DONE. -/
def execWeevilDone (n : BitVec 2) (s : State) : Out :=
  .next (if seqRuns s then finishEng s (Fin.ofNat 4 n.toNat) else s)

/-! ### WGO and WKILL -/

/-- [DEDUCED, log 70] -/
def execWgo (n : BitVec 2) (rs1 : RSpec) (s : State) : Out :=
  extBarred s (fun k s =>
    let i : Fin 4 := Fin.ofNat 4 n.toNat
    let a := (s.str k).x rs1
    let bad := fun (s : State) => Res.event (gatherEv i 0x81 a .ul .instr 0) s
    if ! xOk rs1 || decide (s.nWeevils ≤ n.toNat) then illegal s
    else if s.ckHold then .wait s
    else if (s.weevils[i]).st == .running || (s.weevils[i]).st == .suspended then .event (gatherEv i 0x85 0 .ul .instr 0) s
    else if a.toNat % 64 ≠ 0 then bad s
    else match loadBlock s (s.xctx k) a 64 64 with
      | .fault e s1 => .event e s1
      | .check s1 => .wait s1
      | .ok b s1 =>
        let t := s1.str k
        let d := dwords b 8
        let e : Engine :=
          { Engine.zero with
            st := .running
            k := k
            lv := t.status.lvl
            sap := t.status.sap
            ptb := t.xl.ptb
            asid := t.xl.asid
            blk := Vector.ofFn (fun j : Fin 8 => d.getD j.val 0)
            baddr := a
            stamp := s1.tiles.stamp }
        if ! blockOk s1 e then bad s1
        else
          let s2 := s1.modEng i (fun _ => e)
          .done (if e.count = 0 then finishEng s2 i else s2))

/-- An engine becomes IDLE, keeping what its WGO captured (R290), and its pending event is cancelled. [DESIGN CHOICE, log 72] -/
def stopEng (s : State) (n : Fin 4) : State :=
  let k := (s.weevils[n]).k
  (s.modEng n (fun e => { Engine.zero with k := e.k, lv := e.lv, sap := e.sap, ptb := e.ptb, asid := e.asid })).modRun k (fun r => { r with pendEv := r.pendEv.filter (fun e => e.src != .engine n) })

/-- [DESIGN CHOICE, log 72] -/
def execWkill (n : BitVec 2) (s : State) : Out :=
  extBarred s (fun k s =>
    let i : Fin 4 := Fin.ofNat 4 n.toNat
    let e := s.weevils[i]
    if s.nWeevils ≤ n.toNat then illegal s
    else if ! engMay s k e then privileged s
    else if e.st = .idle then .done s
    else if e.pieces.isEmpty then .done (stopEng s i)
    else .wait (s.modEng i (fun e => { e with killed := true })))

/-! ### Issue (R293, R294) -/

/-- A free piece slot. -/
def freePiece (e : Engine) : Nat := ((List.range 64).find? (fun i => e.pieces.all (fun p => p.id != i))).getD 64

/-- The first byte of a row that lies outside what R293 allows: misaligned, across the border of near and far space, or in the
window. -/
def rowBad (ra : Word) (len : Nat) : Option Word :=
  let a := ra.toNat
  if a % 16 ≠ 0 then some ra
  else if a < 2 ^ 63 ∧ 2 ^ 63 < a + len then some (w64 (2 ^ 63))
  else if 2 ^ 64 < a + len then some 0
  else if a < spw + 0x1000000 ∧ spw < a + len then some (w64 (max a spw))
  else none

/-- The first page of a near row that the engine's translation places in a device region; pages that do not translate are left to
their pieces. -/
def rowDevice (s : State) (x : XCtx) (kind : AK) (ra : Word) (len : Nat) : Option Word :=
  if ra.getLsbD 63 then none
  else
    ((segs ra.toNat len).find? (fun g =>
      match translate s x kind (w64 g.1) with
      | .ok _ t _ => t == .device
      | _ => false)).map (fun g => w64 g.1)

/-- Issue the next piece of the row at ra; a far scatter piece updates a far line of the L1D as a far store does (R309).
[DESIGN CHOICE, log 69] -/
def issuePiece (s : State) (n : Fin 4) (ra : Word) : State :=
  let e := s.weevils[n]
  let a := ra + w64 e.off
  let far := ra.getLsbD 63
  let unit := if far then 64 else 128
  let len := min (e.rowBytes - e.off) (unit - a.toNat % unit)
  let so := e.rowSo e.row + e.off
  let bad := fun (s : State) (ev : Ev) =>
    noteFail s n { reason := ev.num.toNat, row := e.row, faddr := ev.fa, svfa := ra, frsp := 0 }
  let moved := fun (s : State) (p : Piece) =>
    s.modEng n (fun e =>
      let last := decide (e.rowBytes ≤ e.off + len)
      Engine.track { e with
        pieces := e.pieces ++ [p]
        off := if last then 0 else e.off + len
        row := if last then e.row + 1 else e.row
        elem := if last then none else e.elem })
  let id := freePiece e
  if far then
    match farXlate s e.xctx (if e.scatter then .store else .load) a with
    | .fault ev s1 => bad s1 ev
    | .ok ga idx _ s1 =>
      let m := if e.scatter then spMeet s1 e.k so len else (true, s1)
      if ! m.1 then m.2
      else
        let body := if e.scatter then m.2.spad.getN so len else []
        let s2 := if e.scatter then patchFar m.2 ga body else m.2
        let msg := reqMsg s2 (if e.scatter then 2 else 1) (BitVec.ofNat 14 (bits ga 61 48)) (s2.dstEp ga)
          (if e.scatter then 0 else len) ga body
        let q := farRequest s2 (.piece n id) a (some idx) false msg
        moved q.2 { id := id, row := e.row, addr := a, pa := 0, so := so, len := len, req := some q.1, ph := .todo }
  else
    match translate s e.xctx (if e.scatter then .store else .load) a with
    | .check s1 => s1
    | .fault ev s1 => bad s1 ev
    | .ok pa t s1 =>
      if t = .device then noteFail s1 n { reason := 0x83, row := e.row, faddr := a, svfa := ra, frsp := 0 }
      else moved s1 { id := id, row := e.row, addr := a, pa := pa, so := so, len := len, req := none, ph := .todo }

/-- The checks of a row whose element is v, at its first piece. [DESIGN CHOICE, log 69] -/
def startRow (s : State) (n : Fin 4) (v : Word) : State :=
  let e := s.weevils[n]
  let ea := e.elAddr e.row
  if ! e.byAddr && e.dw 3 != 0 && decide (e.dw 3 ≤ v.toNat) then
    noteFail s n { reason := 0x82, row := e.row, faddr := ea, svfa := ea, frsp := 0 }
  else
    let ra := e.rowAddr v
    let no := match rowBad ra e.rowBytes with
      | some f => some f
      | none => rowDevice s e.xctx (if e.scatter then .store else .load) ra e.rowBytes
    match no with
    | some f => noteFail s n { reason := 0x83, row := e.row, faddr := f, svfa := ra, frsp := 0 }
    | none => issuePiece (s.modEng n (fun e => { e with elem := some v })) n ra

/-- Whether an operation has begun to issue. -/
def Engine.begun (e : Engine) : Bool := e.row != 0 || e.off != 0 || e.elem.isSome

/-- Whether an access of strand k that an operation must follow is still to be performed: a store that waits for its line or for its
acknowledgement, or a far store, AMO or FRED without response (R297). -/
def strandOpen (s : State) (k : StrandId) : Bool :=
  storesWait s k || writesOpen s k
    || s.far.reqs.any (fun r => r.owner.strand == some k && r.done.isNone && (r.msg.op == 2 || r.msg.op == 3 || r.msg.op == 5))

/-- Whether an engine may issue: a piece slot is free; every tile operation of its strand dispatched before the WGO that uses memory or the
scratchpad has completed, and at its first issue the strand's own accesses have been performed (R297); no machine check of the strand
is pending. [DESIGN CHOICE, log 69] -/
def engReady (s : State) (e : Engine) : Bool :=
  e.st == .running && e.fail.isNone && ! e.killed && decide (e.row < e.count) && decide (e.pieces.length < 64)
    && (s.str e.k).run.mchk.isEmpty && (e.begun || ! strandOpen s e.k)
    && ! s.tiles.inflight.any (fun o => o.ctx.k == e.k && decide (o.id < e.stamp) && (o.spRd || o.spWr || o.unit == .move))

/-- The stream element at ea from the line read ahead, if that holds it. -/
def Engine.element (e : Engine) (ea : Word) : Option Word :=
  match e.ahead with
  | none => none
  | some (la, bs) =>
    if la = ea &&& ~~~(0x3F : Word) then some (w64 (leNat ((bs.drop (ea.toNat % 64)).take e.elSize))) else none

/-- WEEVIL_PIECE_ISSUE: the next piece, after the stream element of its row has been read, in 64-byte lines read ahead (R294).
[DESIGN CHOICE, log 69] -/
def execWeevilPieceIssue (n : BitVec 2) (s : State) : Out :=
  .next (
    let i : Fin 4 := Fin.ofNat 4 n.toNat
    let e := s.weevils[i]
    if ! seqRuns s || ! engReady s e then s
    else
      match e.elem with
      | some v => issuePiece s i (e.rowAddr v)
      | none =>
        let ea := e.elAddr e.row
        match e.element ea with
        | some v => startRow s i v
        | none =>
          let la := ea &&& ~~~(0x3F : Word)
          match engRead s e.xctx (3 + i.val) la 64 with
          | .wait s1 => s1
          | .check s1 => s1
          | .fault ev s1 =>
            let fa := if ev.fa = la then ea else ev.fa
            noteFail s1 i { reason := ev.num.toNat, row := e.row, faddr := fa, svfa := ea, frsp := 0 }
          | .ok b s1 =>
            let s2 := s1.modEng i (fun e => { e with ahead := some (la, b) })
            match (s2.weevils[i]).element ea with
            | some v => startRow s2 i v
            | none => s2)

/-! ### Completion of a piece (R294, R295) -/

/-- A near gather piece reads its bytes coherently, allocating nothing: from the L2 where it holds the line, with a dirty L1D copy merged first,
from a side-buffer line, else at the near port, whose answer it awaits; a line of the eviction buffer that has not left returns to the L2
(R295, R311, R312, R314). [DESIGN CHOICE, log 140] -/
def gatherPiece (s : State) (n : Fin 4) (e : Engine) (p : Piece) : Look :=
  let line := p.pa / 128
  let put := fun (s : State) =>
    let q := frameLoad s e.k p.addr.toNat (s.near.getN p.pa p.len)
    Look.hit (spWrite q.2 e.k p.so q.1)
  let have' := fun (s : State) =>
    match lookL2 s line with
    | (none, s1) => Look.wait s1 none
    | (some l, s1) =>
      match meetWords s1 e.k l (wordsIn line p.pa p.len) with
      | .check s2 => .check s2
      | .again s2 => .wait (dropL1 s2 line) none
      | .ok s2 =>
        match lookPoison s2 e.k line with
        | some s3 => .check s3
        | none => put (mergeL1D s2 line)
  if (s.ms.l2.find false line).isSome then have' s
  else if s.ms.evbuf.any (fun q => q.line == line) then
    (match demandFind s line with | some (_, s1) => have' s1 | none => .wait s none)
  else if s.ms.side.contains line then put (trackMiss s line)
  else
    match askPort s (.piece n p.id) p.pa p.len false false with
    | .wait s1 => .wait s1 none
    | .got bad err s1 => if bad || err then .check (consume30 s1 e.k 0x15 line (some p.pa)) else put s1

/-- A near scatter piece: coherent stores of at most 64 bytes, into an owned line of the L2, else at the near port with no allocation.
[DEDUCED, log 61] -/
def scatterPiece (s : State) (n : Fin 4) (e : Engine) (p : Piece) : Look :=
  let m := spMeet s e.k p.so p.len
  if ! m.1 then .check m.2
  else
    .hit (frameStore ((cutAt 64 (p.len / 64 + 2) p.pa p.len).foldl (fun s c =>
      agentLine s (.weevil n) c.1 (s.spad.getN (p.so + (c.1 - p.pa)) c.2)) m.2) e.k p.addr.toNat p.len)

/-- The near access of a piece. [DEDUCED, log 61] [DESIGN CHOICE, log 69] -/
def nearPiece (s : State) (n : Fin 4) (e : Engine) (p : Piece) : Look := if e.scatter then scatterPiece s n e p else gatherPiece s n e p

/-- Whether a write of engine n to a line awaits its acknowledgement, or still waits to leave (R294, R312). -/
def engWrites (s : State) (n : Fin 4) (line : Nat) : Bool :=
  s.ms.maint.any (fun q => q.agent == some (.weevil n) && q.line == line)
    || s.ms.lateW.any (fun q => q.2.2 == .weevil n && q.1 / 128 == line)

/-- Whether a near piece waits: for the fill of its line, or for the acknowledgement of its line's write (R311, R312). -/
def pieceWaits (s : State) (p : Piece) : Bool :=
  (s.mshrOf (p.pa / 128)).isSome || s.ms.evbuf.any (fun e => e.line == p.pa / 128 && e.sent)

/-- The address of row i of a piece. -/
def pieceRow (e : Engine) (p : Piece) : Word := p.addr - w64 (p.so - e.rowSo p.row)

/-- A piece leaves its slot; an engine that is being killed is IDLE after its last one (R298). -/
def endPiece (s : State) (n : Fin 4) (id : Nat) : State :=
  let s1 := s.modEng n (fun e =>
    let q : Engine := { e with pieces := e.pieces.filter (fun p => p.id != id) }
    if q.st == .running then q.track else q)
  if (s1.weevils[n]).killed && (s1.weevils[n]).pieces.isEmpty then stopEng s1 n else s1

/-- A near piece takes a phase. -/
def State.setPiece (s : State) (n : Fin 4) (id : Nat) (ph : PiecePh) : State :=
  s.modEng n (fun e => { e with pieces := e.pieces.map (fun p => if p.id == id then { p with ph := ph } else p) })

/-- A near piece is performed; it is complete once its bytes are in the scratchpad, or its writes acknowledged (R294). One that has met an
uncorrectable error stays until its strand's machine check has raised job abort. [DEDUCED, log 70] -/
def stepPiece (s : State) (n : Fin 4) (p : Piece) : State :=
  let e := s.weevils[n]
  let line := p.pa / 128
  let done := fun (s : State) => applyFail (endPiece s n p.id) n
  match p.ph with
  | .bad => if e.st = .running then s else done s
  | .sent => if engWrites s n line then s else done s
  | .todo =>
    if pieceWaits s p then s
    else
      match nearPiece s n e p with
      | .wait s1 _ => s1
      | .hit s1 => if engWrites s1 n line then s1.setPiece n p.id .sent else done s1
      | .check s1 => if e.st = .running then s1.setPiece n p.id .bad else done s1

/-- WEEVIL_PIECE_COMPLETE: a near piece goes on as far as its line and its writes allow; a far piece ends with its response.
[DEDUCED, log 61] -/
def execWeevilPieceComplete (n : BitVec 2) (piece : Nat) (s : State) : Out :=
  .next (
    let i : Fin 4 := Fin.ofNat 4 n.toNat
    let e := s.weevils[i]
    match e.pieces.find? (fun p => p.id == piece) with
    | none => s
    | some p =>
      if ! s.clockOn then s
      else
        match p.req with
        | none => stepPiece s i p
        | some id =>
          match (s.far.reqs.find? (fun r => r.id == id)).bind (fun r => r.done) with
          | none => s
          | some (code, body) =>
            let s1 := endPiece (s.dropReq id) i piece
            if code = 0 then applyFail (if e.scatter then s1 else spWrite s1 e.k p.so body) i
            else noteFail s1 i { reason := 0x1A, row := p.row, faddr := p.addr, svfa := pieceRow e p, frsp := code.toNat })

/-! ### Resumption (R277, R298) -/

/-- A SUSPENDED engine performs rows NEXT to COUNT − 1 again. -/
def resumeEng (e : Engine) : Engine :=
  { e with st := .running, row := e.next, off := 0, elem := none, ahead := none, rsn := 0, cause := 0, frsp := 0, record := none }

end Sys2Proof.Machine
end

