-- ==== Sys2Proof/Machine/FarSrc.lean ====
section
/-! DEFINITION. The far port as a source, the join, clock synchronisation of the fabric, and job abort received (15, R356, R360,
R366 to R371; 17, R404). -/

namespace Sys2Proof.Machine

open Sys2Proof

/-! ### Responses (R356, R357, R360, Table 15-7) -/

/-- A request ends with a response code and body: what each owner does with it. [DEDUCED, log 78] [DEDUCED, log 82]
A checkpoint's 0x0C fails it by the job abort that follows (R411, Table 17-10). [DEDUCED, log 101] -/
def finishReq (s : State) (r : FarReq) (code : BitVec 8) (body : List Byte) : State :=
  let keep := s.modReq r.id (fun q => { q with done := some (code, body) })
  match r.owner with
  | .load _ _ => wakeCond keep (.far r.id)
  | .store k =>
    if code = 0 then s.dropReq r.id
    else farError (s.dropReq r.id) k r.va code
  | .piece _ _ => keep
  | .window _ => if code = 0 then s.dropReq r.id else origAbort (s.dropReq r.id) 0x0A
  | .ckpt => if code = 0 then ckPump 64 (s.dropReq r.id) else if code = 0x0C then s.dropReq r.id else ckFail s code.toNat
  | .forward q => if (s.qOf q).any (fun d => d.fwding) then keep else s.dropReq r.id
  | .sopen => s.dropReq r.id
  | .sclose => s.dropReq r.id

/-- The session to a target opens: its waiting requests may go. -/
def sessOpened (s : State) (r : FarReq) (num : BitVec 14) : State :=
  pumpReqs ((s.dropReq r.id).modSrc r.msg.dstNode r.msg.dstEp (fun y => { y with sess := some num }))

/-- The session to a target cannot be opened: it is given up, and its waiting requests end with the code. [DEDUCED, log 78] -/
def sessFailed (s : State) (r : FarReq) (code : BitVec 8) : State :=
  let n := r.msg.dstNode
  let e := r.msg.dstEp
  let s1 := (s.dropReq r.id).modFar (fun f => { f with src := f.src.filter (fun y => ! (y.node == n && y.ep == e)) })
  let waiting := s1.far.reqs.filter (fun q => ! q.sent && q.done.isNone && q.msg.dstNode == n && q.msg.dstEp == e)
  waiting.foldl (fun s q => if s.far.reqs.any (fun x => x.id == q.id) then finishReq s q code [] else s) s1

/-- The request that a response answers. -/
def answered (s : State) (m : FarMsg) : Option FarReq :=
  s.far.reqs.find? (fun r => r.sent && r.done.isNone && r.msg.dstNode == m.srcNode && r.msg.dstEp == m.srcEp && r.msg.op == m.op
    && r.msg.seq == m.seq && (r.msg.op == 6 || r.msg.sess == m.sess))

/-- FAR_RESPONSE. A response of another epoch is discarded (R368), and in job abort every response is (Table 15-11). -/
def execFarResponse (m : FarMsg) (s : State) : Out :=
  .next (
    if m.kind ≠ 1 then s
    else
      let s0 := takeMsg s m
      if s.rel.aborted || m.epoch != s.far.regs.epoch then s0
      else
        match answered s0 m with
        | none => s0
        | some r =>
          if retryCode m.rcode.toNat then s0.modReq r.id (fun q => { q with busy := true })
          else if r.owner = .sopen then (if m.rcode = 0 then sessOpened s0 r m.sess else sessFailed s0 r m.rcode)
          else pumpReqs (finishReq s0 r m.rcode m.body))

/-- A far piece ended without a response: its engine fails on the row with reason 0x1A and code 0x0C (R298, R360), as job abort leaves it. -/
def pieceLost (s : State) (n : Fin 4) (p : Option Piece) : State :=
  match p with
  | none => s
  | some p =>
    let e := s.weevils[n]
    let s1 := s.modEng n (fun e => { e with st := .aborted, cause := 0x1D, rsn := 0x1A, frsp := 0x0C, next := p.row, faddr := p.addr })
    addPendEv s1 e.k (gatherEv n 0x1A (pieceRow e p) e.lv (.engine n) e.asid)

/-- A request ends with the local code 0x0C, and job abort is raised (R356). A checkpoint, a window and a forward end with the job
abort itself. [DEDUCED, log 70] [DEDUCED, log 78] -/
def noResponse (s : State) (r : FarReq) : State :=
  match r.owner with
  | .load _ _ =>
    let s1 := origAbort s 0x08
    wakeCond (s1.modFar (fun f => { f with reqs := f.reqs ++ [{ r with done := some (0x0C, []) }] })) (.far r.id)
  | .store _ => origAbort (finishReq s r 0x0C []) 0x08
  | .piece n _ => pieceLost (origAbort s 0x08) n ((s.weevils[n]).pieces.find? (fun p => p.req == some r.id))
  | .sopen => origAbort (sessFailed s r 0x0C) 0x08
  | _ => origAbort s 0x08

/-- RETRANSMIT_TIMEOUT: FAR.RTO.TIME has passed since a request was sent, or answered Busy or Epoch ahead: it is sent again with
the same SEQ, SESS and body, after Busy only while the endpoint stays JOINED (R357). Only a request without response counts against RTRY.
[DEDUCED, log 79] -/
def execRetransmitTimeout (req : Nat) (s : State) : Out :=
  .next (
    match s.far.reqs.find? (fun r => r.id == req && r.sent && r.done.isNone) with
    | none => s
    | some r =>
      if r.busy && s.far.regs.jstate != .joined then s
      else if r.busy then sendMsg (s.modReq req (fun q => { q with busy := false })) r.msg
      else if r.tries < s.far.regs.rtry.toNat then sendMsg (s.modReq req (fun q => { q with tries := q.tries + 1 })) r.msg
      else noResponse s r)

/-! ### Joining (R33, R366, R367, R369) -/

/-- The agreement record of Table 15-10; SHAPE is strand k's. -/
def joinRecord (s : State) (k : StrandId) : List Byte :=
  let r := s.far.regs
  toLE 8 (fld (bits (s.feat[7]).toNat 63 48) 48 + fld (s.str k).num.tshape.toNat 42 + fld s.core.prof.toNat 40 + fld r.floor.toNat 32
    + fld (bits (s.feat[0]).toNat 7 0) 24 + fld r.node.toNat 8 + 1)
  ++ toLE 8 r.jepoch.toNat

/-- The strand whose TSHAPE a request carries: the writer, or strand 0. -/
def reqStrand : Req → StrandId
  | .strand k => k
  | _ => 0

/-- A JOIN is sent, and the time of it is kept. -/
def sendJoin (s : State) (m : FarMsg) : State :=
  sendMsg (s.modFar (fun f => { f with jsends := f.jsends + 1, jsent := s.core.gtime })) m

/-- JREQ: JTOK is drawn, the record is built and JOIN is sent to the authority. [DESIGN CHOICE, log 86] -/
def joinReq (s : State) (req : Req) : State :=
  let tok : BitVec 32 := let c : BitVec 32 := s.core.cyc.setWidth 32; if c = 0 then 1 else c
  let m := ctlMsg s 0x20 s.far.regs.anode s.far.regs.aep tok 0 (joinRecord s (reqStrand req))
  sendJoin ((setJState s .joining).modFar (fun f => { f with jtok := tok, jmsg := some m, jsends := 0 })) m

/-- JREQ, where the FAR page answers its requester (R447, R448, R463). -/
def execJreq (req : Req) (s : State) : Out :=
  .next (if s.clockOn && (req != .tap || s.image.debug) then joinReq s req else s)

/-- JOIN_RETRY_TIMER: 1 ms without JOINRSP sends the same JOIN again; after 8 sends JSTAT becomes NORESP.
[DESIGN CHOICE, log 86] -/
def execJoinRetryTimer (s : State) : Out :=
  .next (
    if s.far.regs.jstate ≠ .joining then s
    else if 8 ≤ s.far.jsends then setJState s .noresp
    else match s.far.jmsg with
      | some m => sendJoin s m
      | none => s)

/-- The address of a member's entry in the membership table (R367). -/
def joinEntry (s : State) (m : FarMsg) : Nat := s.far.regs.jmap.toNat * 4096 + 4 * (bits (leNat (m.body.take 8)) 21 8 * 64 + m.srcEp.toNat)

/-- The check that refuses a record, with the member's entry: its reason code (Table 1-15). -/
def joinReason (s : State) (m : FarMsg) (ent : Nat) : Nat :=
  let r := s.far.regs
  let d0 := leNat (m.body.take 8)
  let ep := leNat ((m.body.drop 8).take 4)
  let ver := bits d0 7 0
  if ver = 0 ∨ 8 < ver ∨ ! r.rvmask.getLsbD (ver - 1) then 0x07
  else if ep < r.jrefep.toNat then 0x01
  else if r.jrefep.toNat < ep then 0x02
  else if bits d0 39 32 ≠ r.jrfloor.toNat then 0x03
  else if bits d0 31 24 < r.jrfloor.toNat then 0x04
  else if bits d0 41 40 ≠ r.jrprof.toNat then 0x05
  else if ent ≠ 0 ∧ ent ≠ m.aux.toNat then 0x06
  else 0x00

/-- JOIN at the join authority. -/
def execJoin (m : FarMsg) (s : State) : Out :=
  .next (
    if m.kind ≠ 2 ∨ m.op ≠ 0x20 then s
    else
      let s0 := takeMsg s m
      if ! s.far.regs.auth then s0
      else
        let a := joinEntry s0 m
        let p := portRead s0 a 4
        let c := joinReason s0 m (leNat p.1)
        let s1 := if c = 0 then portWrite p.2 a (toLE 4 m.aux.toNat) else p.2
        let body := toLE 8 (fld s0.far.regs.jrefep.toNat 32 + c) ++ toLE 8 s0.core.gtime.toNat
        sendMsg s1 (ctlMsg s1 0x21 m.srcNode m.srcEp 0 0 body))

/-- GTIME is aligned to a time: forward in one step, or by slewing (R369). [DESIGN CHOICE, log 86] [DESIGN CHOICE, log 88] -/
def alignTime (s : State) (t : Word) : State :=
  if s.core.gtime < t then (s.modCore (fun c => { c with gtime := t })).modFar (fun f => { f with slew := 0 })
  else s.modFar (fun f => { f with slew := (t.toNat : Int) - (s.core.gtime.toNat : Int) })

/-- JOINRSP at a joining endpoint. [DESIGN CHOICE, log 86] -/
def execJoinrsp (m : FarMsg) (s : State) : Out :=
  .next (
    if m.kind ≠ 2 ∨ m.op ≠ 0x21 then s
    else
      let s0 := takeMsg s m
      if s.far.regs.jstate ≠ .joining then s0
      else
        let d0 := leNat (m.body.take 8)
        let t := w64 (leNat ((m.body.drop 8).take 8))
        let reason : BitVec 8 := BitVec.ofNat 8 (bits d0 7 0)
        let s1 := s0.modFarRegs (fun r => { r with jreason := reason })
        if reason = 0 then
          let d := s.core.gtime - s.far.jsent
          let s2 := (setJState s1 .joined).modFarRegs (fun r => { r with epoch := BitVec.ofNat 32 (bits d0 63 32) })
          alignTime (s2.modCore (fun c => { c with jl := true })) (t + d / 2)
        else setJState s1 .refused)

/-! ### TSYNC sent (R370) -/

/-- TSYNC_SEND: a JOINED endpoint sends its GTIME; TSYNC keeps running in job abort (Table 15-11). [DEDUCED, log 87] -/
def execTsyncSend (s : State) : Out :=
  .next (
    if s.far.regs.jstate = .joined ∨ (s.far.regs.jstate = .aborted ∧ s.core.jl) then sendCtl s 0x23 (toLE 8 s.core.gtime.toNat)
    else s)

/-! ### Job abort received (R371, R404) -/

/-- ABST and ABT of an abort that another core originated. [DESIGN CHOICE, log 89] -/
def recordAbort (s : State) (cause : Nat) (n : BitVec 14) (e : BitVec 6) : State :=
  s.modRel (fun r => { r with abst := abstWord false cause n e, abt := s.core.gtime })

/-- ABORT. -/
def execAbort (m : FarMsg) (s : State) : Out :=
  .next (
    if m.kind ≠ 2 ∨ m.op ≠ 0x22 then s
    else
      let s0 := takeMsg s m
      if s.rel.aborted || s.far.regs.jstate != .joined || m.epoch != s.far.regs.epoch then s0
      else
        let d := leNat (m.body.take 8)
        let s1 := recordAbort s0 (bits d 7 0) (BitVec.ofNat 14 (bits d 29 16)) (BitVec.ofNat 6 (bits d 37 32))
        enterAbort s1)

/-- JOB_ABORT_IN: the sideband line is asserted. [DESIGN CHOICE, log 89] -/
def execJobAbortIn (s : State) : Out :=
  .next (
    let s0 := s.modCore (fun c => { c with jabtIn := true })
    if s.rel.aborted then s0
    else
      let s1 := recordAbort s0 0 0 0
      let s2 :=
        if s.rel.abfwd ∧ s.far.regs.jstate = .joined then sendCtl s1 0x22 (abortBody 0 s.far.regs.node s.hw.epnum) else s1
      enterAbort s2)

end Sys2Proof.Machine
end

