-- ==== Sys2Proof/Machine/CacheOps.lean ====
section
/-! DEFINITION. Cache maintenance, fills, snoops, acknowledgements, the prefetcher, way power and disabling, and CACHE.CMD (13,
R307 to R323). -/

namespace Sys2Proof.Machine

open Sys2Proof

/-! ### Write-backs -/

/-- The line's 128 bytes leave on the near port, marked poisoned when they are. -/
def emitLine (s : State) (line : Nat) : State :=
  s.emit (.nearWrite (line * 128) (s.near.getN (line * 128) 128) (s.markAt 0x15 line).isSome)

/-- A line is written back for strand k, or for the cache itself; the write awaits its acknowledgement. -/
def writeBack (s : State) (line : Nat) (k : Option StrandId) : State :=
  (emitLine s line).modMs (fun m => { m with maint := m.maint ++ [{ line := line, k := k, pre := false, ev := false, dev := false, agent := none }] })

/-- Clean one near line: written back when dirty, and kept valid and clean. -/
def cleanLine (s0 : State) (line : Nat) (k : Option StrandId) : State :=
  let s := probeLine s0 line
  if s.dirty line then
    let s0 := match s.ms.l2.find false line with | some l => meetLeaving s l true | none => s
    let s1 := writeBack s0 line k
    s1.modMs (fun m => { m with
      l2 := m.l2.upd false line (fun q => { q with st := if q.st == .modified then .exclusive else q.st })
      l1d := { m.l1d with lines := m.l1d.lines.map (fun q =>
        if ! q.far && q.line / 2 == line && q.st == .modified then { q with st := .exclusive } else q) } })
  else
    match s.ms.evbuf.find? (fun e => e.line == line && ! e.sent) with
    | some _ =>
      (writeBack s line k).modMs (fun m => { m with evbuf := m.evbuf.filter (fun e => e.line != line) })
    | none => s

/-- Remove a near line from the L1I, L1D, L2 and side buffer. -/
def dropLine (s : State) (line : Nat) : State :=
  (dropL1 s line).modMs (fun m => { m with l2 := m.l2.drop false line, side := m.side.filter (· != line) })

/-- Remove every far line of the L1D. -/
def dropFar (s : State) : State := s.modArr .l1d (fun c => { c with lines := c.lines.filter (fun l => ! l.far) })

/-- Whether an access to a line waits for its fill, or for its write's acknowledgement (R310, R312). [DESIGN CHOICE, log 40] -/
def lineBusy (s : State) (line : Nat) : Bool :=
  (s.mshrOf line).isSome || s.ms.evbuf.any (fun e => e.line == line && e.sent)

/-! ### Maintenance instructions (R316, R317, Table 13-4) -/

/-- What a maintenance instruction acts on once its checks have passed. -/
inductive MTgt where
  | near (line : Nat)
  | far (ga : Nat)
  | nothing

/-- The checks of a maintenance instruction at ea, and the line it names. [DEDUCED, log 42] -/
def maintTarget (s : State) (k : StrandId) (store : Bool) (ea : Word) : Except (Res) (MTgt × State) :=
  if ea.getLsbD 63 then
    match farXlate s (s.xctx k) (if store then .store else .load) ea with
    | .fault e s1 => .error (.event e s1)
    | .ok ga _ _ s1 => .ok (.far ga, s1)
  else if isWin ea then .ok (.nothing, s)
  else
    match translate s (s.xctx k) (if store then .pstore else .pload) ea with
    | .fault e s1 => .error (.event e s1)
    | .check s1 => .error (.wait s1)
    | .ok pa t s1 => .ok (if t = .device then .nothing else .near (pa / 128), s1)

/-- The frame of CFLUSH, CCLEAN and CINV. [DESIGN CHOICE, log 40] -/
def maintI (s : State) (rs1 : RSpec) (imm : BitVec 32) (store priv : Bool) (near : StrandId → Nat → State → State)
    (far : Nat → State → State) : Out :=
  ext s (fun k s =>
    if ! xOk rs1 then illegal s
    else if priv && (s.str k).status.lvl == .ul then privileged s
    else if devOpen s k then .wait s
    else
      match maintTarget s k store ((s.str k).x rs1 + imm.signExtend 64) with
      | .error r => r
      | .ok (.nothing, s1) => .done s1
      | .ok (.far ga, s1) => .done (far ga s1)
      | .ok (.near line, s1) => if lineBusy s1 line then .wait s1 else .done (near k line s1))

/-- A far line of the L1D is invalidated. [DEDUCED, log 42] -/
def dropFarLine (ga : Nat) (s : State) : State := s.modArr .l1d (fun c => c.drop true (ga / 64))

def execCflush (rs1 : RSpec) (imm : BitVec 32) (s : State) : Out :=
  maintI s rs1 imm false false (fun k line s => dropLine (cleanLine s line (some k)) line) dropFarLine

def execCclean (rs1 : RSpec) (imm : BitVec 32) (s : State) : Out :=
  maintI s rs1 imm false false (fun k line s => cleanLine s line (some k)) (fun _ s => s)

/-- A line is invalidated without write-back: memory reads as the die network holds it. [DEDUCED, log 41] -/
def discardLine (s0 : State) (line : Nat) : State :=
  let s := probeLine s0 line
  let wait := s.ms.evbuf.any (fun e => e.line == line)
  let s1 := if s.dirty line || wait then { s with near := s.near.putN (line * 128) (s.home.getN (line * 128) 128) } else s
  (dropLine s1 line).modMs (fun m => { m with evbuf := m.evbuf.filter (fun e => e.line != line) })

/-- [DEDUCED, log 41] -/
def execCinv (rs1 : RSpec) (imm : BitVec 32) (s : State) : Out :=
  maintI s rs1 imm true true (fun _ line s => discardLine s line) dropFarLine

/-- The way that CPRE fills: PREW while PREN is 1 and that way is neither disabled, being disabled, nor powered down (R318, R322). -/
def preWay (s : State) : Option Nat :=
  let w := s.ms.page.prew.toNat
  if s.ms.page.pren && ! s.l2Off w && ! s.ms.page.cleaning.contains (2, w) then some w else none

/-- Every word of a line that moves to another way is read: errors of a dirty line are met as maintenance meets them, an uncorrectable word of
a clean line invalidates it. -/
def wholeMeet (s : State) (k : StrandId) (l : Line) : Meet :=
  if s.dirty l.line then .ok (meetLeaving s l true) else meetWords s k l (List.range 16)

/-- CPRE of a near line; the state in which it waits where it must. [DESIGN CHOICE, log 39] -/
def preLine (s0 : State) (k : StrandId) (line : Nat) : Except State State :=
  let put := fun (r : Option State) (s : State) => match r with | some s1 => Except.ok s1 | none => Except.error s
  let s := (lookL2 s0 line).2
  match s.ms.l2.find false line with
  | some l =>
    match preWay s with
    | none => .ok s
    | some w =>
      if l.way = w then .ok s
      else
        match wholeMeet s k l with
        | .check s1 => .error s1
        | .again s1 => .error (dropL1 s1 line)
        | .ok s1 =>
          put ((match s1.ms.l2.at (line % 1024) w with | some v => evictL2 s1 v | none => some s1).map (fun s2 =>
            (clearPlace s2 3 l.set w).modArr .l2 (fun c => (c.drop false line).put 4 { l with way := w }))) s1
  | none =>
    match s.ms.evbuf.find? (fun e => e.line == line) with
    | some e =>
      if e.sent then .error s
      else put ((installL2 s line .modified (preWay s)).map (fun s1 =>
        s1.modMs (fun m => { m with evbuf := m.evbuf.filter (fun q => q.line != line) }))) s
    | none =>
      if s.ms.side.contains line then
        put ((installL2 s line .shared (preWay s)).map (fun s1 => s1.modMs (fun m => { m with side := m.side.filter (· != line) }))) s
      else put ((missL2 s line false .cpre false false []).map (fun s1 =>
        s1.modMs (fun m => { m with maint := m.maint ++ [{ line := line, k := some k, pre := true, ev := false, dev := false, agent := none }] }))) s

def execCpre (rs1 : RSpec) (imm : BitVec 32) (s : State) : Out :=
  ext s (fun k s =>
    let ea := (s.str k).x rs1 + imm.signExtend 64
    if ! xOk rs1 || ea.getLsbD 63 then illegal s
    else if devOpen s k then .wait s
    else
      match maintTarget s k false ea with
      | .error r => r
      | .ok (.near line, s1) => (match preLine s1 k line with | .ok s2 => .done s2 | .error s2 => .wait s2)
      | .ok (_, s1) => .done s1)

def execCfdrop (s : State) : Out := ext s (fun _ s => .done (dropFar s))

/-! ### Snoops (R307, R308, Tables 13-3 and 13-5) -/

/-- A snoop is applied to a line with no miss outstanding. A side-buffer line is killed. The line's words are met first: a clean line that shows an
uncorrectable one is gone (R320). -/
def applySnoop (s0 : State) (line : Nat) (kind : SnoopKind) : State :=
  let sp := probeLine (s0.modMs (fun m => { m with side := m.side.filter (· != line) })) line
  let d := sp.dirty line
  let s := match sp.ms.l2.find false line with | some l => meetLeaving sp l d | none => sp
  match s.ms.l2.find false line with
  | some _ =>
    let data := s.near.getN (line * 128) 128
    let s2 := if d then { s with home := s.home.putN (line * 128) data } else s
    let s3 := match kind with
      | .inval => (dropL1 s2 line).modArr .l2 (fun c => c.drop false line)
      | .share => s2.modMs (fun m => { m with
          l2 := m.l2.upd false line (fun q => { q with st := .shared })
          l1d := { m.l1d with lines := m.l1d.lines.map (fun (q : Line) => if ! q.far && q.line / 2 == line then { q with st := .shared } else q) } })
    s3.emit (.snoopAns line true false (if d then data else []))
  | none =>
    match s.ms.evbuf.find? (fun e => e.line == line) with
    | some e =>
      if e.sent then s.emit (.snoopAns line false true [])
      else
        let data := s.near.getN (line * 128) 128
        let s1 : State := { s with home := s.home.putN (line * 128) data }
        (s1.modMs (fun m => { m with evbuf := m.evbuf.filter (fun q => q.line != line) })).emit (.snoopAns line true false data)
    | none => s.emit (.snoopAns line false false [])

/-- Whether a snoop of a line must be held: its miss register is outstanding, a strand's or an engine's access that merged into it has not
been performed yet, or an earlier snoop of the line is held (R308). [DEDUCED, log 33] -/
def snoopHeld (s : State) (line : Nat) : Bool :=
  (s.mshrOf line).isSome || ([0, 1, 2, 3] : List StrandId).any (fun k => (s.str k).run.merged == some line)
    || s.ms.engAt.any (fun p => p.2 == line)

/-- The held snoops that wait no longer are applied, in their order. [DEDUCED, log 33] -/
def heldSnoops (s : State) : State :=
  let due := s.ms.snoops.filter (fun p => ! snoopHeld s p.1)
  if due.isEmpty then s
  else due.foldl (fun s p => applySnoop s p.1 p.2) (s.modMs (fun m => { m with snoops := s.ms.snoops.filter (fun p => snoopHeld s p.1) }))

/-- SNOOP. [DEDUCED, log 33] -/
def execSnoop (pa : BitVec 52) (kind : SnoopKind) (s : State) : Out :=
  let line := pa.toNat / 128
  .next (heldSnoops (s.modMs (fun m => { m with snoops := m.snoops ++ [(line, kind)] })))

/-! ### Fills (R308, R310, R313) -/

/-- The marks that a fill leaves on its line. -/
def fillMarks (s : State) (line : Nat) (poison err : Bool) : State :=
  let s1 := (s.dropMark 0x15 line).dropMark 0x16 line
  let s2 := if poison then s1.addMark { code := 0x15, loc := line, unc := true } else s1
  if err then s2.addMark { code := 0x16, loc := line, unc := true } else s2

/-- The data of a fill. [DESIGN CHOICE, log 39] -/
def fillData (s : State) (line : Nat) (data : List Byte) : State :=
  { s with near := s.near.putN (line * 128) data, home := s.home.putN (line * 128) data }

/-- A miss register is freed, and those of the line's halves in the L1I and L1D with it. -/
def freeMshr (s : State) (line : Nat) : State :=
  s.modMs (fun m => { m with
    mshr := m.mshr.filter (fun q => q.line != line)
    lmiss := m.lmiss.filter (fun q => q.line / 2 != line)
    imiss := m.imiss.filter (fun q => q.line / 2 != line)
    maint := m.maint.filter (fun q => ! (q.pre && q.line == line)) })

/-- The stores merged into a miss register are performed. [DEDUCED, log 28] -/
def mergedStores (s : State) (st : List MStore) : State := st.foldl (fun s p => putNear s p.pa p.bs) s

/-- A prefetched line enters the side buffer of 32 lines; the oldest is dropped. -/
def sideFill (s : State) (line : Nat) (data : List Byte) (bad : Bool) : State :=
  let s1 := clearBuf (freeMshr s line) 0x103 line
  if bad then s1
  else (fillData s1 line data).modMs (fun m =>
    let l := m.side.filter (· != line) ++ [line]
    { m with side := l.drop (l.length - 32) })

/-- The fill of a demand miss, an upgrade or a CPRE, into the line's own way when the L2 holds it already; none while its victim cannot leave. A
store merged into a shared request asks for the upgrade (R310). [DESIGN CHOICE, log 39] [DESIGN CHOICE, log 126] -/
def demandFill (s : State) (m : Mshr) (excl poison err : Bool) (data : List Byte) : Option State :=
  let line := m.line
  let up := ! m.own && ! excl && ! m.stores.isEmpty
  let st : Mesi := if up then .shared else if ! m.stores.isEmpty then .modified else if m.own || excl then .exclusive else .shared
  let way := match s.ms.l2.find false line with | some l => some l.way | none => if m.cpre then preWay s else none
  match installL2 s line st way with
  | none => none
  | some s1 =>
    let s2 := mergedStores (fillData (fillMarks s1 line poison err) line data) m.stores
    let s3 :=
      if up then
        (s2.modMs (fun x => { x with mshr := x.mshr.map (fun q => if q.line == line then { q with own := true } else q) })).emit
          (.nearRead (line * 128) 128 true)
      else (m.stores.map (fun p => p.pa / 64)).foldl dirtyHalf (freeMshr s2 line)
    some (wakeCond s3 (.longMiss line))

/-- The oldest near-port read of a line whose data is still to come. -/
def State.oldRead (s : State) (line : Nat) : Option PRead := s.ms.preads.find? (fun r => ! r.done && r.pa / 128 == line)

/-- The data of a read that allocates nothing: near memory takes its bytes where no newer copy stands on the core, under what the core has
written there since; a fetch of them becomes ready. [DESIGN CHOICE, log 140] -/
def answerRead (s : State) (r : PRead) (poison err : Bool) (data : List Byte) : State :=
  let line := r.pa / 128
  let bs := (data.drop (r.pa % 128)).take r.n
  let here := (s.ms.l2.find false line).isSome || s.ms.evbuf.any (fun e => e.line == line)
  let home : State := { s with home := s.home.putN r.pa bs }
  let s1 : State :=
    if here then home
    else
      let newer := r.newer ++ ((s.mshrOf line).map (fun m => m.stores.map (fun q => (q.pa, q.bs)))).getD []
      let bytes : Mem := newer.foldl (fun m p => m.putN p.1 p.2) (s.near.putN r.pa bs)
      { home with near := bytes }
  let got : PRead := { r with done := true, poison := poison, err := err, newer := [] }
  let s2 := s1.modMs (fun m => { m with
    preads := if r.who = .own then m.preads.erase r else m.preads.map (fun q => if q == r then got else q) })
  match r.who with
  | .fetch k => if (s2.str k).run.cond = some .device then readyStrand s2 k else s2
  | _ => s2

/-- L2_FILL: what the near port answers to the oldest read of a line that allocates nothing, else the fill of its miss register; the answer to a
request for ownership alone carries no data (Table 13-2). [DEDUCED, log 28] [DESIGN CHOICE, log 39] [DESIGN CHOICE, log 140] -/
def execL2Fill (pa : BitVec 52) (excl poison err : Bool) (data : List Byte) (s : State) : Out :=
  let line := pa.toNat / 128
  .next (
    match s.oldRead line, s.mshrOf line with
    | some r, _ => if data.length ≠ 128 then s else answerRead s r poison err data
    | none, none => s
    | none, some m =>
      if m.nodata then
        match demandFill s m true false false (s.near.getN (line * 128) 128) with
        | none => s
        | some s1 => heldSnoops { s1 with home := s.home }
      else if data.length ≠ 128 then s
      else if m.pre then heldSnoops (sideFill s line data (poison || err))
      else match demandFill s m excl poison err data with
        | none => s
        | some s1 => heldSnoops s1)

/-- A part of the data that a return buffer waits for: with the last one the access is complete and its strand becomes ready. -/
def takeChunk (s : State) (k : StrandId) (b : RetBuf) (data : BitVec 64) (err : Bool) : State :=
  match b.want with
  | [] => s
  | c :: rest =>
    let s1 := s.modRun k (fun r => { r with
      retBuf := some { b with want := rest, got := b.got ++ (toLE 8 data.toNat).take c.2, err := b.err || err } })
    if rest.isEmpty && (s1.str k).run.cond == some .device then readyStrand s1 k else s1

/-- UNCACHED_READ_DATA: the read data arrives, in the order of the strand's reads: that of a read that was given up is discarded, other data
enters the strand's return buffer (R306). [DESIGN CHOICE, log 130] -/
def execUncachedReadData (k : StrandId) (data : BitVec 64) (err : Bool) (s : State) : Out :=
  .next (
    if 0 < (s.str k).run.late then s.modRun k (fun r => { r with late := r.late - 1 })
    else
      match (s.str k).run.retBuf with
      | none => s
      | some b => takeChunk s k b data err)

/-- The agents' writes that waited for the acknowledgement of a line's eviction leave (R312). -/
def sendLate (s : State) (line : Nat) : State :=
  (s.ms.lateW.filter (fun p => p.1 / 128 == line)).foldl (fun s p => sendWrite s none false (some p.2.2) p.1 p.2.1)
    (s.modMs (fun m => { m with lateW := m.lateW.filter (fun p => p.1 / 128 != line) }))

/-- WRITE_ACK: the oldest write of a line that awaits it is acknowledged; that of an eviction entry frees the entry (R312).
[DEDUCED, log 34] -/
def execWriteAck (pa : BitVec 52) (s : State) : Out :=
  let line := pa.toNat / 128
  .next (
    match s.ms.maint.find? (fun q => ! q.pre && q.line == line) with
    | none => s
    | some q =>
      let s1 := s.modMs (fun m => { m with
        maint := m.maint.erase q
        evbuf := if q.ev then m.evbuf.filter (fun e => ! (e.sent && e.line == line)) else m.evbuf })
      if q.ev then sendLate s1 line else s1)

/-- The writes of waiting eviction entries leave on the near port (R312). [DEDUCED, log 34] -/
def sendEvictions (s : State) : State :=
  let out := s.ms.evbuf.filter (fun e => ! e.sent)
  let s1 := out.foldl (fun s e => emitLine (meetEv s e.line) e.line) s
  s1.modMs (fun m => { m with
    maint := m.maint ++ out.map (fun e => { line := e.line, k := none, pre := false, ev := true, dev := false, agent := none })
    evbuf := m.evbuf.map (fun e => { e with sent := true }) })

/-! ### The prefetcher and the streaming-store detector (R313, R315) -/

/-- Request one line ahead. [DESIGN CHOICE, log 44] -/
def prefetchLine (s : State) (line : Nat) : State :=
  let have' := (s.ms.l2.find false line).isSome || s.ms.side.contains line || lineBusy s line || s.ms.evbuf.any (fun e => e.line == line)
  let held := (s.ms.mshr.filter (fun m => m.pre)).length
  if have' || decide (16 ≤ held) || decide (64 ≤ s.ms.mshr.length) || s.mtype (line * 128) == .device
      || s.mtype (line * 128) == .uncached then s
  else (s.modMs (fun m => { m with
    mshr := m.mshr ++ [{ line := line, own := false, pre := true, cpre := false, n := 0, engs := [], nodata := false, stores := [] }] })).emit
      (.nearRead (line * 128) 128 false)

/-- Whether a TLB of the core holds a translation of the 4 KiB physical page that holds a line, one that leaves it Normal (R313, R304).
[DESIGN CHOICE, log 44] -/
def pageHeld (s : State) (line : Nat) : Bool :=
  let in' := fun (e : TlbE) =>
    let sh := pageShift e.level
    bits e.leaf.toNat 4 3 == 0 && bits e.leaf.toNat 51 12 * 4096 / 2 ^ sh == line * 128 / 2 ^ sh
  (s.ms.itlb ++ s.ms.dtlb ++ s.ms.l2tlb).any in'

/-- PREFETCH_REQUEST: the next PFDEPTH lines of a tracker's stride, within its 4 KiB page, or in another whose translation a TLB holds; the
prefetcher stops at the first page that none holds (R337). [DESIGN CHOICE, log 44] -/
def execPrefetchRequest (tr : BitVec 4) (s : State) : Out :=
  let t := s.ms.trackers.getD tr.toNat { page := 0, last := 0, stride := 0, n := 0 }
  .next (
    if ! s.ms.page.pfen || decide (t.n < 2) || t.stride == 0 || decide (8 < t.stride.natAbs) then s
    else
      let ls := (List.range s.ms.page.pfdepth.toNat).map (fun (j : Nat) => (t.last : Int) + ((j + 1 : Nat) : Int) * t.stride)
      (ls.takeWhile (fun l => decide (0 ≤ l) && (l.toNat / 32 == t.page || pageHeld s l.toNat))).foldl (fun s l => prefetchLine s l.toNat) s)

/-- STREAM_RUN_TIMEOUT. [DEDUCED, log 35] -/
def execStreamRunTimeout (tr : BitVec 4) (s : State) : Out :=
  .next (s.modMs (fun m => { m with strackers := vupd m.strackers (tr.toNat % 4) (fun t => { t with n := 0 }) }))

/-! ### Way power and disabling (R318, R319, R322) -/

/-- Every line of an L2 way is written back when dirty and invalidated. -/
def cleanL2Way (s : State) (w : Nat) : State :=
  (s.ms.l2.lines.filter (fun l => l.way == w)).foldl (fun s l => dropLine (cleanLine s l.line none) l.line) s

/-- Every line of an L1D way leaves; a dirty one is merged into its L2 line. -/
def cleanL1dWay (s : State) (w : Nat) : State :=
  (s.ms.l1d.lines.filter (fun l => l.way == w)).foldl (fun s l =>
    let s0 := meetTag s .l1d l.set l.way
    if (s0.ms.l1d.find l.far l.line).isSome then (evictL1D s0 l).modArr .l1d (fun c => c.drop l.far l.line) else s0) s

/-- WAY_CLEAN_DONE: a way being powered down or disabled has been cleaned; it is powered down, or disabled and unlocked.
[DESIGN CHOICE, log 40] -/
def execWayCleanDone (way : BitVec 4) (s : State) : Out :=
  let w := way.toNat
  .next (
    match s.ms.page.cleaning.find? (fun p => p.2 == w) with
    | none => s
    | some p =>
      let bitw : BitVec 16 := BitVec.ofNat 16 (2 ^ w)
      let s1 := s.modPage (fun g => { g with cleaning := g.cleaning.erase p })
      if p.1 = 0 then s1.modArr .l1i (fun c => { c with lines := c.lines.filter (fun l => l.way != w), dis := c.dis ||| bitw })
      else if p.1 = 1 then (cleanL1dWay s1 w).modArr .l1d (fun c => { c with dis := c.dis ||| bitw })
      else if p.1 = 2 then
        ((cleanL2Way s1 w).modArr .l2 (fun c => { c with dis := c.dis ||| bitw })).modPage (fun g => { g with
          lock := g.lock &&& ~~~bitw
          down := g.down &&& ~~~bitw })
      else (cleanL2Way s1 w).modPage (fun g => { g with l2off := g.l2off ||| bitw }))

/-- WAY_POWER_UP: 2 µs after DOWN was cleared. [DEDUCED, log 107] -/
def execWayPowerUp (way : BitVec 4) (s : State) : Out :=
  let bitw : BitVec 16 := BitVec.ofNat 16 (2 ^ way.toNat)
  .next (
    if s.ms.page.down &&& bitw = 0 ∧ s.ms.page.l2off &&& bitw ≠ 0 then s.modPage (fun g => { g with l2off := g.l2off &&& ~~~bitw }) else s)

/-- Ways of the L2 that are usable with given LOCK and DOWN fields. -/
def usableWith (s : State) (lock down : BitVec 16) : Nat :=
  16 - popWays (lock ||| down ||| s.ms.l2.dis ||| s.ms.page.l2off)

/-- A write of CACHE.L2PWR. -/
def writeL2pwr (v : Nat) (s : State) : State :=
  let g := s.ms.page
  let d : BitVec 16 := BitVec.ofNat 16 v &&& ~~~(g.lock ||| s.ms.l2.dis)
  if g.cleaning.any (fun p => p.1 == 3) || decide (usableWith s g.lock d < 4) then s
  else
    let new := d &&& ~~~g.down &&& ~~~g.l2off
    s.modPage (fun g => { g with
      down := d
      cleaning := g.cleaning ++ ((List.range 16).filter (fun w => new.getLsbD w)).map (fun w => (3, w)) })

/-- L2PWR_WRITE. -/
def execL2pwrWrite (v : BitVec 32) (s : State) : Out := .next (if s.clockOn then writeL2pwr v.toNat s else s)

/-- A write of CACHE.L2LOCK. -/
def writeL2lock (v : Nat) (s : State) : State :=
  let g := s.ms.page
  let l : BitVec 16 := BitVec.ofNat 16 v &&& ~~~(g.down ||| g.l2off ||| s.ms.l2.dis)
  s.modPage (fun g => { g with
    pren := tbit v 20
    prew := BitVec.ofNat 4 (bits v 19 16)
    lock := if usableWith s l g.down < 4 then g.lock else l })

/-- L2LOCK_WRITE. -/
def execL2lockWrite (v : BitVec 32) (s : State) : Out := .next (if s.clockOn then writeL2lock v.toNat s else s)

/-- ERROR_COUNT_WINDOW: a window begins at CYC[23:0] = 0, and only there do the counts of every way start again (R322).
[DEDUCED, log 142] -/
def execErrorCountWindow (s : State) : Out := .next (countWindow s)

/-! ### CACHE.CMD (R323) -/

/-- Every near line of the L1D and L2 is cleaned. -/
def cleanAll (s : State) : State := (s.ms.l2.lines.map (fun l => l.line)).foldl (fun s l => cleanLine s l none) s

/-- Every line of the L1I, L1D, L2 and side buffer is cleaned and invalidated, far lines included. -/
def cleanInvAll (s : State) : State :=
  (cleanAll s).modMs (fun m => { m with
    l1i := { m.l1i with lines := [] }
    l1d := { m.l1d with lines := [] }
    l2 := { m.l2 with lines := [] }
    side := [] })

/-- A write of CACHE.CMD with an operation. -/
def cacheCmd (op : BitVec 2) (s : State) : State :=
  if s.ms.page.cmd.isSome || op == 0 then s
  else
    let s1 := s.modPage (fun g => { g with cmd := some op })
    if op = 1 then cleanAll s1 else if op = 2 then cleanInvAll s1 else dropFar s1

/-- CACHE_CMD_CLEAN. -/
def execCacheCmdClean (s : State) : Out := .next (if s.clockOn then cacheCmd 1 s else s)
/-- CACHE_CMD_CLEAN_INV. -/
def execCacheCmdCleanInv (s : State) : Out := .next (if s.clockOn then cacheCmd 2 s else s)
/-- CACHE_CMD_DROP_FAR. -/
def execCacheCmdDropFar (s : State) : Out := .next (if s.clockOn then cacheCmd 3 s else s)

/-- CACHE_CMD_DONE: the operation finishes once its last write has been acknowledged. [DESIGN CHOICE, log 40] -/
def execCacheCmdDone (s : State) : Out :=
  .next (if s.ms.maint.any (fun q => q.k.isNone && ! q.pre && ! q.ev && q.agent.isNone) then s else s.modPage (fun g => { g with cmd := none }))

end Sys2Proof.Machine
end

