-- ==== Sys2Proof/Machine/TlbOps.lean ====
section
/-! DEFINITION. The FTLB instructions and the invalidation of near TLB entries across the die (14, R336, R340, R341; R467). -/

namespace Sys2Proof.Machine

open Sys2Proof

/-! ### FTLB (R340, R341) -/

/-- An FTLB entry as it is stored: bits of VPN and OFF below the page size and reserved bits are 0. -/
def ftStored (hi lo : Word) : Word × Word :=
  let sh := ftShift hi - 24
  let vpn := bits hi.toNat 37 0 / 2 ^ sh * 2 ^ sh
  let off := bits lo.toNat 47 24 / 2 ^ sh * 2 ^ sh
  (w64 (bits hi.toNat 63 46 * 2 ^ 46 + vpn), w64 (fld (bits lo.toNat 61 48) 48 + fld off 24 + fld (bits lo.toNat 7 2) 2))

/-- Whether a far access that used one of the entries still awaits its response. -/
def ftBusy (s : State) (p : Nat → Bool) : Bool :=
  s.far.reqs.any (fun r => r.done.isNone && (match r.ftlb with | some i => p i | none => false))

def execFtlbw (s : State) : Out :=
  ext s (fun k s =>
    let x := (s.str k).xl
    if bits x.fthi.toNat 47 46 = 3 then illegal s
    else if (s.str k).status.lvl = .ul then privileged s
    else
      let i := x.idx.toNat
      let held := tbit (s.ms.ftlb.getD i (0, 0)).2.toNat 7
      if held && ftBusy s (· == i) then .wait s
      else
        let s1 := if held then noFill (dropFar s) (fun _ => true) else s
        .done ((s1.dropMark 0x0D i).modMs (fun m => { m with
          ftlb := vupd m.ftlb i (fun _ => ftStored x.fthi x.ftlo)
          vict := if m.vict = x.idx then m.vict + 1 else m.vict })))

def execFtlbr (s : State) : Out :=
  ext s (fun k s =>
    if (s.str k).status.lvl = .ul then privileged s
    else
      let e := s.ms.ftlb.getD (s.str k).xl.idx.toNat (0, 0)
      .done (s.modStr k (fun t => { t with xl := { t.xl with fthi := e.1, ftlo := e.2 } })))

/-- Whether FTLBI removes an entry. -/
def ftRemoves (m : BitVec 2) (asid : BitVec 16) (v : Word) (e : Word × Word) : Bool :=
  if m = 0 then v.getLsbD 63 && ! v.getLsbD 62 && ftMatch e asid v.toNat
  else if m = 1 then tbit e.2.toNat 7 && ! tbit e.2.toNat 6 && bits e.1.toNat 63 48 == bits v.toNat 15 0
  else tbit e.2.toNat 7

def execFtlbi (m : BitVec 2) (rs1 : RSpec) (s : State) : Out :=
  ext s (fun k s =>
    if ! xOk rs1 || m == 3 then illegal s
    else if (s.str k).status.lvl = .ul then privileged s
    else
      let v := (s.str k).x rs1
      let gone := ftRemoves m (s.str k).xl.asid v
      if ftBusy s (fun i => gone (s.ms.ftlb.getD i (0, 0))) then .wait s
      else if m = 0 ∧ ! (v.getLsbD 63 && ! v.getLsbD 62) then .done s
      else .done ((noFill (dropFar s) (fun _ => true)).modMs (fun x => { x with ftlb := x.ftlb.map (fun e => if gone e then (e.1, e.2 &&& ~~~(0x80 : Word)) else e) })))

/-! ### Near entries (R336, R467) -/

/-- Whether an invalidation of a mode removes an entry. [DESIGN CHOICE, log 43] -/
def tlbGone (m : BitVec 2) (asid : BitVec 16) (va : Word) (e : TlbE) : Bool :=
  let g := leafBit e.leaf.toNat 8
  if m = 0 then e.vpn == va.toNat / 2 ^ pageShift e.level && (g || e.asid == asid)
  else if m = 1 then ! g && e.asid == asid
  else true

/-- Remove entries from the ITLB, DTLB and L2 TLB. -/
def tlbRemove (s : State) (m : BitVec 2) (asid : BitVec 16) (va : Word) : State :=
  s.modMs (fun x => { x with
    itlb := x.itlb.filter (fun e => ! tlbGone m asid va e)
    dtlb := x.dtlb.filter (fun e => ! tlbGone m asid va e)
    l2tlb := x.l2tlb.filter (fun e => ! tlbGone m asid va e) })

/-- Whether every access of the core that has been translated has been performed: no store waits in a miss register, no Device or
Uncached read or posted write is open, no near piece of a gather engine and no tile move is in flight.
[DESIGN CHOICE, log 43] -/
def allPerformed (s : State) : Bool :=
  s.ms.mshr.all (fun m => m.stores.isEmpty) && s.weevils.all (fun e => e.pieces.all (fun p => p.req.isSome))
    && s.ms.maint.all (fun q => q.pre || (q.k.isNone && q.agent.isNone)) && s.ms.lateW.isEmpty && s.tiles.inflight.all (fun o => o.unit != .move)
    && s.strands.all (fun t => t.run.late == 0 && (match t.run.retBuf with | some b => b.want.isEmpty | none => true))

/-- The acknowledgements that are due leave once every access has been performed. -/
def sendAcks (s : State) : State :=
  if s.ms.ackDue ≠ 0 ∧ allPerformed s then
    (s.modMs (fun m => { m with ackDue := m.ackDue - 1 })).emit .ntlbiAck
  else s

/-- Whether the NTLBI that waits for its completion has been given up: its strand stands elsewhere. -/
def NtlbiOut.stale (o : NtlbiOut) (s : State) : Bool := (s.str o.k).pc != o.pc || (s.str o.k).run.st == .held

/-- One NTLBI of the core is outstanding at a time; it is taken up again by the same instruction with the same operands, and one that was
given up makes room once it has completed. [DESIGN CHOICE, log 43] -/
def execNtlbi (m : BitVec 2) (rs1 : RSpec) (s : State) : Out :=
  ext s (fun k s =>
    if ! xOk rs1 || m == 3 then illegal s
    else if (s.str k).status.lvl = .ul then privileged s
    else
      let v := (s.str k).x rs1
      let asid := if m = 0 then (s.str k).xl.asid else v.setWidth 16
      let req : NtlbiOut := { k := k, pc := (s.str k).pc, m := m, asid := asid, va := v }
      let ask := fun (s : State) =>
        Res.wait (((tlbRemove s m asid v).modMs (fun x => { x with ntlbi := some req, ntlbiDone := false })).emit (.ntlbi m asid v))
      if m = 0 ∧ 2 ^ 48 ≤ v.toNat then .done s
      else
        match s.ms.ntlbi with
        | none => ask s
        | some o =>
          if o = req then
            if s.ms.ntlbiDone ∧ allPerformed s then .done (s.modMs (fun x => { x with ntlbi := none, ntlbiDone := false })) else .wait s
          else if s.ms.ntlbiDone ∧ (o.k = k ∨ o.stale s) then ask s
          else .wait s)

/-- NTLBI_REQUEST_RECEIVED: the entries are removed, and the request is acknowledged once every access that used one has been
performed. -/
def execNtlbiRequestReceived (m : BitVec 2) (asid : BitVec 16) (va : BitVec 64) (s : State) : Out :=
  .next (sendAcks ((tlbRemove s m asid va).modMs (fun x => { x with ackDue := x.ackDue + 1 })))

/-- NTLBI_COMPLETION: every core of the die has acknowledged. [DESIGN CHOICE, log 43] -/
def execNtlbiCompletion (s : State) : Out :=
  .next (if s.ms.ntlbi.isSome then s.modMs (fun x => { x with ntlbiDone := true }) else s)

end Sys2Proof.Machine
end

