-- ==== Sys2Proof/Machine/Regs.lean ====
section
/-! DEFINITION. What the registers of the register block read as: one function per page, from a page offset to the register's value
(19, Tables 19-1 to 19-11, and the tables of the pages' own chapters). -/

namespace Sys2Proof.Machine

open Sys2Proof

/-! ### The common header (Table 19-1, Table 19-2) -/

/-- The CAP register of a page. -/
def pageCap (lean : Bool) (p : Nat) : Nat :=
  match p with
  | 0x08 => if lean then 0x00000200 else 0x000008C0
  | 0x09 => 0x00000200
  | 0x0A => 0x00000100
  | 0x0B => if lean then 1 else 4
  | 0x0C => if lean then 2 else 4
  | 0x0E => 0x08004020
  | 0x0F => 0x00000080
  | 0x11 => 0x04000014
  | 0x15 => 0x00000100
  | _ => 0

/-- ID, VER and CAP of page p. -/
def headerReg (s : State) (p o : Nat) : Option Nat :=
  match o with
  | 0x000 => some (fld 0x00E3 16 + p)
  | 0x004 => some (fld (bits (s.feat[0]).toNat 23 16) 16 + 1)
  | 0x008 => some (pageCap s.hw.lean p)
  | _ => none

/-! ### SCHED, INTU, TBANK (Tables 2-4, 2-5, 3-11, 3-12, 6-9, 6-10) -/

/-- The state code of Table 2-5. -/
def StState.code : StState → Nat
  | .stopped => 0
  | .running => 1
  | .ready => 2
  | .waiting => 3
  | .held => 4

/-- The wait case of Table 2-5. -/
def Cond.code : Cond → Nat
  | .longMiss _ => 1
  | .device => 1
  | .far _ => 2
  | .queue _ => 3
  | .tile => 4
  | .gate => 0

/-- A strand's byte of SSTATE; the wait case is that of a waiting strand. [DESIGN CHOICE, log 20] -/
def ssByte (r : RunInfo) : Nat := fld r.st.code 4 + (if r.st = .waiting then (match r.cond with | some c => c.code | none => 0) else 0)

/-- SCHED.SSTATE. [DESIGN CHOICE, log 20] -/
def sstate (s : State) : Nat :=
  fld (ssByte (s.str 3).run) 24 + fld (ssByte (s.str 2).run) 16 + fld (ssByte (s.str 1).run) 8 + ssByte (s.str 0).run

/-- SCHED. -/
def schedReg (s : State) (o : Nat) : Nat :=
  match o with
  | 0x040 => s.core.hold.toNat
  | 0x044 => sstate s
  | _ => 0

/-- VCFG of vector v. -/
def vcfgWord (s : State) (v : Nat) : Nat :=
  let c := s.vcfg v
  fld (bit c.en) 31 + fld (bit (vecExists v && s.vecPend v)) 30 + fld c.strand.val 28 + fld c.prio.toNat 24 + bit (vecLevel v)

/-- INTU. -/
def intuReg (s : State) (o : Nat) : Nat :=
  if 0x080 ≤ o ∧ o < 0x0A0 then
    let v := (s.intu.tcmp.getD ((o - 0x080) / 8) 0).toNat
    if o % 8 = 0 then bits v 31 0 else bits v 63 32
  else if 0x500 ≤ o ∧ o < 0x800 then vcfgWord s ((o - 0x400) / 4)
  else 0

/-- A bank's byte of TBANK.BOWN. -/
def bownByte (b : Bank) : Nat :=
  match b.owner with
  | some c => fld 1 7 + fld c.k.val 4 + c.lv.code
  | none => 0

/-- TBANK.CST. -/
def cstWord (x : Ctx) : Nat :=
  fld x.pad.toNat 6 + fld (bit x.att) 5 + (if x.st = .resident then fld x.bank.val 3 else 0) + x.st.code

/-- TBANK. -/
def tbankReg (s : State) (o : Nat) : Nat :=
  if o = 0x040 then fld (bownByte s.tiles.banks[1]) 8 + bownByte s.tiles.banks[0]
  else if 0x100 ≤ o ∧ o < 0x1C0 then
    let i := (o - 0x100) / 0x10
    let x := (s.str (Fin.ofNat 4 (i / 3))).ctx.getD (i % 3) Ctx.zero
    match o % 0x10 with
    | 0x0 => cstWord x
    | 0x8 => bits x.fa.toNat 31 0
    | 0xC => bits x.fa.toNat 63 32
    | _ => 0
  else 0

/-! ### TMU (Tables 7-9, 7-13 to 7-15, R197) -/

/-- TMU.STAT. -/
def tmuStat (s : State) : Nat := fld (bit s.tiles.tmu.degr) 2 + fld (bit s.tiles.tmu.gated) 1 + bit (tmuBusy s)

/-- TMU.RAMP. -/
def tmuRamp (s : State) : Nat :=
  let g := s.tiles.tmu.gov
  fld (bit g.lock) 31 + fld (bit g.hold) 24 + fld g.cap 16 + fld g.step 8 + g.floor

/-- The state code of Table 7-14. -/
def gangCode : GangSt → Nat
  | .own => 0
  | .offered => 1
  | .lent => 2
  | .master => 3
  | .broken => 4

/-- TMU.GANG: in OWN no context, master or quadrant stands. [DESIGN CHOICE, log 119] -/
def tmuGang (s : State) : Nat :=
  let g := s.tiles.tmu.gang
  if g.st = .own then 0
  else fld g.ctx.lv.code 22 + fld g.ctx.k.val 20 + fld (gangCode g.st) 12 + fld g.size 8 + fld g.master 4 + gangQ s % 4

/-- TMU.COLS. -/
def tmuCols (s : State) : Nat :=
  let t := s.tiles.tmu
  if s.hw.lean then 0x7F7F7F00
  else
    let rs := roles t.molt t.failc
    fld t.molt 24 + fld (if t.failc = 0x7F then rs.getD 65 0x7F else 0x7F) 16 + fld (rs.getD 64 0) 8 + t.opcnt.toNat % 64

/-- TMU. -/
def tmuReg (s : State) (o : Nat) : Nat :=
  match o with
  | 0x010 => tmuStat s
  | 0x040 => tmuRamp s
  | 0x044 => tmuGang s
  | 0x048 => tmuCols s
  | 0x04C => if s.hw.lean then 0x7F else s.tiles.tmu.failc
  | 0x050 => if s.hw.lean then 0 else s.tiles.tmu.opcnt.toNat
  | _ => 0

/-! ### CACHE (Table 13-6) -/

/-- CACHE.WAYS. -/
def cacheWays (s : State) : Nat := fld s.ms.l2.dis.toNat 16 + s.ms.page.l2off.toNat

/-- A register of a region: BASELO, BASEHI, LIMLO, LIMHI. -/
def regionReg (r : Region) (o : Nat) : Nat :=
  match o with
  | 0x0 => fld (r.base.toNat % 2 ^ 20) 12 + r.typ.toNat
  | 0x4 => r.base.toNat / 2 ^ 20
  | 0x8 => fld (r.lim.toNat % 2 ^ 20) 12
  | _ => r.lim.toNat / 2 ^ 20

/-- CACHE. -/
def cacheReg (s : State) (o : Nat) : Nat :=
  let g := s.ms.page
  match o with
  | 0x00C => bit g.rlock
  | 0x010 => fld (bit g.wlim) 2 + fld (bit (g.cleaning.any (fun p => p.1 == 3))) 1 + bit g.cmd.isSome
  | 0x040 => fld g.sthr.toNat 16 + fld g.pfdepth.toNat 8 + fld (bit g.ssen) 1 + bit g.pfen
  | 0x044 => fld (bit g.pren) 20 + fld g.prew.toNat 16 + g.lock.toNat
  | 0x048 => g.down.toNat
  | 0x04C => cacheWays s
  | 0x050 => fld (s.ms.l1i.dis.toNat % 16) 8 + s.ms.l1d.dis.toNat % 256
  | _ =>
    if 0x100 ≤ o ∧ o < 0x200 then regionReg (g.regions.getD ((o - 0x100) / 0x10) Region.zero) (o % 0x10) else 0

/-! ### FAR (Table 15-12) -/

/-- The state codes of FAR.STAT and FAR.JSTAT. -/
def LState.code : LState → Nat
  | .down => 0
  | .retrain => 1
  | .init => 2
  | .up => 3

/-- FAR.JSTAT.STATE. -/
def JState.code : JState → Nat
  | .unjoined => 0
  | .joining => 1
  | .joined => 2
  | .refused => 3
  | .noresp => 4
  | .aborted => 5

/-- FAR.STAT. -/
def farStat (s : State) : Nat :=
  let r := s.far.regs
  fld r.lstate.code 28 + fld r.pver.toNat 24 + r.retrains.toNat

/-- FAR.TSKEW. -/
def farTskew (s : State) : Nat := fld (bit s.far.regs.alarm) 31 + s.far.regs.skew.toNat

/-- The low word of a page number of 4 KiB pages, and the high word. -/
def pageLo (b : BitVec 40) : Nat := fld (b.toNat % 2 ^ 20) 12
def pageHi (b : BitVec 40) : Nat := b.toNat / 2 ^ 20

/-- FAR. -/
def farReg (s : State) (o : Nat) : Nat :=
  let r := s.far.regs
  match o with
  | 0x00C => fld (bit r.lock) 31 + fld (bit r.tfollow) 8 + fld (bit r.ufred) 7 + fld r.eplog2.toNat 4 + bit r.en
  | 0x010 => farStat s
  | 0x014 => r.istat.toNat
  | 0x018 => r.ien.toNat
  | 0x040 => fld s.hw.epnum.toNat 16 + r.node.toNat
  | 0x044 => r.epoch.toNat
  | 0x048 => fld (bit r.auth) 31 + fld r.aep.toNat 16 + r.anode.toNat
  | 0x04C => r.floor.toNat
  | 0x050 => r.jepoch.toNat
  | 0x058 => fld r.jreason.toNat 24 + r.jstate.code
  | 0x060 => fld r.rvmask.toNat 24 + fld r.jrprof.toNat 8 + r.jrfloor.toNat
  | 0x064 => r.jrefep.toNat
  | 0x068 => pageLo r.jmap
  | 0x06C => pageHi r.jmap
  | 0x070 => pageLo r.scb
  | 0x074 => pageHi r.scb
  | 0x078 => pageLo r.expb
  | 0x07C => pageHi r.expb
  | 0x080 => pageLo r.expl
  | 0x084 => pageHi r.expl
  | 0x088 => fld r.rtry.toNat 24 + r.rtime.toNat
  | 0x08C => r.wto.toNat
  | 0x090 => farTskew s
  | 0x094 => r.ldly.toNat
  | _ => 0

/-! ### REL (Table 17-2) -/

/-- CKSTAT.STATE. -/
def CkSt.code : CkSt → Nat
  | .idle => 0
  | .drain => 1
  | .copy => 2
  | .done => 3
  | .failed => 4

/-- REL.STAT. -/
def relStat (s : State) : Nat := fld (bit s.rel.frozen) 2 + fld (bit s.rel.aborted) 1 + bit s.rel.halted

/-- REL.CECNT. -/
def relCecnt (s : State) : Nat := fld s.rel.cethr.toNat 16 + s.rel.cecount.toNat

/-- Word i of a record. -/
def recWord (r : ErrRec) (i : Nat) : Nat := (r.getD i 0).toNat

/-- REL. -/
def relReg (s : State) (o : Nat) : Nat :=
  let r := s.rel
  match o with
  | 0x00C => fld (bit r.abfwd) 1 + bit r.ffen
  | 0x010 => relStat s
  | 0x014 => bit r.ceth
  | 0x018 => bit r.cethIen
  | 0x01C => fld r.nextf.val 8 + r.nextc.val
  | 0x040 => relCecnt s
  | 0x044 => r.abst.toNat
  | 0x048 => bits r.abt.toNat 31 0
  | 0x04C => bits r.abt.toNat 63 32
  | 0x050 => fld r.ffL2.toNat 18 + r.ffSp.toNat
  | 0x058 => r.fovf.toNat
  | 0x080 => bits r.ckga.toNat 31 0
  | 0x084 => bits r.ckga.toNat 61 32
  | 0x088 => fld r.ckoff.toNat 12
  | 0x08C => fld r.cklen0.toNat 12
  | 0x094 => fld r.ckerr.toNat 24 + r.ckst.code
  | 0x098 => r.ckcrc.toNat
  | 0x09C => r.cklen.toNat
  | _ =>
    if 0x100 ≤ o ∧ o < 0x300 then recWord (r.crec.getD ((o - 0x100) / 0x20) (vrep 8 0)) (o % 0x20 / 4)
    else if 0x300 ≤ o ∧ o < 0x380 then recWord (r.frec.getD ((o - 0x300) / 0x20) (vrep 8 0)) (o % 0x20 / 4)
    else 0

/-! ### PWR (Table 18-12) -/

/-- PWR.STAT. -/
def pwrStat (s : State) : Nat :=
  let w := s.pwr
  fld w.point.toNat 8 + fld (bit w.dv.isSome) 7 + fld (bit w.hold) 6 + fld w.vwarn.toNat 3 + fld (bit w.pfw) 1 + bit w.romfw

/-- PWR.BROWN. -/
def pwrBrown (s : State) : Nat := fld s.pwr.srst.toNat 16 + s.pwr.brown.toNat

/-- PWR. -/
def pwrReg (s : State) (o : Nat) : Nat :=
  let w := s.pwr
  match o with
  | 0x00C => fld w.c2idle.toNat 8 + bit w.c2en
  | 0x010 => pwrStat s
  | 0x014 => w.istat.toNat
  | 0x018 => w.ien.toNat
  | 0x040 => w.dvfs.toNat
  | 0x048 => fld w.cerr.toNat 8 + w.clast.toNat
  | 0x04C => fld (bit w.wkTimers) 9 + fld (bit w.wkLines) 8 + w.wkStrands.toNat
  | 0x050 => pwrBrown s
  | 0x054 => w.rstc.toNat
  | 0x05C => fld w.berr.toNat 24 + fld w.bblock.toNat 8 + fld (bit w.dmdef) 4 + w.bstate.toNat
  | 0x060 => w.inth.toNat
  | 0x064 => fld (w.wbseq.toNat % 2 ^ 16) 16 + fld (bit w.wbfail) 8 + w.wbsect.toNat
  | _ => 0

/-! ### MGMT, IDENT, TIME, QUEUE, TELEM, TRACE, CFG (Tables 19-6, 19-7, 19-9, 19-11) -/

/-- The requester and owner codes of Table 19-4. -/
def reqCode : Req → Nat
  | .portA => 1
  | .portB => 2
  | .tap => 3
  | .strand k => 4 + k.val
  | .near => 8

/-- MGMT.SEMALL. -/
def semAll (s : State) : Nat := ((List.range 32).map (fun n => if (s.mgmt.sem.getD n none).isSome then 2 ^ n else 0)).sum

/-- MGMT, for the requester that reads; SEM(n) is read elsewhere. -/
def mgmtReg (s : State) (q : Req) (o : Nat) : Nat :=
  let m := s.mgmt
  match o with
  | 0x014 => bit m.dbin
  | 0x018 => bit m.dbinIen
  | 0x040 => reqCode q
  | 0x048 => m.dbval.toNat
  | 0x04C => m.dbcnt.toNat
  | 0x050 => m.dbout.toNat
  | 0x054 => bit m.outPend
  | 0x180 => semAll s
  | _ => if 0x080 ≤ o ∧ o < 0x0A0 then (m.mbox.getD ((o - 0x080) / 4) 0).toNat else 0

/-- IDENT. -/
def identReg (s : State) (o : Nat) : Nat :=
  if 0x040 ≤ o ∧ o < 0x080 then
    let v := (s.feat.getD ((o - 0x040) / 8) 0).toNat
    if o % 8 = 0 then bits v 31 0 else bits v 63 32
  else if o = 0x080 then fld (s.hw.crb.toNat % 2 ^ 14) 18
  else if o = 0x084 then s.hw.crb.toNat / 2 ^ 14
  else 0

/-- TIME.CYCHI and TIME.GTHI: the upper half of the requester's latch; the near port has none (R456).
[DESIGN CHOICE, log 118] -/
def timeHi (q : Req) (latch : Vector Word 7) (live : Word) : Nat :=
  match q with
  | .near => bits live.toNat 63 32
  | q => bits (latch.getD (reqCode q - 1) 0).toNat 63 32

/-- QUEUE. -/
def queueReg (s : State) (o : Nat) : Nat :=
  let u := s.queues
  match o with
  | 0x00C => fld (bit u.lock) 31
  | 0x040 => pageLo u.qtb
  | 0x044 => pageHi u.qtb
  | 0x048 => fld (u.hot.filter (fun d => d.pin && d.v)).length 16 + u.hot.length
  | _ => 0

/-- TELEM. -/
def telemReg (s : State) (o : Nat) : Nat :=
  let t := s.telem
  match o with
  | 0x00C => bit t.en
  | 0x010 => bit s.far.regs.alarm
  | 0x014 => t.istat.toNat
  | 0x018 => t.ien.toNat
  | 0x040 => t.qnum.toNat
  | 0x044 => t.seq.toNat
  | _ => if 0x100 ≤ o ∧ o < 0x140 then (t.last.getD ((o - 0x100) / 4) 0).toNat else 0

/-- TRACE; DATA0 to DATA3 read 0 when the FIFO is empty (R461). -/
def traceReg (s : State) (o : Nat) : Nat :=
  let t := s.trace
  match o with
  | 0x00C => fld t.strands.toNat 8 + fld t.kinds.toNat 4 + bit t.en
  | 0x010 => t.fifo.length
  | _ =>
    if 0x044 ≤ o ∧ o < 0x054 then
      match t.fifo with
      | [] => 0
      | r :: _ => (r.getD ((o - 0x044) / 4) 0).toNat
    else 0

/-- CFG. -/
def cfgReg (s : State) (o : Nat) : Nat :=
  if 0x040 ≤ o ∧ o < 0x060 then bits s.hw.keyHash.toNat (8 * (o - 0x040) + 31) (8 * (o - 0x040))
  else if o = 0x060 then fld (bit s.image.sig) 17 + fld (bit s.image.debug) 16 + s.image.nblk.toNat
  else if o = 0x064 then fld (bits s.image.dmbase.toNat 23 12) 12
  else 0

end Sys2Proof.Machine
end

