-- ==== Sys2Proof/Machine/Telemetry.lean ====
section
/-! DEFINITION. Telemetry records and the clock skew of the fabric (19, R458, R459; 15, R370). -/

namespace Sys2Proof.Machine

open Sys2Proof

/-- The eight doublewords of a record of a type, SEQ already counted (Table 19-8). -/
def telemWords (s : State) (typ : Nat) : List Nat :=
  [fld typ 56 + s.telem.seq.toNat, s.core.gtime.toNat, s.core.cyc.toNat, fld (pwrBrown s) 32 + pwrStat s,
   fld (tmuStat s) 32 + tmuRamp s, fld (sstate s) 32 + tmuReg s 0x050, fld (farTskew s) 32 + relCecnt s,
   fld (cacheWays s) 32 + farStat s]

/-- TELEM.ISTAT.QERR is set (R459). -/
def telemQerr (s : State) : State :=
  wakeVec { s with telem := { s.telem with istat := s.telem.istat ||| 2 } } 0x45

/-- A record enters the telemetry queue, whose descriptor is held: a local push without level check. -/
def telemPut (s : State) (d : QDesc) (bs : List Byte) : State :=
  if ! d.v || ! d.lossy || d.pkt then telemQerr s
  else
    match pushQ s d.q none bs with
    | .ok s1 => s1
    | .hold s1 => s1
    | .fault _ s1 => telemQerr s1

/-- The records that wait are pushed in their order, once the queue's descriptor is held (R376, R459). [DESIGN CHOICE, log 120] -/
def telemFlush (s : State) : State :=
  if s.telem.due.isEmpty then s
  else
    let q := s.telem.qnum.toNat
    let s0 := fetchQ s q
    match s0.qOf q with
    | none => s0
    | some d => s0.telem.due.foldl (fun s bs => telemPut s d bs) { s0 with telem := { s0.telem with due := [] } }

/-- A record is pushed into the telemetry queue. -/
def telemPush (s : State) (bs : List Byte) : State := telemFlush { s with telem := { s.telem with due := s.telem.due ++ [bs] } }

/-- Write a record of a type: LAST, SEQ, and the push while EN is 1. [DESIGN CHOICE, log 120] -/
def telemRecord (s0 : State) (typ : Nat) : State :=
  let s : State := { s0 with telem := { s0.telem with seq := s0.telem.seq + 1 } }
  let bs := (telemWords s typ).flatMap (toLE 8)
  let s1 : State := { s with telem := { s.telem with
    last := Vector.ofFn (fun i : Fin 16 => w32 (leNat ((bs.drop (4 * i.val)).take 4))) } }
  if s1.telem.en then telemPush s1 bs else s1

/-- The multiple of 100,000 that GTIME has reached. -/
def State.telemDue (s : State) : Nat := s.core.gtime.toNat / 100000

/-- GTIME's multiples so far fall due no more: no sample is taken at them (R458). [DESIGN CHOICE, log 120] -/
def telemSkip (s : State) : State := { s with telem := { s.telem with mark := s.telemDue } }

/-- A sample record is taken when GTIME has reached a further multiple of 100,000, while EN is 1 and the core is in C0, C1 or C2 (R458).
[DESIGN CHOICE, log 120] -/
def telemSample (s : State) : State :=
  if s.telem.en && s.clockOn && decide (s.telem.mark < s.telemDue) then telemRecord (telemSkip s) 0x01 else s

/-- TELEMETRY_SAMPLE. [DESIGN CHOICE, log 120] -/
def execTelemetrySample (s : State) : Out := .next (telemSample s)

/-- The skew of a received time (R370): P + PA_LDLY − GTIME as a signed 64-bit difference. [DEDUCED, log 87] -/
def skewOf (s : State) (p : Word) : Int := (p + w64 s.far.regs.ldly.toNat - s.core.gtime).toInt

/-- TSYNC: the skew is kept, an alarm is raised or cleared, and GTIME starts to slew while TFOLLOW is 1. [DEDUCED, log 87] -/
def execTsync (m : FarMsg) (s : State) : Out :=
  .next (
    if m.kind ≠ 2 ∨ m.op ≠ 0x23 then s
    else
      let s0 := takeMsg s m
      let d := skewOf s0 (w64 (leNat (m.body.take 8)))
      let bad : Bool := decide (1000 < d.natAbs)
      let s1 := s0.modFar (fun f => { f with
        regs := { f.regs with skew := BitVec.ofInt 31 d, alarm := bad }
        slew := if f.regs.tfollow then d else f.slew })
      if bad then
        let s2 : State := { s1 with telem := { s1.telem with istat := s1.telem.istat ||| 1 } }
        telemRecord (wakeVec s2 0x45) 0x03
      else s1)

end Sys2Proof.Machine
end

