-- ==== Sys2Proof/Machine/Power.lean ====
section
/-! DEFINITION. Clocks, power states, the supply monitor, the configuration load and the resets (18; R195, R389, R372). -/

namespace Sys2Proof.Machine

open Sys2Proof

/-! ### DVFS (R418 to R420, R470) -/

/-- A write of PWR.DVFS.POINT: held while this core is OFFERED, LENT or MASTER (R470), else handled (R418). -/
def writeDvfs (p : BitVec 2) (s : State) : State :=
  let g := s.tiles.tmu.gang.st
  if g = .offered ∨ g = .lent ∨ g = .master then s.modPwr (fun w => { w with held := some p }) else dvfsGo s p

def execDvfsWrite (point : BitVec 2) (s : State) : Out := .next (if s.pwr.pstate = .c0 then writeDvfs point s else s)

/-- VOLTAGE_SETTLED: after VSETTLE µs a raise goes on to its relock. [DEDUCED, log 107] -/
def execVoltageSettled (s : State) : Out :=
  .next (
    match s.pwr.dv with
    | some (p, .settle) => s.modPwr (fun w => { w with dv := some (p, .relock) })
    | _ => s)

/-- Whether a pass is in the array. -/
def passInArray (s : State) : Bool :=
  s.tiles.inflight.any (fun o => match o.body with | .tmma p => decide (p.finished < p.started) | _ => false)

/-- The VDD_CORE set point of a point goes to the regulator. -/
def setVcore (s : State) (p : BitVec 2) : State :=
  let mv := s.image.setPoint p
  (s.modPwr (fun w => { w with vset := mv })).emit (.vcore mv)

/-- RELOCK: once no pass is in the array the root clock stops for 20 µs and restarts at the new point; GTIME advances, CYC does
not; a lowering then sets the lower set point (R418, R419), and a telemetry sample that fell due meanwhile is taken once (R458). [DEDUCED, log 53]
[DEDUCED, log 107] -/
def execRelock (s : State) : Out :=
  .next (
    match s.pwr.dv with
    | some (p, .relock) =>
      if passInArray s then s
      else
        let old := s.pwr.point
        let s1 := s.modPwr (fun w => { w with point := p, dv := none })
        let s2 := s1.modCore (fun c => { c with gtime := c.gtime + 20000 })
        let s3 := s2.modTmu (fun t => { t with gov := { t.gov with still := true } })
        telemSample (if p < old then setVcore s3 p else s3)
    | _ => s)

/-! ### C1 and C2 (R417, R421) -/

/-- C1_ENTRY: no strand is running or ready. -/
def execC1Entry (s : State) : Out :=
  .next (
    if s.clockOn && s.strands.toList.all (fun t => t.run.st != .running && t.run.st != .ready) then
      s.modPwr (fun w => { w with c1 := true })
    else s)

/-- C2_ENTRY. [DEDUCED, log 107] -/
def execC2Entry (s : State) : Out :=
  let g := s.tiles.tmu.gang.st
  .next (
    if s.pwr.c2en && s.clockOn && ! tmuBusy s && g != .offered && g != .lent && g != .master then
      s.modTmu (fun t => { t with gated := true })
    else s)

/-- C2_POWER_UP: a pass waits for the gated array, and the window after the wait has b = 0 (R178, R421). -/
def execC2PowerUp (s : State) : Out :=
  .next (
    if s.tiles.tmu.gated && ((nextStart s).isSome || s.tiles.tmu.gang.st == .lent) then
      s.modTmu (fun t => { t with gated := false, gov := { t.gov with still := true } })
    else s)

/-! ### The defect record (R195, R438 to R440) -/

/-- COLS of the defect state in effect (Table 18-9). -/
def defCols (s : State) : BitVec 16 :=
  let t := s.tiles.tmu
  if s.hw.lean then 0x007F else BitVec.ofNat 16 (fld (bit t.degr) 15 + fld t.molt 8 + t.failc)

/-- WAYS of the defect state in effect. -/
def defWays (s : State) : BitVec 32 :=
  BitVec.ofNat 32 (fld s.ms.l2.dis.toNat 16 + fld (s.ms.l1i.dis.toNat % 16) 8 + s.ms.l1d.dis.toNat % 256)

/-- The counts of the defect state in effect. -/
def defCounts (s : State) : Vector (BitVec 8) 66 := if s.hw.lean then vrep 66 0 else s.tiles.tmu.counts

/-- Whether the way disables, the counts, f or DEGR differ from the newest record. -/
def defDiffers (s : State) : Bool :=
  s.defrec.ways != defWays s || s.defrec.counts != defCounts s || (s.defrec.cols &&& 0x80FF) != (defCols s &&& 0x80FF)

/-- Whether p differs from the newest record. -/
def moltDiffers (s : State) : Bool := (s.defrec.cols &&& 0x7F00) != (defCols s &&& 0x7F00)

/-- The 4,092 payload bytes of a defect sector. [DESIGN CHOICE, log 111] -/
def defPayload (r : DefRec) : List Byte :=
  toLE 4 0xD3F1 ++ toLE 4 r.seq.toNat ++ toLE 4 r.ways.toNat ++ toLE 2 r.cols.toNat ++ toLE 50 0
    ++ r.counts.toList ++ toLE (4092 - 130) 0

/-- The cells of bytes laid from a that differ from the erased state. -/
def flashCells : Nat → List Byte → List Host.Cell
  | _, [] => []
  | a, b :: r => if b = 0xFF then flashCells (a + 1) r else (a, b) :: flashCells (a + 1) r

/-- How many of the next reads of the block at an address will fail. -/
def readFails (ser : Serial) (a : Nat) : Nat := ((ser.faults.find? (fun f => f.1 == a)).map (fun f => f.2)).getD 0

/-- The serial memory after n reads of the block at an address. -/
def afterReads (ser : Serial) (a n : Nat) : Serial :=
  { ser with faults := ser.faults.filterMap (fun f => if f.1 = a then (if n < f.2 then some (a, f.2 - n) else none) else some f) }

/-- Write enable (0x06), an instruction that erases or programs, and a poll of WIP (0x05) (R435). -/
def spiWrite (op : Byte) (a : Nat) (data : List Byte) (s : State) : State :=
  ((s.emit (.spi 0x06 0 [] 0)).emit (.spi op a data 0)).emit (.spi 0x05 0 [] 1)

/-- A sector is erased, programmed in 256-byte pages, and read back; whether the read-back had its CRC (R435, R440). -/
def writeSector (op : Byte) (a : Nat) (sec : List Byte) (s : State) : Bool × State :=
  let fl := s.serial.flash
  let s1 : State := { s with serial := { s.serial with
    flash := fl.filter (fun c => decide (c.1 < a)) ++ flashCells a sec ++ fl.filter (fun c => decide (a + 4096 ≤ c.1)) } }
  let s2 := (List.range 16).foldl (fun s i => spiWrite 0x02 (a + 256 * i) ((sec.drop (256 * i)).take 256) s) (spiWrite op a [] s1)
  let s3 := s2.emit (.spi 0x03 a [] 4096)
  (readFails s.serial a == 0, { s3 with serial := afterReads s3.serial a 1 })

/-- The tries of a write-back, from sector t on: a sector whose read-back fails gives way to the next in the rotation, the sector of the
newest valid record is passed over, and after the last failure write-back has failed (R440). [DESIGN CHOICE, log 111] -/
def wbTries (op : Byte) (r : DefRec) : Nat → BitVec 4 → State → State
  | 0, _, s => s.modPwr (fun w => { w with wbfail := true })
  | n + 1, t, s =>
    let t1 := if s.defrec.valid && t == s.defrec.sect then t + 1 else t
    let pay := defPayload r
    let q := writeSector op (s.image.dmbase.toNat + 4096 * t1.toNat) (pay ++ toLE 4 (crc32c pay)) s
    if q.1 then { q.2 with defrec := { r with sect := t1 } }.modPwr (fun w => { w with wbseq := r.seq, wbsect := t1 })
    else wbTries op r n (t1 + 1) q.2

/-- The record of the defect state in effect, with SEQ one higher than the newest record's (R440). -/
def nextRecord (s : State) : DefRec :=
  { valid := true, seq := if s.defrec.valid then s.defrec.seq + 1 else 1, sect := 0, ways := defWays s, cols := defCols s,
    counts := defCounts s }

/-- The defect state in effect is written into the sector after the newest record's (R440). [DESIGN CHOICE, log 111] -/
def defectWriteBack (s : State) : State :=
  match s.pwr.erase with
  | none => s
  | some op => if s.pwr.wbfail || s.pwr.bstate != 2 then s else wbTries op (nextRecord s) 16 (if s.defrec.valid then s.defrec.sect + 1 else 0) s

/-- DEFECT_WRITE_BACK: within 1 s of a change; for p, at the periodic interval unless INTH is 0. -/
def execDefectWriteBack (s : State) : Out :=
  .next (if s.pwr.pstate = .c0 ∧ (defDiffers s || (moltDiffers s && s.pwr.inth != 0)) then defectWriteBack s else s)

/-- WB_NOW. -/
def execWbNow (s : State) : Out := .next (if s.pwr.pstate = .c0 then defectWriteBack s else s)

/-! ### The configuration load (R435 to R441) -/

/-- n bytes of a serial memory from address a, from its cells at and above a. -/
def flashGo : Nat → Nat → List Host.Cell → List Byte
  | 0, _, _ => []
  | n + 1, a, [] => 0xFF :: flashGo n (a + 1) []
  | n + 1, a, (x, b) :: r => if x = a then b :: flashGo n (a + 1) r else 0xFF :: flashGo n (a + 1) ((x, b) :: r)

/-- n bytes of a serial memory from address a. -/
def flashRead (ser : Serial) (a n : Nat) : List Byte := flashGo n a (ser.flash.dropWhile (fun c => decide (c.1 < a)))

/-- Whether the 4 KiB block at an address has its CRC. -/
def blockGood (b : List Byte) : Bool := crc32c (b.take 4092) == leNat (b.drop 4092)

/-- The number of n bytes at an offset of a byte string. -/
def numAt (b : List Byte) (o n : Nat) : Nat := leNat ((b.drop o).take n)

/-- The KEYHASH tie-off as 32 bytes, byte j from bits [8j + 7 : 8j]. -/
def keyHashBytes (hw : Hw) : List Byte := toLE 32 hw.keyHash.toNat

/-- Whether PKEY is accepted (R437). [PRESUMED, log 109] -/
def pkeyOk (hw : Hw) (b0 : List Byte) : Bool :=
  hw.keyHash != 0 && (sha512 ((b0.drop 0x40).take 32)).take 32 == keyHashBytes hw

/-- Region k of the header. -/
def regionOf (b0 : List Byte) (k : Nat) : Region :=
  let w := fun (i : Nat) => numAt b0 (0x80 + 16 * k + 4 * i) 4
  { base := BitVec.ofNat 40 (bits (w 0) 31 12 + fld (bits (w 1) 19 0) 20)
    lim := BitVec.ofNat 40 (bits (w 2) 31 12 + fld (bits (w 3) 19 0) 20)
    typ := BitVec.ofNat 2 (bits (w 0) 1 0) }

/-- The settings of an image header (Table 18-8). STEP and FLOOR outside their range leave the defaults (R180).
[DESIGN CHOICE, log 110] -/
def imageOf (b0 : List Byte) (csrv sigok : Bool) (pfwver : Nat) : Image :=
  let step := bits (numAt b0 0x28 2) 14 8
  let floor := bits (numAt b0 0x28 2) 6 0
  { imgver := BitVec.ofNat 16 (numAt b0 4 2), debug := tbit (numAt b0 4 4) 16, sig := tbit (numAt b0 4 4) 17, sigok := sigok,
    csrv := csrv, nblk := BitVec.ofNat 9 (numAt b0 8 4), dmbase := BitVec.ofNat 32 (numAt b0 0xC 4),
    bootvec := w64 (numAt b0 0x10 8), node := BitVec.ofNat 14 (numAt b0 0x18 2), dvfs := BitVec.ofNat 4 (numAt b0 0x1C 2),
    vsettle := BitVec.ofNat 8 (numAt b0 0x1D 1), vset := Vector.ofFn (fun i : Fin 4 => BitVec.ofNat 16 (numAt b0 (0x20 + 2 * i.val) 2)),
    rampStep := if 4 ≤ step ∧ step ≤ 64 ∧ step % 4 = 0 then step else 8,
    rampFloor := if 8 ≤ floor ∧ floor ≤ 64 ∧ floor % 4 = 0 then floor else 16,
    pfwver := BitVec.ofNat 16 pfwver, regions := Vector.ofFn (fun k : Fin 16 => regionOf b0 k.val) }

/-- Whether a header has a setting of Table 18-11, reason 0x06. [DESIGN CHOICE, log 110] -/
def badSettings (i : Image) : Bool :=
  ! i.dvfs.getLsbD 2 || i.vset.toList.any (· == 0) || i.vsettle == 0 || i.regions.toList.any (fun r => r.typ != 0 && decide (r.lim < r.base))

/-- Whether the PFW section's own signature verifies; the section lies in the image (R425, R437). [DESIGN CHOICE, log 110]
[PRESUMED, log 109] -/
def pfwRuns (hw : Hw) (ser : Serial) (b0 : List Byte) (nblk : Nat) : Bool :=
  let w := numAt b0 0x2C 4
  let first := bits w 15 8
  let n := bits w 7 0
  let sec := flashRead ser (4096 * first) (4096 * n)
  n != 0 && decide (first + n ≤ nblk) && pkeyOk hw b0 && ed25519Verify ((b0.drop 0x40).take 32) (sec.drop 64) (sec.take 64)

/-- The addresses of the parameter headers of the SFDP (JESD216). [PRESUMED, log 141] -/
def sfdpHeaders (ser : Serial) : List Nat := (List.range (numAt ser.sfdp 6 1 + 1)).map (fun i => 8 + 8 * i)

/-- Whether a parameter header has an ID LSB, with ID MSB 0xFF (R435). [PRESUMED, log 141] -/
def sfdpIs (ser : Serial) (lsb h : Nat) : Bool := numAt ser.sfdp h 1 == lsb && numAt ser.sfdp (h + 7) 1 == 0xFF

/-- The first two doublewords of the Basic Flash Parameter Table. [PRESUMED, log 141] -/
def sfdpBasic (ser : Serial) : Nat × Nat :=
  match (sfdpHeaders ser).find? (sfdpIs ser 0x00) with
  | none => (0, 0)
  | some h => let a := numAt ser.sfdp (h + 4) 3; (numAt ser.sfdp a 4, numAt ser.sfdp (a + 4) 4)

/-- The 4 KiB erase opcode, when 4 KiB erase is supported (R435). [PRESUMED, log 141] -/
def sfdpErase (ser : Serial) : Option Byte :=
  let d := (sfdpBasic ser).1
  if d % 4 = 1 then some (BitVec.ofNat 8 (bits d 15 8)) else none

/-- Whether the parameter header of a shared configuration server is present (R435). -/
def sfdpCsrv (ser : Serial) : Bool := (sfdpHeaders ser).any (sfdpIs ser 0xE3)

/-- Whether the image block at an address is read with its CRC in at most four reads (R436). -/
def imgBlockOk (ser : Serial) (a : Nat) : Bool := blockGood (flashRead ser a 4096) && decide (readFails ser a < 4)

/-- The reads that the image block at an address takes (R436). -/
def imgBlockReads (ser : Serial) (a : Nat) : Nat := if blockGood (flashRead ser a 4096) then min (readFails ser a + 1) 4 else 4

/-- A configuration load: the reason and block of a failure, or the settings and whether PFW runs. [DESIGN CHOICE, log 110]
[PRESUMED, log 109] [DESIGN CHOICE, log 111] -/
def loadImage (hw : Hw) (ser : Serial) : Except (Nat × Nat) (Image × Bool) :=
  let b0 := flashRead ser 0 4096
  let nblk := numAt b0 8 4
  if numAt ser.sfdp 0 4 ≠ 0x50444653 then .error (0x01, 0)
  else if ! imgBlockOk ser 0 then .error (0x03, 0)
  else if numAt b0 0 4 ≠ 0x49435354 ∨ nblk < 1 ∨ 256 < nblk then .error (0x02, 0)
  else
    match ((List.range nblk).drop 1).find? (fun b => ! imgBlockOk ser (4096 * b)) with
    | some b => .error (0x03, b)
    | none =>
      let sig := tbit (numAt b0 4 4) 17
      let keyed := hw.keyHash != 0
      let last := flashRead ser (4096 * (nblk - 1)) 64
      let verified := sig && pkeyOk hw b0
        && ed25519Verify ((b0.drop 0x40).take 32) (flashRead ser 0 (4096 * (nblk - 1))) last
      if keyed && (! sig || ! pkeyOk hw b0) then .error (0x05, 0)
      else if keyed && ! verified then .error (0x04, 0)
      else
        let runs := pfwRuns hw ser b0 nblk
        let i := imageOf b0 (sfdpCsrv ser) verified (if runs then bits (numAt b0 0x2C 4) 31 16 else 0)
        if badSettings i then .error (0x06, 0) else .ok (i, runs)

/-- The image blocks that a load reads: up to the one that fails, none without the SFDP signature, the header alone when it is wrong. -/
def loadBlocks (ser : Serial) : Except (Nat × Nat) (Image × Bool) → Nat
  | .error (e, b) => if e = 0x01 then 0 else if e = 0x02 then 1 else if e = 0x03 then b + 1 else numAt (flashRead ser 0 4096) 8 4
  | .ok (i, _) => i.nblk.toNat

/-- A block at an address is read n times with instruction 0x03 (R435, R436). -/
def readBlock (s : State) (a n : Nat) : State :=
  { (List.range n).foldl (fun (s : State) _ => s.emit (.spi 0x03 a [] 4096)) s with serial := afterReads s.serial a n }

/-- The reads of a load: the SFDP header and tables with 0x5A, the image blocks, and, when it succeeds, the 16 defect sectors (R435, R436, R439). -/
def loadReads (s : State) : State :=
  let ser := s.serial
  let r := loadImage s.hw ser
  let s1 := s.emit (.spi 0x5A 0 [] 8)
  let s2 := if numAt ser.sfdp 0 4 = 0x50444653 then s1.emit (.spi 0x5A 8 [] (8 * (numAt ser.sfdp 6 1 + 1))) else s1
  let s3 := (List.range (loadBlocks ser r)).foldl (fun s b => readBlock s (4096 * b) (imgBlockReads ser (4096 * b))) s2
  match r with
  | .ok (i, _) => (List.range 16).foldl (fun s b => readBlock s (i.dmbase.toNat + 4096 * b) 1) s3
  | .error _ => s3

/-- The record of a defect sector, when it is valid (R439). [DESIGN CHOICE, log 111] -/
def recordAt (ser : Serial) (base i : Nat) : Option DefRec :=
  let b := flashRead ser (base + 4096 * i) 4096
  if numAt b 0 4 = 0xD3F1 ∧ blockGood b ∧ readFails ser (base + 4096 * i) = 0 then
    some { valid := true, seq := BitVec.ofNat 32 (numAt b 4 4), sect := BitVec.ofNat 4 i, ways := BitVec.ofNat 32 (numAt b 8 4),
           cols := BitVec.ofNat 16 (numAt b 0xC 2),
           counts := Vector.ofFn (fun j : Fin 66 => BitVec.ofNat 8 (numAt b (0x40 + j.val) 1)) }
  else none

/-- The valid record with the highest SEQ, or the defaults. [DESIGN CHOICE, log 111] -/
def newestRecord (ser : Serial) (base : Nat) : DefRec :=
  ((List.range 16).filterMap (recordAt ser base)).foldl (fun a r => if ! a.valid || decide (a.seq < r.seq) then r else a) DefRec.zero

/-- The choice of f and DEGR at a load (R195): the column of the highest count of 2 or more becomes f when f is none. -/
def chooseFailed (f : Nat) (degr : Bool) (counts : Vector (BitVec 8) 66) : Nat × Bool :=
  let n := fun (j : Nat) => (counts.getD j 0).toNat
  let high := (List.range 66).filter (fun j => j != f && decide (2 ≤ n j))
  let f1 := if f = 0x7F then (match high with | [] => f | j :: r => r.foldl (fun a i => if n a < n i then i else a) j) else f
  (f1, degr || high.any (fun j => j != f1))

/-- FEAT0 to FEAT7 of a build and a load (Tables 1-2 to 1-9). -/
def featOf (hw : Hw) (feat7 : Nat) : Vector Word 8 :=
  let l := hw.lean
  #v[w64 (fld 0x00E3 32 + fld (if l then 2 else 1) 24 + fld hw.stepping.toNat 16 + 0x0103),
     if l then 0x07012000 else 0x07024003, 0x07FF07FF,
     w64 (fld hw.csize.toNat 16 + fld hw.cidx.toNat 8 + (if l then 0 else 6)),
     w64 (fld 7 40 + fld 15 36 + fld 256 24 + fld 2 16 + (if l then 0x0102 else 0x0404)), 0x0C040014,
     if hw.farp then 0x0000040040000301 else 0, w64 feat7]

/-- FEAT7 of a load (Table 1-9). -/
def feat7Of (i : Image) : Nat :=
  fld i.pfwver.toNat 48 + fld i.imgver.toNat 32 + fld i.dvfs.toNat 4 + fld (bit i.csrv) 1 + bit i.sigok

/-! ### The resets (R430 to R434, Tables 18-6 and 18-7) -/

/-- The strands after a reset: strand 0 runs, the others are stopped (R44). Near-port reads in flight are still owed an answer, which
is discarded (R306). [DESIGN CHOICE, log 6] [DEDUCED, log 54] -/
def bootStrands (f : StrandId → Strand) (run : Bool) : Vector Strand 4 :=
  Vector.ofFn (fun k : Fin 4 =>
    let t := f k
    { t with run := { RunInfo.zero (if run && k == 0 then .running else .stopped) with late := t.run.late } })

/-- A strand at its reset values; its reads in flight are owed an answer (R306). -/
def warmStrand (t : Strand) (boot : Word) : Strand :=
  { Strand.zero .stopped boot with run := { RunInfo.zero .stopped with late := t.run.owed } }

/-- What a cold reset leaves before the load: the tie-offs, the memories outside the core, BROWN, the serial memory, the die
lines, and the array columns that are faulty. -/
def coldBase (s : State) (cause : BitVec 4) (ser : Serial) : State :=
  { State.reset with
    hw := s.hw
    feat := featOf s.hw 0
    near := s.home
    home := s.home
    marks := s.marks.filter (fun m => m.code == 0x0B)
    intu := { Intu.zero with lines := s.intu.lines }
    pwr :=
      { Pwr.zero with
        brown := s.pwr.brown
        srst := s.pwr.srst
        rstc := cause
        rst := some .cold
        wbfail := (sfdpErase ser).isNone
        erase := sfdpErase ser
        density := BitVec.ofNat 32 (sfdpBasic ser).2 }
    far := { Far.zero 0 with link := { Link.zero with linkup := s.far.link.linkup } }
    serial := ser
    mgmt := { Mgmt.zero with rdata := s.mgmt.rdata }
    tap := s.tap
    free := s.free
    out := s.out
    fetching := s.fetching
    pending := s.pending }

/-- The supplies of a cold reset: VDD_SRAM, then VDD_CORE is brought up where it was off, and JABT_OUT falls (R473, R477). [DEDUCED, log 104] -/
def coldPins (s : State) (cause : BitVec 4) (b : State) : State :=
  let b1 := if s.core.jabtOut then b.emit (.jabtOut false) else b
  if s.pwr.coreEn && s.pwr.sramEn && cause != 1 then b1 else (b1.emit (.vrEn false true)).emit (.vrEn true true)

/-- A link that is up is trained again by a cold reset; the count starts at 0 with it (R372, Table 15-12). [DESIGN CHOICE, log 105] -/
def coldLink (s : State) : State :=
  if s.hw.farp && s.far.link.linkup then
    { s with far := { s.far with
      link := { s.far.link with snd := .retrain, retrain := true }
      regs := { s.far.regs with lstate := .retrain } } }
  else s

/-- What a load leaves: the failure, with every strand stopped, or the settings and the defect state in effect (R441, Table 18-10). -/
def coldLoaded (s : State) (cause : BitVec 4) (ser : Serial) : State :=
  let b := loadReads (coldPins s cause (coldBase s cause ser))
  match loadImage s.hw ser with
  | .error (e, blk) =>
    { b with
      image := { Image.zero with nblk := 0, dvfs := 0 }
      shadow := { Image.zero with nblk := 0, dvfs := 0 }
      core := { b.core with cur := none }
      strands := bootStrands (fun _ => Strand.zero .stopped 0) false
      pwr := { b.pwr with berr := BitVec.ofNat 8 e, bblock := BitVec.ofNat 8 blk, bstate := 3 } }
  | .ok (i, runs) =>
    let d := newestRecord ser i.dmbase.toNat
    let c := if s.hw.lean then (0x7F, false) else chooseFailed (bits d.cols.toNat 6 0) (d.cols.getLsbD 15) d.counts
    let p := if s.hw.lean then 0 else bits d.cols.toNat 14 8 % 66
    { b with
      image := i
      shadow := i
      feat := featOf s.hw (feat7Of i)
      strands := bootStrands (fun _ => Strand.zero .stopped i.bootvec) true
      defrec := d
      far := { Far.zero i.node with link := b.far.link }
      tiles := { b.tiles with tmu := { b.tiles.tmu with
        molt := p
        failc := c.1
        degr := c.2
        counts := if s.hw.lean then vrep 66 0 else d.counts
        gov := { Governor.zero with step := i.rampStep, floor := i.rampFloor, lock := true } } }
      ms := { b.ms with
        l2 := { CacheArr.zero with dis := BitVec.ofNat 16 (bits d.ways.toNat 31 16) }
        l1i := { CacheArr.zero with dis := BitVec.ofNat 16 (bits d.ways.toNat 11 8) }
        l1d := { CacheArr.zero with dis := BitVec.ofNat 16 (bits d.ways.toNat 7 0) }
        page := { CachePage.zero with regions := i.regions } }
      pwr := { b.pwr with
        pfw := runs
        romfw := ! runs
        dmdef := ! d.valid
        wbseq := d.seq
        wbsect := d.sect
        vset := i.setPoint 2
        bstate := 2 }
      out := b.out ++ [.vcore (i.setPoint 2)] }

/-- A cold reset: the boot sequence and the configuration load (Table 18-10), and the link trained again (R372). -/
def coldReset (s : State) (cause : BitVec 4) (ser : Serial) : State := coldLink (coldLoaded s cause ser)

/-- A strand after job reset: what Table 18-7 keeps is TSHAPE and XPASS; STKLIM, FTIDX, FTLO and FTHI are not listed and keep
their values. [DESIGN CHOICE, log 6] [DESIGN CHOICE, log 103] -/
def jobStrand (t : Strand) (boot : Word) : Strand :=
  { warmStrand t boot with
    num := { NumRegs.zero with tshape := t.num.tshape, xpass := t.num.xpass }
    xl := { XlRegs.zero with idx := t.xl.idx, ftlo := t.xl.ftlo, fthi := t.xl.fthi }
    saves := { Saves.zero with stkU := t.saves.stkU, stkS := t.saves.stkS, stkM := t.saves.stkM } }

/-- A held descriptor is written back, and its queue emptied (R389). [DEDUCED, log 97] -/
def emptyQueue (s : State) (d : QDesc) : State :=
  (nearWrite s (s.qAddr d.q) d.bytes).modQ d.q (fun d => { d with
    head := d.tail
    take := d.tail
    lost := 0
    err := 0
    items := []
    deferred := none
    fwding := false })

/-- The queues whose descriptors have bytes in near memory. [DEDUCED, log 97] -/
def tableQueues (s : State) : List Nat :=
  let a := s.qAddr 0
  ((s.near.filter (fun c => decide (a ≤ c.1) && decide (c.1 < a + 64 * 2 ^ 20))).map (fun c => (c.1 - a) / 64)).eraseDups

/-- A valid descriptor in the table is emptied (R389): TAKE, HEAD, LOST and ERR; its reserved bits stand. [DEDUCED, log 97] -/
def emptyStored (s : State) (q : Nat) : State :=
  let a := s.qAddr q
  let b := s.near.dense a 64
  let d := qdescOf q b
  if d.v then
    nearWrite (nearWrite s (a + 28) (toLE 4 d.tail.toNat)) (a + 33) (toLE 3 0 ++ toLE 4 d.tail.toNat)
  else s

/-- Every queue is emptied (R389): the held ones, then those in the table, once a table is in use. [DEDUCED, log 97] -/
def emptyQueues (s : State) : State :=
  let held := s.queues.hot.map (fun d => d.q)
  let s1 := s.queues.hot.foldl emptyQueue s
  if s.queues.lock || s.queues.qtb != 0 || ! held.isEmpty then
    ((tableQueues s1).filter (fun q => ! held.contains q)).foldl emptyStored s1
  else s1

/-- The far port at job reset (R372): sessions, windows, JSTAT and EPOCH; the link stays up. -/
def jobFar (s : State) : State :=
  let s1 := s.modFar (fun f => { f with
    src := []
    tgt := []
    reqs := []
    wins := vrep 64 RWin.zero
    jmsg := none
    jsends := 0
    regs := { f.regs with epoch := 0, jreason := 0 } })
  setJState s1 .unjoined

/-- Structures of Table 17-1 whose contents a job reset replaces. [DESIGN CHOICE, log 46] -/
def jobClears (m : ErrMark) : Bool :=
  [0x08, 0x09, 0x0A, 0x0D, 0x0E, 0x0F, 0x10, 0x12, 0x13].contains m.code || (m.code == 0x14 && m.loc != 0x100)

/-- A transition that a reset meets ends: the set point is that of the point in effect (R420). [DEDUCED, log 104] -/
def dropDvfs (s : State) : State :=
  match s.pwr.dv with
  | none => s
  | some _ => setVcore (s.modPwr (fun w => { w with dv := none })) s.pwr.point

/-- JABT_OUT falls (R477). -/
def dropJabt (s : State) : State :=
  if s.core.jabtOut then (s.modCore (fun c => { c with jabtOut := false })).emit (.jabtOut false) else s

/-- What job reset does beside the strands and the queues: a load that has failed leaves no strand to run (R441). [DESIGN CHOICE, log 103] -/
def jobCore (s : State) : State :=
  let s1 : State := { dropDvfs (dropJabt s) with
    marks := s.marks.filter (fun m => ! jobClears m)
    weevils := vrep 4 Engine.zero
    tiles := { s.tiles with
      banks := vrep 2 Bank.zero
      claims := []
      claim := none
      inflight := []
      runnel := vrep 8 RnEntry.zero
      tmu := { s.tiles.tmu with gang := { Gang.zero with partners := s.tiles.tmu.gang.partners } } } }
  let s2 := s1.modCore (fun c => { c with
    jl := false
    cur := if s.pwr.bstate = 2 then some 0 else none
    last := 0
    hold := 0b1110
    halted := false
    jabtIn := false })
  let s3 := s2.modMs (fun m => { m with
    itlb := []
    dtlb := []
    l2tlb := []
    ftlb := vrep 256 (0, 0)
    vict := 0
    ntlbi := none
    ntlbiDone := false
    engAt := []
    mshr := m.mshr.map (fun q => { q with engs := [] })
    preads := (m.preads.filter (fun p => ! p.done)).map (fun p => { p with who := .own }) })
  let s4 := s3.modRel (fun r => { r with
    frozen := false
    aborted := false
    halted := false
    ckst := if r.ckst = .drain ∨ r.ckst = .copy then .failed else r.ckst
    ckerr := if r.ckst = .drain ∨ r.ckst = .copy then 0x08 else r.ckerr })
  jobFar (s4.modPwr (fun w => { w with creq := none, c1 := false }))

/-- Job reset. A DVFS point held while a gang stood takes effect. [DEDUCED, log 97] [DEDUCED, log 101]
[DESIGN CHOICE, log 103] [DEDUCED, log 104] -/
def jobReset (s : State) : State :=
  let s1 := jobCore (emptyQueues s)
  let s2 : State := { s1 with strands := bootStrands (fun k => jobStrand (s.str k) s.image.bootvec) (s.pwr.bstate == 2) }
  let s3 := s2.modPwr (fun w => { w with rstc := 6, held := none, rst := some .job })
  match s.pwr.held with
  | none => s3
  | some p => dvfsGo s3 p

/-- The link is trained again (R372, R423): PA_RETRAIN is asserted, and held until PA_LINKUP falls, where the link is trained; else it trains as it
is. [DESIGN CHOICE, log 105] -/
def retrainLink (s : State) : State :=
  if s.hw.farp then (let s1 := askRetrain s; s1.modLink (fun l => { l with retrain := l.retrain && l.linkup })) else s

/-- Warm reset with its cause: job reset's effects, the defaults of R434, the settings of the shadow (R431), and every other
register of the pages at its reset value (R433). [DESIGN CHOICE, log 103] [DEDUCED, log 104] -/
def warmReset (s : State) (cause : BitVec 4) : State :=
  let i := s.shadow
  let s1 := jobCore { s with queues := { lock := false, qtb := 0, hot := [] } }
  let s2 : State := { s1 with
    image := i
    marks := s1.marks.filter (fun m => m.code != 0x11 && m.code != 0x14)
    strands := bootStrands (fun k => warmStrand (s.str k) i.bootvec) (s.pwr.bstate == 2)
    core := { s1.core with edtb := 0, gdtb := 0, prof := 0b11 }
    intu := { Intu.zero with lines := s.intu.lines }
    mgmt := { Mgmt.zero with rdata := s.mgmt.rdata, lastB := s.mgmt.lastB, wait := s.mgmt.wait }
    strdbg := { sel := 0, derr := false }
    telem := Telem.zero
    trace := Trace.zero
    far := { Far.zero i.node with
      regs := { FarRegs.zero i.node with retrains := s.far.regs.retrains, lstate := s.far.regs.lstate }
      link := s.far.link
      nextReq := s.far.nextReq
      sgens := s.far.sgens } }
  let s3 := s2.modPage (fun g => { CachePage.zero with
    regions := i.regions
    cleaning := g.cleaning.filter (fun p => p.1 != 3) })
  let s4 := s3.modTmu (fun t => { t with
    gated := false
    gov := { Governor.zero with lock := true, hold := t.gov.hold, step := i.rampStep, floor := i.rampFloor } })
  let s5 := s4.modRel (fun r => { Rel.zero with
    nextf := r.nextf
    nextc := r.nextc
    cethr := r.cethr
    cecount := r.cecount
    abst := r.abst
    abt := r.abt
    ffL2 := r.ffL2
    ffSp := r.ffSp
    fovf := r.fovf
    crec := r.crec
    frec := r.frec })
  let s6 := s5.modPwr (fun w => { Pwr.zero with
    point := 0b10
    hold := w.hold
    vwarn := w.vwarn
    pfw := w.pfw
    romfw := w.romfw
    srst := w.srst
    brown := w.brown
    rstc := cause
    berr := w.berr
    bblock := w.bblock
    dmdef := w.dmdef
    bstate := w.bstate
    wbseq := w.wbseq
    wbfail := w.wbfail
    wbsect := w.wbsect
    vset := w.vset
    mv := w.mv
    rst := some .warm
    coreEn := w.coreEn
    sramEn := w.sramEn
    erase := w.erase
    density := w.density })
  retrainLink (if s6.pwr.vset = i.setPoint 2 then s6 else setVcore s6 2)

/-- Whether every near-port request of the core has been answered and every write acknowledged. [DEDUCED, log 104] -/
def nearQuiet (s : State) : Bool :=
  s.ms.mshr.isEmpty && s.ms.maint.all (fun q => q.pre) && s.ms.preads.all (fun p => p.done) && s.ms.lateW.isEmpty
    && s.strands.toList.all (fun t => t.run.owed == 0)

/-- A strand gives up what it waits for: its instruction runs again from the restart point. -/
def restart (s : State) (k : StrandId) : State :=
  s.modRun k (fun r => { r with cond := if r.cond = some .gate then r.cond else none })

/-- Debug reset: every strand is held, every unretired instruction and the return buffers are discarded, and the strands resume at their restart
points (R432, R306). [DESIGN CHOICE, log 21] -/
def debugReset (s : State) : State :=
  let s1 := ([0, 1, 2, 3] : List StrandId).foldl (fun s k => restart (dropRet (giveUp (holdStrand s k) k) k) k) s
  (s1.modCore (fun c => { c with hold := 0b1111 })).modPwr (fun w => { w with rstc := 8, rst := some .debug })

/-! ### C3 and C4 (R422 to R424) -/

/-- Stopped or held. -/
def StState.quiet : StState → Bool
  | .stopped => true
  | .held => true
  | _ => false

/-- HOLD bit n is cleared: a stopped strand starts, a held one returns to ready or to its wait, which an event that it can take ends
(R42), once every write made through STRDBG has taken effect (R57); a strand that job abort stopped stays held (R44, R405). -/
def releaseStrand (s : State) (k : StrandId) : State :=
  let t := s.str k
  let go := fun (s : State) (st : StState) => (s.modRun k (fun r => { r with st := st })).modPwr (fun w => { w with c1 := false })
  match t.run.st with
  | .stopped => go s .ready
  | .held =>
    let q := settleDbg s k
    let s := q.2
    if ! q.1 ∨ (s.rel.aborted ∧ t.status.lvl ≠ .ml) then s
    else match t.run.cond with
      | none => go s .ready
      | some .gate => go (s.modRun k (fun r => { r with cond := none })) .ready
      | some _ => if (nextEvent s k).isSome then go (s.modRun k (fun r => { r with cond := none })) .ready else s.modRun k (fun r => { r with st := .waiting })
  | _ => s

/-- One bit of a HOLD write. The running strand takes a pending event first, and leaves at the boundary after it (R41).
[DESIGN CHOICE, log 21] -/
def holdBit (old new : BitVec 4) (s : State) (k : StrandId) : State :=
  if new.getLsbD k.val && ! old.getLsbD k.val then
    (if s.core.cur = some k ∧ (nextEvent s k).isSome then s else holdStrand s k)
  else if ! new.getLsbD k.val && old.getLsbD k.val then releaseStrand s k
  else s

/-- SCHED.HOLD takes a value, without its effect on a pending C3 or C4 entry. -/
def setHold (v : BitVec 4) (s : State) : State :=
  wakeAllVecs (([0, 1, 2, 3] : List StrandId).foldl (holdBit s.core.hold v) (s.modCore (fun c => { c with hold := v })))

/-- Slots not yet written of a held descriptor's items are written, and the descriptor goes back to its table.
[DESIGN CHOICE, log 92] [DESIGN CHOICE, log 105] -/
def dropQueue (s : State) (d : QDesc) : State :=
  let s1 := d.items.foldl (fun s it => writeSlots s d it it.wr (it.k - it.wr)) s
  portWrite s1 (s1.qAddr d.q) d.bytes

/-- C3 entry (R423). [DESIGN CHOICE, log 105] -/
def enterC3 (s : State) : State :=
  let s1 := s.queues.hot.foldl dropQueue (sendEvictions (cleanInvAll s))
  let s2 : State := { s1 with queues := { s1.queues with hot := [] } }
  let s3 := s2.modMs (fun m => { m with
    itlb := []
    dtlb := []
    l2tlb := []
    ftlb := m.ftlb.map (fun e => (e.1, e.2 &&& ~~~(0x80 : Word))) })
  let s4 := jobFar s3
  let s5 := setLState (s4.modFar (fun f => { f with link := Link.zero })) .down
  s5.modPwr (fun w => { w with pstate := .c3, clast := 3, creq := none })

/-- C4 entry: the write-back of the defect state, and VDD_CORE and VDD_SRAM are removed, in the reverse of their power-up order (R424, R473).
[DEDUCED, log 104] -/
def enterC4 (s : State) : State :=
  let s1 := if defDiffers s || moltDiffers s then defectWriteBack s else s
  let s2 := s1.modPwr (fun w => { w with pstate := .c4, clast := 4, creq := none, vset := 0, coreEn := false, sramEn := false })
  ((s2.emit (.vcore 0)).emit (.vrEn false true)).emit (.vrEn false false)

/-- A requested C3 or C4 entry proceeds as soon as every strand is stopped or held (R422). -/
def tryCState (s : State) : State :=
  match s.pwr.creq with
  | none => s
  | some c =>
    if s.pwr.pstate = .c0 ∧ s.strands.toList.all (fun t => t.run.st.quiet) then (if c = 3 then enterC3 s else enterC4 s) else s

/-- SCHED.HOLD is written. -/
def writeHold (v : BitVec 4) (s : State) : State := tryCState (setHold v s)

/-- The core wakes from C3: the clocks restart, the link retrains, and the HOLD bits of WAKE.STRANDS are cleared (R423).
[DESIGN CHOICE, log 105] -/
def wakeC3 (s : State) : State :=
  if s.pwr.pstate = .c3 then
    let s1 := telemSkip (retrainLink (s.modPwr (fun w => { w with pstate := .c0 })))
    setHold (s1.core.hold &&& ~~~s1.pwr.wkStrands) s1
  else s

/-- The refusal of a C3 or C4 request (Table 18-4). -/
def creqRefusal (s : State) : Option (BitVec 8) :=
  let busy := fun (r : RunSt) => r == .running || r == .suspended
  let j := s.far.regs.jstate
  if j = .joining ∨ j = .joined then some 0x01
  else if s.strands.toList.any (fun t => t.chains.toList.any (fun c => busy c.st)) || s.weevils.toList.any (fun e => busy e.st)
      || s.far.wins.toList.any (fun w => w.st != .idle) || s.ckHold then some 0x02
  else if s.tiles.tmu.gang.st ≠ .own then some 0x03
  else if s.pwr.dv.isSome || s.tiles.tmu.gov.hold then some 0x04
  else if s.pwr.creq.isSome then some 0x05
  else none

/-- C3 (3) or C4 (4) is requested. [DEDUCED, log 106] -/
def requestC (c : BitVec 3) (s : State) : State :=
  if s.pwr.pstate ≠ .c0 then s
  else match creqRefusal s with
    | some e => s.modPwr (fun w => { w with cerr := e })
    | none => tryCState (s.modPwr (fun w => { w with creq := some c }))

def execCreqC3 (s : State) : Out := .next (requestC 3 s)
def execCreqC4 (s : State) : Out := .next (requestC 4 s)
/-- [DEDUCED, log 106] -/
def execCreqWake (s : State) : Out := .next (wakeC3 s)

/-- Whether a wake event of R423 stands: an enabled die line is asserted, or a strand timer has reached its compare value.
[DESIGN CHOICE, log 26] -/
def wakeDue (s : State) : Bool :=
  (s.pwr.wkLines && (List.range 32).any (fun n => s.intu.lines.getLsbD n && (s.vcfg (0x60 + n)).en))
    || (s.pwr.wkTimers && ([0, 1, 2, 3] : List (Fin 4)).any (fun n =>
        s.intu.armed[n] && s.intu.tcmp[n] != 0 && decide (s.intu.tcmp[n] ≤ s.core.gtime)))

def execC3Wake (s : State) : Out := .next (if wakeDue s then wakeC3 s else s)

/-! ### Reset requests (R430, R476) -/

/-- A warm reset starts once the near port is quiet (R391); meanwhile it is due, and the core issues nothing.
[DEDUCED, log 104] -/
def askWarm (s : State) (cause : BitVec 4) : State :=
  if nearQuiet s then warmReset s cause else s.modPwr (fun w => { w with warmDue := some cause })

/-- A warm reset that is due starts as soon as it may. [DEDUCED, log 104] -/
def tryWarm (s : State) : State := match s.pwr.warmDue with | some c => if nearQuiet s then warmReset s c else s | none => s

/-- The strength of a reset (R430). -/
def resetRank : ResetKind → Nat
  | .debug => 0
  | .job => 1
  | .warm => 2
  | .cold => 3

/-- Whether a reset request is absorbed: one as strong is in progress, or a warm reset is due (R430). [DESIGN CHOICE, log 145] -/
def State.absorbs (s : State) (k : ResetKind) : Bool :=
  (match s.pwr.rst with | some r => decide (resetRank k ≤ resetRank r) | none => false) || (s.pwr.warmDue.isSome && k != .cold)

/-- Run a reset of a kind: a warm, job or debug request first wakes the core from C3 and is ignored in C4; a request that meets a reset in
progress is absorbed, unless it is the stronger, which runs as its own kind (R430). [DEDUCED, log 54] [DESIGN CHOICE, log 145] -/
def runReset (kind : ResetKind) (s : State) : State :=
  if s.absorbs kind then s
  else
    match kind with
    | .cold =>
      if s.pwr.pstate = .c4 then coldReset s 7 s.serial
      else
        let s1 := if defDiffers s || moltDiffers s then defectWriteBack s else s
        coldReset s1 2 s1.serial
    | k =>
      if s.pwr.pstate = .c4 then s
      else
        let s1 := wakeC3 s
        match k with
        | .warm => askWarm s1 4
        | .job => jobReset s1
        | _ => debugReset s1

/-- COLD_RESET: VDD_PLL power-up with a serial memory attached; BROWN is cleared. -/
def execColdReset (ser : Serial) (s : State) : Out :=
  .next (coldReset (s.modPwr (fun w => { w with brown := 0, srst := 0 })) 1 ser)
def execWarmReset (s : State) : Out := .next (runReset .warm s)
def execJobReset (s : State) : Out := .next (runReset .job s)
def execDebugReset (s : State) : Out := .next (runReset .debug s)
/-- [DEDUCED, log 54] -/
def execResetRequestInput (kind : ResetKind) (s : State) : Out := .next (runReset kind s)

/-- A write of PWR.RSTREQ in a state in which the page answers. [DEDUCED, log 54] -/
def writeRstreq (k : Nat) (s : State) : State :=
  match k with
  | 1 => runReset .warm s
  | 2 => runReset .job s
  | 3 => runReset .debug s
  | _ => s

def execRstreqWarm (s : State) : Out := .next (if s.pwr.pstate = .c0 then writeRstreq 1 s else s)
def execRstreqJob (s : State) : Out := .next (if s.pwr.pstate = .c0 then writeRstreq 2 s else s)
def execRstreqDebug (s : State) : Out := .next (if s.pwr.pstate = .c0 then writeRstreq 3 s else s)

/-! ### The power microcontroller and the supply monitor (R425 to R429) -/

/-- PFW_FAULT: the microcontroller restarts the ROM firmware. -/
def execPfwFault (s : State) : Out := .next (s.modPwr (fun w => { w with pfw := false, romfw := true }))

/-- The bit of PWR.STAT.VWARN of a rail. -/
def railBit : Rail → BitVec 3
  | .core => 1
  | .sram => 2
  | .pll => 4

/-- A raise that has not relocked is cancelled and the old set point restored (R420). -/
def cancelRaise (s : State) : State :=
  match s.pwr.dv with
  | some (p, ph) =>
    if s.pwr.point < p then
      let s1 := s.modPwr (fun w => { w with dv := none })
      if ph = .holdWait then s1 else setVcore s1 s.pwr.point
    else s
  | none => s

/-- The set point the monitor measures VDD_CORE against, in mV: during a transition the lower of the old and the new (R426). -/
def coreSet (s : State) : Nat :=
  match s.pwr.dv with
  | some (p, _) => min (s.image.setPoint s.pwr.point) (s.image.setPoint p)
  | none => s.pwr.vset

/-- The set point of a rail in mV (R426, Table 20-1). -/
def railSet (s : State) : Rail → Nat
  | .core => coreSet s
  | .sram => s.hw.vsram.toNat
  | .pll => s.hw.vpll.toNat

/-- A sample below the warning threshold, the set point minus 6% (R426). [DEDUCED, log 108] -/
def belowWarn (s : State) (rail : Rail) (mv : Nat) : Bool := decide (mv * 100 < railSet s rail * 94)

/-- A sample below the reset threshold, the set point minus 10% (R426). [DEDUCED, log 108] -/
def belowReset (s : State) (rail : Rail) (mv : Nat) : Bool := decide (mv * 10 < railSet s rail * 9)

/-- A sample above the warning threshold (R428). [DEDUCED, log 108] -/
def aboveWarn (s : State) (rail : Rail) (mv : Nat) : Bool := decide (railSet s rail * 94 < mv * 100)

/-- The place of a rail in the monitor's record. -/
def railIx : Rail → Fin 3
  | .core => 0
  | .sram => 1
  | .pll => 2

/-- The monitor's record of a rail takes the lower of two samples, and VWARN shows whether both lie below its warning threshold (R426, R442). -/
def Pwr.noted (w : Pwr) (q : RailSamples) (low : Bool) : Pwr :=
  { w with
    mv := vmod w.mv (railIx q.rail) (fun _ => some (min q.a q.b))
    vwarn := if low then w.vwarn ||| railBit q.rail else w.vwarn &&& ~~~(railBit q.rail) }

/-- Whether a rail was above its warning threshold when last sampled (R428). A rail that no command has sampled since the reset is, because
the core stays in reset until it is (R429). -/
def State.railUp (s : State) (r : Rail) : Bool := (s.pwr.mv[railIx r]).all (aboveWarn s r)

/-- A warning is declared (R427): SWARN, HOLD, which reaches the ramp governor and ends a raise, vector 0x44 and a telemetry record. -/
def declareWarn (s : State) : State :=
  let s1 := s.modPwr (fun w => { w with istat := w.istat ||| 1, hold := true })
  let s2 := cancelRaise (s1.modTmu (fun t => { t with gov := { t.gov with hold := true } }))
  let s3 := wakeVec s2 0x44
  if s.clockOn then telemRecord s3 0x02 else s3

/-- The reset threshold is crossed on a rail (R429): the abort leaves on the fabric and the sideband, and the reset follows, cold for VDD_SRAM,
else warm; it ends with every rail recovered. In C4 a warm reset is ignored (R430). [DEDUCED, log 108] -/
def supplyReset (rail : Rail) (s : State) : State :=
  let s1 := (if s.pwr.pstate = .c4 then s else origAbort s 0x0C).modPwr (fun w => { w with
    srst := if w.srst = 0xFFFF then w.srst else w.srst + 1
    vwarn := 0
    hold := false
    mv := vrep 3 none })
  let s2 := s1.modTmu (fun t => { t with gov := { t.gov with hold := false } })
  let kind : ResetKind := if rail = .sram then .cold else .warm
  if s2.absorbs kind then s2
  else if rail = .sram then coldReset s2 3 s2.serial
  else if s2.pwr.pstate = .c4 then s2
  else askWarm (wakeC3 s2) 5

/-- Two consecutive samples of a rail (R426, R427, R429): both below the reset threshold, both below the warning threshold, or neither; a dip that
only one of them shows is not seen. In C4 VDD_CORE and VDD_SRAM are off, and only VDD_PLL is compared. [DEDUCED, log 108] -/
def supplySample (q : RailSamples) (s : State) : State :=
  if s.pwr.pstate = .c4 ∧ q.rail ≠ .pll then s
  else if belowReset s q.rail q.a && belowReset s q.rail q.b then supplyReset q.rail s
  else
    let low := belowWarn s q.rail q.a && belowWarn s q.rail q.b
    let s1 := s.modPwr (fun w => w.noted q low)
    if low then declareWarn s1 else s1

/-- SUPPLY_WARNING. [DEDUCED, log 108] -/
def execSupplyWarning (rail : RailSamples) (s : State) : Out := .next (supplySample rail s)

/-- SUPPLY_RECOVERY: 10 µs have passed since the last samples, every rail's above its warning threshold (R428).
[DEDUCED, log 107] [DEDUCED, log 108] -/
def execSupplyRecovery (s : State) : Out :=
  .next (
    if ! s.pwr.hold || ! ([.core, .sram, .pll] : List Rail).all s.railUp then s
    else
      let s1 := s.modPwr (fun w => { w with
        hold := false
        istat := w.istat ||| 2
        brown := if w.brown = 0xFFFF then w.brown else w.brown + 1 })
      let s2 := wakeVec (s1.modTmu (fun t => { t with gov := { t.gov with hold := false } })) 0x44
      match s2.pwr.dv with
      | some (p, .holdWait) => beginDvfs s2 p
      | _ => s2)

/-- SUPPLY_RESET_THRESHOLD. [DEDUCED, log 108] -/
def execSupplyResetThreshold (rail : RailSamples) (s : State) : Out := .next (supplySample rail s)

end Sys2Proof.Machine
end

