-- ==== Sys2Proof/Machine/Ctl.lean ====
section
/-! DEFINITION. Control registers: what MFC reads, what MTC writes, and at which level each may be used (04, R109, R110, Table
4-11; 02, R56 to R58; 03, R60, R63). -/

namespace Sys2Proof.Machine

open Sys2Proof

/-- The level of a save-set register number, and which of SVPC, SVST, SVCA, SVFA and STKLIM it is. -/
def svReg (n : Nat) : Option (Lvl × Nat) :=
  if 0x010 ≤ n ∧ n ≤ 0x014 then some (.ul, n - 0x010)
  else if 0x018 ≤ n ∧ n ≤ 0x01C then some (.sl, n - 0x018)
  else if 0x020 ≤ n ∧ n ≤ 0x024 then some (.ml, n - 0x020)
  else none

/-- The read level and the write level of a control register; the outer none is a number that Table 4-11 does not assign, the
inner none a write level of "none". -/
def ctlLevels (n : Nat) : Option (Lvl × Option Lvl) :=
  match svReg n with
  | some (y, _) => some (y, some y)
  | none =>
    match n with
    | 0x000 => some (.ul, some .sl)
    | 0x001 => some (.sl, some .ml)
    | 0x002 => some (.sl, some .ml)
    | 0x003 => some (.ul, some .ul)
    | 0x030 => some (.ul, some .sl)
    | 0x031 => some (.ul, some .sl)
    | 0x032 => some (.ul, some .ul)
    | 0x033 => some (.ul, some .ul)
    | 0x034 => some (.ul, some .ul)
    | 0x040 => some (.sl, some .sl)
    | 0x041 => some (.sl, some .sl)
    | 0x042 => some (.sl, some .sl)
    | 0x043 => some (.sl, some .sl)
    | 0x044 => some (.sl, some .sl)
    | 0x050 => some (.ul, none)
    | 0x051 => some (.ul, none)
    | 0x060 => some (.ul, some .ul)
    | _ => if 0x070 ≤ n ∧ n ≤ 0x077 then some (.ul, none) else none

/-- A save-set register of strand t. -/
def svRead (t : Strand) (y : Lvl) (i : Nat) : Word :=
  match i with
  | 0 => (t.save y).pc
  | 1 => (t.save y).st
  | 2 => t.svca y
  | 3 => (t.save y).fa
  | _ => t.stkLim y

/-- FCTL as MFC reads it (Table 4-8). -/
def fctlWord (c : Fctl) : Word := w64 (fld c.rm.toNat 5 + c.flags.toNat)

/-- Control register n as strand k reads it: the value in effect (R110). -/
def ctlRead (s : State) (k : StrandId) (n : Nat) : Word :=
  let t := s.str k
  match svReg n with
  | some (y, i) => svRead t y i
  | none =>
    match n with
    | 0x000 => statusWord k t
    | 0x001 => s.core.edtb
    | 0x002 => s.core.gdtb
    | 0x003 => fctlWord t.fctl
    | 0x030 => w64 t.num.tshape.toNat
    | 0x031 => w64 (fld (bit s.core.jl) 8 + s.core.prof.toNat)
    | 0x032 => w64 t.num.xpass.toNat
    | 0x033 => t.num.numcnt
    | 0x034 => t.num.numev
    | 0x040 => t.xl.ptb
    | 0x041 => w64 t.xl.asid.toNat
    | 0x042 => w64 (fld s.ms.vict.toNat 8 + t.xl.idx.toNat)
    | 0x043 => t.xl.ftlo
    | 0x044 => t.xl.fthi
    | 0x050 => s.core.cyc
    | 0x051 => s.core.gtime
    | 0x060 => t.num.sumr
    | _ => if 0x070 ≤ n then s.feat.getD (n - 0x070) 0 else 0

/-- The writable bits of SVCA (Table 3-4); V and DEPTH of SVCA.M follow the machine save stack. -/
def svcaMask : Word := 0xFFFFFFF0FFFF00FF

/-- Write a save-set register; SVST is laid out as STATUS (Table 2-11), and its reserved bits stay 0 (R10). [DEDUCED, log 27] -/
def svWrite (t : Strand) (y : Lvl) (i : Nat) (v : Word) : Strand :=
  match i with
  | 0 => t.modSave y (fun q => { q with pc := v })
  | 1 => t.modSave y (fun q => { q with st := v &&& svstMask })
  | 2 => t.modSave y (fun q => { q with ca := v &&& svcaMask })
  | 3 => t.modSave y (fun q => { q with fa := v })
  | _ =>
    let l := v &&& ~~~(0xF : Word)
    match y with
    | .ul => { t with saves := { t.saves with stkU := l } }
    | .sl => { t with saves := { t.saves with stkS := l } }
    | .ml => { t with saves := { t.saves with stkM := l } }

/-- A value of GDTB as it is stored: COUNT above 1,024 is stored as 1,024 (Table 3-7). -/
def gdtbStored (v : Word) : Word := w64 (bits v.toNat 51 12 * 4096 + min (bits v.toNat 10 0) 1024)

/-- MTC of STATUS at level lv (R58, R59): IE at once; LVL, SAP and SEP at SYNC.C. A code that would raise the level, and the
reserved one, leave LVL unchanged. [DESIGN CHOICE, log 117] -/
def statusWrite (s : State) (k : StrandId) (lv : Lvl) (v : Nat) : State :=
  let c := bits v 9 8
  let y := lvlOf c
  let s1 := s.modStr k (fun t => { t with status := { t.status with ie := tbit v 0 } })
  s1.modRun k (fun r => { r with pend := { r.pend with
    sap := some (tbit v 10)
    sep := some (tbit v 11)
    lvl := if c = 2 ∨ lv.below y then r.pend.lvl else some y } })

/-- MTC of control register n by strand k at level lv; none is the join-lock violation (R24). -/
def ctlWrite (s : State) (k : StrandId) (lv : Lvl) (n : Nat) (v : Word) : Option State :=
  let str := fun (f : Strand → Strand) => some (s.modStr k f)
  let num := fun (f : NumRegs → NumRegs) => str (fun t => { t with num := f t.num })
  let xl := fun (f : XlRegs → XlRegs) => str (fun t => { t with xl := f t.xl })
  let pend := fun (f : Pend → Pend) => some (s.modRun k (fun r => { r with pend := f r.pend }))
  match svReg n with
  | some (y, i) => str (fun t => svWrite t y i v)
  | none =>
    match n with
    | 0x000 => some (statusWrite s k lv v.toNat)
    | 0x001 => pend (fun p => { p with edtb := some (v &&& 0x000FFFFFFFFFE001) })
    | 0x002 => pend (fun p => { p with gdtb := some (gdtbStored v) })
    | 0x003 => str (fun t => { t with fctl := { rm := BitVec.ofNat 3 (bits v.toNat 7 5), flags := v.setWidth 5 } })
    | 0x030 => if v.setWidth 2 = (0 : BitVec 2) then some s else pend (fun p => { p with tshape := some (v.setWidth 2) })
    | 0x031 =>
      let c : BitVec 2 := v.setWidth 2
      if c = 0 then some s
      else if s.core.jl ∧ c ≠ s.core.prof then none
      else pend (fun p => { p with nprof := some c })
    | 0x032 => if v.setWidth 2 = (0 : BitVec 2) then some s else num (fun r => { r with xpass := v.setWidth 2 })
    | 0x033 => num (fun r => { r with numcnt := v })
    | 0x034 => num (fun r => { r with numev := v &&& 0xE0F0010FFFFFFFFF })
    | 0x040 => pend (fun p => { p with ptb := some (v &&& 0x000FFFFFFFFFF001) })
    | 0x041 => pend (fun p => { p with asid := some (v.setWidth 16) })
    | 0x042 => xl (fun r => { r with idx := v.setWidth 8 })
    | 0x043 => xl (fun r => { r with ftlo := v &&& 0x3FFFFFFFFF0000FC })
    | 0x044 => xl (fun r => { r with fthi := v &&& 0xFFFFC03FFFFFFFFF })
    | 0x060 => num (fun r => { r with sumr := v &&& 0xF800FFFFFFFFFFFF, rowf := 0 })
    | _ => some s

/-- Whether a register's own pending tile work must apply before it is read or written (R226, R253). -/
def ctlBusy (s : State) (k : StrandId) (n : Nat) : Bool :=
  ((n == 0x033 || n == 0x034) && countPending s k) || (n == 0x060 && sumPending s k)

def execMfc (rg : RSpec) (creg : BitVec 12) (s : State) : Out :=
  base s (fun k s =>
    let n := creg.toNat
    match ctlLevels n with
    | none => illegal s
    | some (r, _) =>
      if ! xOk rg then illegal s
      else if (s.str k).status.lvl.below r then privileged s
      else if ctlBusy s k n then .wait s
      else .done (s.setX k rg (ctlRead s k n)))

def execMtc (rg : RSpec) (creg : BitVec 12) (s : State) : Out :=
  base s (fun k s =>
    let n := creg.toNat
    let lv := (s.str k).status.lvl
    match ctlLevels n with
    | none => illegal s
    | some (_, none) => if xOk rg then .done s else illegal s
    | some (_, some w) =>
      if ! xOk rg then illegal s
      else if lv.below w then privileged s
      else if ctlBusy s k n then .wait s
      else match ctlWrite s k lv n ((s.str k).x rg) with
        | some s1 => .done s1
        | none => .event (mkEv 0x19 0 0 lv) s)

/-! ### The STRDBG page (R56, R57, Table 2-10) -/

/-- The register that STRDBG.SEL selects of strand t; none when the index is out of range, as which class codes above 0x05 and index 15 of class
0x00 (a global register that no strand has) count. [DESIGN CHOICE, log 144] -/
def dbgRead (s : State) (k : StrandId) (cls idx : Nat) : Option Word :=
  let t := s.str k
  match cls with
  | 0 => if idx < 15 then some (if idx = 0 then 0 else t.regs.g.getD idx 0) else none
  | 1 => t.regs.g15.toList[idx]?
  | 2 => if idx < 96 then ((t.win.ring.toList[idx / 8]?).map (fun q => q.l.getD (idx % 8) 0)) else none
  | 3 => if idx < 96 then ((t.win.ring.toList[idx / 8]?).map (fun q => q.i.getD (idx % 8) 0)) else none
  | 4 => t.regs.f.toList[idx]?
  | 5 => if (ctlLevels idx).isSome then some (ctlRead s k idx) else none
  | _ => none

/-- The sync-required writes p, those of q in front of them: what q writes, p no longer does. -/
def Pend.under (p q : Pend) : Pend :=
  let pick := fun (α : Type) (a b : Option α) => if b.isSome then b else a
  { edtb := pick _ p.edtb q.edtb, gdtb := pick _ p.gdtb q.gdtb, tshape := pick _ p.tshape q.tshape, nprof := pick _ p.nprof q.nprof,
    ptb := pick _ p.ptb q.ptb, asid := pick _ p.asid q.asid, lvl := pick _ p.lvl q.lvl, sap := pick _ p.sap q.sap,
    sep := pick _ p.sep q.sep }

/-- The sync-required writes p without those of the registers that q writes. -/
def Pend.without (p q : Pend) : Pend :=
  let pick := fun (α : Type) (a b : Option α) => if b.isSome then Option.none else a
  { edtb := pick _ p.edtb q.edtb, gdtb := pick _ p.gdtb q.gdtb, tshape := pick _ p.tshape q.tshape, nprof := pick _ p.nprof q.nprof,
    ptb := pick _ p.ptb q.ptb, asid := pick _ p.asid q.asid, lvl := pick _ p.lvl q.lvl, sap := pick _ p.sap q.sap,
    sep := pick _ p.sep q.sep }

/-- A debug write of a control register acts as an MTC at ML. Its sync-required part takes effect at once, or as soon as what it waits for has
ended, in place of a write of the same register that the strand has pending, and the strand's other pending writes stay pending (R57).
[DEDUCED, log 27] -/
def dbgCtl (s : State) (k : StrandId) (n : Nat) (v : Word) : State :=
  match ctlLevels n with
  | some (_, some _) =>
    let own := (s.str k).run.pend
    match ctlWrite (s.modRun k (fun r => { r with pend := Pend.none })) k .ml n v with
    | none => s
    | some s1 =>
      let new := (s1.str k).run.pend
      (settleDbg (s1.modRun k (fun r => { r with pend := own.without new, dbgPend := r.dbgPend.under new })) k).2
  | _ => s

/-- Whether bits [63:32] of a register that STRDBG selects hold a writable field. [DEDUCED, log 27] -/
def dbgHigh (cls idx : Nat) : Bool := cls != 5 || ! [0x000, 0x003, 0x030, 0x031, 0x032, 0x041, 0x042].contains idx

/-- Write the selected register. [DEDUCED, log 27] [DESIGN CHOICE, log 144] -/
def dbgWrite (s : State) (k : StrandId) (cls idx : Nat) (v : Word) : State :=
  match cls with
  | 0 => if idx = 0 then s else s.modStr k (fun t => { t with regs := { t.regs with g := vupd t.regs.g idx (fun _ => v) } })
  | 1 => s.modStr k (fun t => { t with regs := { t.regs with g15 := vupd t.regs.g15 idx (fun _ => v) } })
  | 2 => s.modStr k (fun t => { t with win := { t.win with ring := vupd t.win.ring (idx / 8) (fun q => { q with l := vupd q.l (idx % 8) (fun _ => v) }) } })
  | 3 => s.modStr k (fun t => { t with win := { t.win with ring := vupd t.win.ring (idx / 8) (fun q => { q with i := vupd q.i (idx % 8) (fun _ => v) }) } })
  | 4 => s.modStr k (fun t => { t with regs := { t.regs with f := vupd t.regs.f idx (fun _ => v) } })
  | _ => dbgCtl s k idx v

/-- An access of DLO (hi = false) or DHI: the value read, and the state. An access that names a strand that is not held or an
index out of range reads 0, writes nothing and sets DERR. [DESIGN CHOICE, log 144] -/
def strdbgData (we hi : Bool) (v : Nat) (s : State) : Nat × State :=
  let sel := s.strdbg.sel.toNat
  let k : StrandId := Fin.ofNat 4 (bits sel 31 30)
  let cls := bits sel 29 24
  let idx := bits sel 23 0
  let bad : State := { s with strdbg := { s.strdbg with derr := true } }
  if (s.str k).run.st ≠ .held then (0, bad)
  else match dbgRead s k cls idx with
    | none => (0, bad)
    | some w =>
      let old := w.toNat
      if we then
        let new := if hi then fld (v % 2 ^ 32) 32 + bits old 31 0 else fld (bits old 63 32) 32 + v % 2 ^ 32
        (0, if hi && ! dbgHigh cls idx then s else dbgWrite s k cls idx (w64 new))
      else (if hi then bits old 63 32 else bits old 31 0, s)

/-- Whether the STRDBG page responds to a requester: only in a debug image, to ports A and B and to strands at ML.
[DEDUCED, log 27] -/
def strdbgOpen (s : State) (q : Req) : Bool :=
  s.image.debug && (match q with
    | .portA => true
    | .portB => true
    | .strand k => (s.str k).status.lvl == .ml
    | _ => false)

end Sys2Proof.Machine
end

