-- ==== Sys2Proof/Machine/Float.lean ====
section
/-! DEFINITION. The scalar floating instructions (Table 4-9, R108). -/

namespace Sys2Proof.Machine

open Sys2Proof

/-- rd := a floating result of rs1 and rs2, correctly rounded. -/
def fop2 (op : FpFmt → Nat → Nat → Nat → FR) (fmt : FFmt) (rd rs1 rs2 : RSpec) (rm : BitVec 3) (s : State) : Out :=
  base s (fun k s =>
    let t := s.str k
    let q := fmtOf fmt
    match rmOf t rm with
    | none => illegal s
    | some m =>
      if fOk rd && fOk rs1 && fOk rs2 then
        let r := op q m (t.fpat q rs1) (t.fpat q rs2)
        .done ((s.setF k rd (w64 r.1)).raiseF k r.2)
      else illegal s)

/-- rd := a floating result of rs1, correctly rounded. -/
def fop1 (op : FpFmt → Nat → Nat → FR) (fmt : FFmt) (rd rs1 : RSpec) (rm : BitVec 3) (s : State) : Out :=
  base s (fun k s =>
    let t := s.str k
    let q := fmtOf fmt
    match rmOf t rm with
    | none => illegal s
    | some m =>
      if fOk rd && fOk rs1 then
        let r := op q m (t.fpat q rs1)
        .done ((s.setF k rd (w64 r.1)).raiseF k r.2)
      else illegal s)

/-- rd := a floating result of rs1 and rs2 without rounding: rm shall be 0 (R105). -/
def fopN (op : FpFmt → Nat → Nat → FR) (fmt : FFmt) (rd rs1 rs2 : RSpec) (rm : BitVec 3) (s : State) : Out :=
  base s (fun k s =>
    let t := s.str k
    let q := fmtOf fmt
    if rm == 0 && fOk rd && fOk rs1 && fOk rs2 then
      let r := op q (t.fpat q rs1) (t.fpat q rs2)
      .done ((s.setF k rd (w64 r.1)).raiseF k r.2)
    else illegal s)

/-- Integer rd := a result of two floating operands without rounding. -/
def fcmp (op : FpFmt → Nat → Nat → FR) (fmt : FFmt) (rd rs1 rs2 : RSpec) (rm : BitVec 3) (s : State) : Out :=
  base s (fun k s =>
    let t := s.str k
    let q := fmtOf fmt
    if rm == 0 && xOk rd && fOk rs1 && fOk rs2 then
      let r := op q (t.fpat q rs1) (t.fpat q rs2)
      .done ((s.setX k rd (w64 r.1)).raiseF k r.2)
    else illegal s)

/-- Integer rd := a conversion of a floating operand. -/
def fToX (op : FpFmt → Nat → Nat → FR) (fmt : FFmt) (rd rs1 : RSpec) (rm : BitVec 3) (s : State) : Out :=
  base s (fun k s =>
    let t := s.str k
    let q := fmtOf fmt
    match rmOf t rm with
    | none => illegal s
    | some m =>
      if xOk rd && fOk rs1 then
        let r := op q m (t.fpat q rs1)
        .done ((s.setX k rd (w64 r.1)).raiseF k r.2)
      else illegal s)

/-- Floating rd := a conversion of an integer operand. -/
def xToF (op : FpFmt → Nat → Word → FR) (fmt : FFmt) (rd rs1 : RSpec) (rm : BitVec 3) (s : State) : Out :=
  base s (fun k s =>
    let t := s.str k
    let q := fmtOf fmt
    match rmOf t rm with
    | none => illegal s
    | some m =>
      if fOk rd && xOk rs1 then
        let r := op q m (t.x rs1)
        .done ((s.setF k rd (w64 r.1)).raiseF k r.2)
      else illegal s)

def execFadd (fmt : FFmt) (rd rs1 rs2 : RSpec) (rm : BitVec 3) (s : State) : Out :=
  fop2 (fun q m x y => q.add m (q.dec x) (q.dec y)) fmt rd rs1 rs2 rm s
def execFsub (fmt : FFmt) (rd rs1 rs2 : RSpec) (rm : BitVec 3) (s : State) : Out :=
  fop2 (fun q m x y => q.add m (q.dec x) (q.dec y).neg) fmt rd rs1 rs2 rm s
def execFmul (fmt : FFmt) (rd rs1 rs2 : RSpec) (rm : BitVec 3) (s : State) : Out :=
  fop2 (fun q m x y => q.mul m (q.dec x) (q.dec y)) fmt rd rs1 rs2 rm s
def execFdiv (fmt : FFmt) (rd rs1 rs2 : RSpec) (rm : BitVec 3) (s : State) : Out :=
  fop2 (fun q m x y => q.div m (q.dec x) (q.dec y)) fmt rd rs1 rs2 rm s
def execFsqrt (fmt : FFmt) (rd rs1 : RSpec) (rm : BitVec 3) (s : State) : Out :=
  fop1 (fun q m x => q.sqrt m (q.dec x)) fmt rd rs1 rm s
def execFmin (fmt : FFmt) (rd rs1 rs2 : RSpec) (rm : BitVec 3) (s : State) : Out :=
  fopN (fun q x y => q.minNum false x y) fmt rd rs1 rs2 rm s
def execFmax (fmt : FFmt) (rd rs1 rs2 : RSpec) (rm : BitVec 3) (s : State) : Out :=
  fopN (fun q x y => q.minNum true x y) fmt rd rs1 rs2 rm s
def execFminm (fmt : FFmt) (rd rs1 rs2 : RSpec) (rm : BitVec 3) (s : State) : Out :=
  fopN (fun q x y => q.minM false x y) fmt rd rs1 rs2 rm s
def execFmaxm (fmt : FFmt) (rd rs1 rs2 : RSpec) (rm : BitVec 3) (s : State) : Out :=
  fopN (fun q x y => q.minM true x y) fmt rd rs1 rs2 rm s

/-- The magnitude of x with a sign. -/
def withSign (q : FpFmt) (x : Nat) (s : Bool) : FR := (x % 2 ^ (q.eb + q.mb) + q.sgn s, 0)

/-- The sign bit of a pattern. -/
def signBit (q : FpFmt) (x : Nat) : Bool := tbit x (q.eb + q.mb)

def execFsgnj (fmt : FFmt) (rd rs1 rs2 : RSpec) (rm : BitVec 3) (s : State) : Out :=
  fopN (fun q x y => withSign q x (signBit q y)) fmt rd rs1 rs2 rm s
def execFsgnjn (fmt : FFmt) (rd rs1 rs2 : RSpec) (rm : BitVec 3) (s : State) : Out :=
  fopN (fun q x y => withSign q x (! signBit q y)) fmt rd rs1 rs2 rm s
def execFsgnjx (fmt : FFmt) (rd rs1 rs2 : RSpec) (rm : BitVec 3) (s : State) : Out :=
  fopN (fun q x y => withSign q x (signBit q x != signBit q y)) fmt rd rs1 rs2 rm s
def execFeq (fmt : FFmt) (rd rs1 rs2 : RSpec) (rm : BitVec 3) (s : State) : Out :=
  fcmp (fun q x y => q.cmp false fvEq (q.dec x) (q.dec y)) fmt rd rs1 rs2 rm s
def execFlt (fmt : FFmt) (rd rs1 rs2 : RSpec) (rm : BitVec 3) (s : State) : Out :=
  fcmp (fun q x y => q.cmp true fvLt (q.dec x) (q.dec y)) fmt rd rs1 rs2 rm s
def execFle (fmt : FFmt) (rd rs1 rs2 : RSpec) (rm : BitVec 3) (s : State) : Out :=
  fcmp (fun q x y => q.cmp true (fun a b => fvLt a b || fvEq a b) (q.dec x) (q.dec y)) fmt rd rs1 rs2 rm s
def execFltq (fmt : FFmt) (rd rs1 rs2 : RSpec) (rm : BitVec 3) (s : State) : Out :=
  fcmp (fun q x y => q.cmp false fvLt (q.dec x) (q.dec y)) fmt rd rs1 rs2 rm s
def execFleq (fmt : FFmt) (rd rs1 rs2 : RSpec) (rm : BitVec 3) (s : State) : Out :=
  fcmp (fun q x y => q.cmp false (fun a b => fvLt a b || fvEq a b) (q.dec x) (q.dec y)) fmt rd rs1 rs2 rm s
def execFclass (fmt : FFmt) (rd rs1 : RSpec) (rm : BitVec 3) (s : State) : Out :=
  fcmp (fun q x _ => (q.cls x, 0)) fmt rd rs1 0 rm s
def execFcvtL (fmt : FFmt) (rd rs1 : RSpec) (rm : BitVec 3) (s : State) : Out :=
  fToX (fun q m x => q.toInt m true x) fmt rd rs1 rm s
def execFcvtLu (fmt : FFmt) (rd rs1 : RSpec) (rm : BitVec 3) (s : State) : Out :=
  fToX (fun q m x => q.toInt m false x) fmt rd rs1 rm s
def execFcvtfL (fmt : FFmt) (rd rs1 : RSpec) (rm : BitVec 3) (s : State) : Out :=
  xToF (fun q m x => q.ofInt m x.toInt) fmt rd rs1 rm s
def execFcvtfLu (fmt : FFmt) (rd rs1 : RSpec) (rm : BitVec 3) (s : State) : Out :=
  xToF (fun q m x => q.ofInt m x.toNat) fmt rd rs1 rm s

/-- A conversion to another floating format; the opcode's own format raises 0x01 (Table 4-9). -/
def fcvt (dst : FFmt) (fmt : FFmt) (rd rs1 : RSpec) (rm : BitVec 3) (s : State) : Out :=
  if dst = fmt then base s (fun _ s => illegal s) else fop1 (fun q m x => q.conv (fmtOf dst) m x) fmt rd rs1 rm s

def execFcvtH (fmt : FFmt) (rd rs1 : RSpec) (rm : BitVec 3) (s : State) : Out := fcvt .h fmt rd rs1 rm s
def execFcvtS (fmt : FFmt) (rd rs1 : RSpec) (rm : BitVec 3) (s : State) : Out := fcvt .s fmt rd rs1 rm s
def execFcvtD (fmt : FFmt) (rd rs1 : RSpec) (rm : BitVec 3) (s : State) : Out := fcvt .d fmt rd rs1 rm s
def execFrint (fmt : FFmt) (rd rs1 : RSpec) (rm : BitVec 3) (s : State) : Out :=
  fop1 (fun q m x => q.rint m false x) fmt rd rs1 rm s
def execFrintx (fmt : FFmt) (rd rs1 : RSpec) (rm : BitVec 3) (s : State) : Out :=
  fop1 (fun q m x => q.rint m true x) fmt rd rs1 rm s
def execFrem (fmt : FFmt) (rd rs1 rs2 : RSpec) (rm : BitVec 3) (s : State) : Out :=
  fopN (fun q x y => q.rem (q.dec x) (q.dec y)) fmt rd rs1 rs2 rm s
def execFmvXf (fmt : FFmt) (rd rs1 : RSpec) (rm : BitVec 3) (s : State) : Out :=
  fcmp (fun _ x _ => (x, 0)) fmt rd rs1 0 rm s

def execFmvFx (fmt : FFmt) (rd rs1 : RSpec) (rm : BitVec 3) (s : State) : Out :=
  base s (fun k s =>
    let q := fmtOf fmt
    if rm == 0 && fOk rd && xOk rs1 then .done (s.setF k rd (w64 (((s.str k).x rs1).toNat % 2 ^ q.width))) else illegal s)

/-! ### Fused forms (R108) -/

/-- The format of an FM word's fmt field; 0b11 raises 0x01. -/
def fmFmt (fmt : BitVec 2) : Option FpFmt :=
  match fmt.toNat with
  | 0 => some fmtH
  | 1 => some fmtS
  | 2 => some fmtD
  | _ => none

/-- ±(rs1 × rs2) ± rs3 with one rounding by FCTL.RM; NV of 0 × ∞ + a quiet NaN is a free value. [DEDUCED, log 12] -/
def fused (negP negC : Bool) (fmt : BitVec 2) (rd rs1 rs2 rs3 : RSpec) (s : State) : Out :=
  base s (fun k s =>
    let t := s.str k
    match fmFmt fmt, rmOf t 0b111 with
    | some q, some m =>
      if fOk rd && fOk rs1 && fOk rs2 && fOk rs3 then
        let a := q.dec (t.fpat q rs1)
        let b := q.dec (t.fpat q rs2)
        let c := q.dec (t.fpat q rs3)
        let r := q.fma m (if negP then a.neg else a) b (if negC then c.neg else c)
        if q.fmaOpen a b c then
          let v := s.freeVal
          .done ((v.2.setF k rd (w64 r.1)).raiseF k (if v.1.getLsbD 0 then fNV else r.2))
        else .done ((s.setF k rd (w64 r.1)).raiseF k r.2)
      else illegal s
    | _, _ => illegal s)

def execFmadd (fmt : BitVec 2) (rd rs1 rs2 rs3 : RSpec) (s : State) : Out := fused false false fmt rd rs1 rs2 rs3 s
def execFmsub (fmt : BitVec 2) (rd rs1 rs2 rs3 : RSpec) (s : State) : Out := fused false true fmt rd rs1 rs2 rs3 s
def execFnmadd (fmt : BitVec 2) (rd rs1 rs2 rs3 : RSpec) (s : State) : Out := fused true true fmt rd rs1 rs2 rs3 s
def execFnmsub (fmt : BitVec 2) (rd rs1 rs2 rs3 : RSpec) (s : State) : Out := fused true false fmt rd rs1 rs2 rs3 s

end Sys2Proof.Machine
end

