-- ==== Sys2Proof/Machine/Mmio.lean ====
section
/-! DEFINITION. The register block: which registers answer, what a read returns and does, what a write does, and the commands of
the management ports and of the test access port (19, R444 to R464; 03, R75; 02, R44, R57). -/

namespace Sys2Proof.Machine

open Sys2Proof

/-! ### Which registers answer (R447, R448, R441, R56) -/

/-- Whether the register at offset o of page p answers requester q. [DEDUCED, log 106] [DESIGN CHOICE, log 114] -/
def answers (s : State) (q : Req) (p o : Nat) : Bool :=
  if p = 4 ∧ ! strdbgOpen s q then false
  else if s.pwr.pstate ≠ .c0 then p == 0x13 && (o == 0x044 || o == 0x050 || o == 0x054)
  else if s.pwr.bstate ≠ 2 then p == 0x12 || p == 0x13 || (decide (o < 0x040) && decide (p < 0x17))
  else decide (p < 0x17)

/-! ### Semaphores (R452, Table 19-4) -/

/-- The word that a read of a semaphore returns. -/
def semWord (got : Bool) (q : Req) : Nat := fld (bit got) 31 + reqCode q

/-- A read of SEM(n) by q. -/
def semRead (q : Req) (n : Nat) (s : State) : Nat × State :=
  match s.mgmt.sem.getD n none with
  | none => (semWord true q, s.modMgmt (fun m => { m with sem := vupd m.sem n (fun _ => some q) }))
  | some h => (semWord (h == q) h, s)

/-- Whether a requester is a management port. -/
def isPort (q : Req) : Bool := q == .portA || q == .portB

/-- A write of v to SEM(n) by q. -/
def semWrite (q : Req) (n v : Nat) (s : State) : State :=
  if (s.mgmt.sem.getD n none == some q && tbit v 0) || (isPort q && tbit v 31) then
    s.modMgmt (fun m => { m with sem := vupd m.sem n (fun _ => none) })
  else s

/-! ### Doorbells, time latches, trace (R455, R456, R460, R461) -/

/-- MGMT.DBIN is written. -/
def ringIn (v : Nat) (s : State) : State :=
  wakeVec (s.modMgmt (fun m => { m with
    dbin := true
    dbval := w32 v
    dbcnt := if m.dbcnt = 0xFF then 0xFF else m.dbcnt + 1 })) 0x47

/-- MGMT.DBOUT is written. -/
def ringOut (v : Nat) (s : State) : State := s.modMgmt (fun m => { m with dbout := w32 v, outPend := true })

/-- TIME.CYCLO is read; the near port has no latch. [DESIGN CHOICE, log 118] -/
def readCyclo (q : Req) (s : State) : Nat × State :=
  (bits s.core.cyc.toNat 31 0,
    if q = .near then s else s.modMgmt (fun m => { m with cycLatch := vupd m.cycLatch (reqCode q - 1) (fun _ => s.core.cyc) }))

/-- TIME.GTLO is read. [DESIGN CHOICE, log 118] -/
def readGtlo (q : Req) (s : State) : Nat × State :=
  (bits s.core.gtime.toNat 31 0,
    if q = .near then s else s.modMgmt (fun m => { m with gtLatch := vupd m.gtLatch (reqCode q - 1) (fun _ => s.core.gtime) }))

/-- TRACE.MARK is written. KINDS bit 7 alone decides; STRAND is 0 and LVL is a free value for a requester that is no strand.
[DESIGN CHOICE, log 24] -/
def addMarker (q : Req) (v : Nat) (s : State) : State :=
  if s.trace.kinds.getLsbD 3 then
    match q with
    | .strand k => s.tracePut 5 (some k) (s.str k).status.lvl.code (reqCode q) (w64 v)
    | q => let r := s.freeVal; r.2.tracePut 5 none (r.1.toNat % 4) (reqCode q) (w64 v)
  else s

/-- TRACE.POP is written with 1. -/
def popTrace (s : State) : State := { s with trace := { s.trace with fifo := s.trace.fifo.drop 1 } }

/-! ### A read (R444) -/

/-- A page register without effect on reading. -/
def pageReg (s : State) (q : Req) (p o : Nat) : Nat :=
  match p with
  | 0x00 => mgmtReg s q o
  | 0x01 => identReg s o
  | 0x02 => if o = 0x044 then timeHi q s.mgmt.cycLatch s.core.cyc else if o = 0x04C then timeHi q s.mgmt.gtLatch s.core.gtime else 0
  | 0x03 => schedReg s o
  | 0x04 => if o = 0x040 then s.strdbg.sel.toNat else if o = 0x04C then bit s.strdbg.derr else 0
  | 0x05 => intuReg s o
  | 0x06 => tbankReg s o
  | 0x07 => tmuReg s o
  | 0x0D => cacheReg s o
  | 0x10 => farReg s o
  | 0x11 => queueReg s o
  | 0x12 => relReg s o
  | 0x13 => pwrReg s o
  | 0x14 => telemReg s o
  | 0x15 => traceReg s o
  | 0x16 => cfgReg s o
  | _ => 0

/-- An aligned 4-byte read at byte offset off of the block by q: the value and the state. [DESIGN CHOICE, log 114] -/
def mmioRead (s : State) (q : Req) (off : Nat) : Nat × State :=
  let p := bits off 17 12
  let o := bits off 11 0
  if ! answers s q p o || off % 4 ≠ 0 then (0, s)
  else match headerReg s p o with
    | some v => (v, s)
    | none =>
      if p = 0 ∧ 0x100 ≤ o ∧ o < 0x180 then semRead q ((o - 0x100) / 4) s
      else if p = 2 ∧ o = 0x040 then readCyclo q s
      else if p = 2 ∧ o = 0x048 then readGtlo q s
      else if p = 4 ∧ (o = 0x044 ∨ o = 0x048) then strdbgData false (o == 0x048) 0 s
      else (pageReg s q p o, s)

/-! ### A write (R8, R444): one function per page -/

/-- A W1C write. -/
def w1c {w : Nat} (old : BitVec w) (v : Nat) : BitVec w := old &&& ~~~(BitVec.ofNat w v)

/-- MGMT. -/
def writeMgmt (q : Req) (o v : Nat) (s : State) : State :=
  match o with
  | 0x014 => if tbit v 0 then s.modMgmt (fun m => { m with dbin := false, dbcnt := 0 }) else s
  | 0x018 => wakeVec (s.modMgmt (fun m => { m with dbinIen := tbit v 0 })) 0x47
  | 0x044 => ringIn v s
  | 0x050 => ringOut v s
  | 0x054 => if tbit v 0 then s.modMgmt (fun m => { m with outPend := false }) else s
  | _ =>
    if 0x080 ≤ o ∧ o < 0x0A0 then s.modMgmt (fun m => { m with mbox := vupd m.mbox ((o - 0x080) / 4) (fun _ => w32 v) })
    else if 0x100 ≤ o ∧ o < 0x180 then semWrite q ((o - 0x100) / 4) v s
    else s

/-- INTU.SWSET. -/
def writeSwset (v : Nat) (s : State) : State := if 0x80 ≤ v % 256 then setPend s (v % 256) else s

/-- A word of INTU.TCMPn: the timer is rearmed. [DESIGN CHOICE, log 26] -/
def writeTcmp (n : StrandId) (hi : Bool) (v : Nat) (s : State) : State :=
  s.modIntu (fun i => { i with
    tcmp := vmod i.tcmp n (fun c => if hi then w64 (fld (v % 2 ^ 32) 32 + bits c.toNat 31 0) else w64 (fld (bits c.toNat 63 32) 32 + v % 2 ^ 32))
    armed := vmod i.armed n (fun _ => true) })

/-- INTU. -/
def writeIntu (o v : Nat) (s : State) : State :=
  if o = 0x040 then writeSwset v s
  else if 0x080 ≤ o ∧ o < 0x0A0 then writeTcmp (Fin.ofNat 4 ((o - 0x080) / 8)) (decide (o % 8 = 4)) v s
  else if 0x500 ≤ o ∧ o < 0x800 then
    let x := (o - 0x400) / 4
    wakeVec (s.modIntu (fun i => { i with vcfg := vupd i.vcfg (x - 0x40) (fun c => { c with
      en := tbit v 31
      strand := Fin.ofNat 4 (bits v 29 28)
      prio := BitVec.ofNat 4 (bits v 27 24) }) })) x
  else s

/-- Whether a STEP or FLOOR is in its range from lo to 64 and a multiple of 4 (R180). [DEDUCED, log 52]
[DESIGN CHOICE, log 116] -/
def rampOk (lo x : Nat) : Bool := decide (lo ≤ x) && decide (x ≤ 64) && x % 4 == 0

/-- TMU. [DEDUCED, log 52] -/
def writeTmu (o v : Nat) (s : State) : State :=
  if o = 0x040 ∧ ! s.tiles.tmu.gov.lock then
    s.modTmu (fun t => { t with gov := { t.gov with
      lock := tbit v 31
      step := if rampOk 4 (bits v 14 8) then bits v 14 8 else t.gov.step
      floor := if rampOk 8 (bits v 6 0) then bits v 6 0 else t.gov.floor } })
  else s

/-- A word of a page number of 4 KiB pages. -/
def pageLoSet (b : BitVec 40) (v : Nat) : BitVec 40 := BitVec.ofNat 40 (fld (b.toNat / 2 ^ 20) 20 + bits v 31 12)
def pageHiSet (b : BitVec 40) (v : Nat) : BitVec 40 := BitVec.ofNat 40 (fld (bits v 19 0) 20 + b.toNat % 2 ^ 20)

/-- A word of a region. -/
def writeRegion (r : Region) (o v : Nat) : Region :=
  match o with
  | 0x0 => { r with base := pageLoSet r.base v, typ := BitVec.ofNat 2 v }
  | 0x4 => { r with base := pageHiSet r.base v }
  | 0x8 => { r with lim := pageLoSet r.lim v }
  | _ => { r with lim := pageHiSet r.lim v }

/-- CACHE.POL; a PFDEPTH or STHR outside its range leaves its field unchanged. [DESIGN CHOICE, log 116] -/
def writePol (v : Nat) (s : State) : State :=
  s.modPage (fun g => { g with
    sthr := if 2 ≤ bits v 21 16 then BitVec.ofNat 6 (bits v 21 16) else g.sthr
    pfdepth := if 1 ≤ bits v 11 8 ∧ bits v 11 8 ≤ 8 then BitVec.ofNat 4 (bits v 11 8) else g.pfdepth
    ssen := tbit v 1
    pfen := tbit v 0 })

/-- CACHE. -/
def writeCache (o v : Nat) (s : State) : State :=
  match o with
  | 0x00C => s.modPage (fun g => { g with rlock := g.rlock || tbit v 0 })
  | 0x040 => writePol v s
  | 0x044 => writeL2lock v s
  | 0x048 => writeL2pwr v s
  | 0x054 => cacheCmd (BitVec.ofNat 2 v) s
  | _ =>
    if 0x100 ≤ o ∧ o < 0x200 ∧ ! s.ms.page.rlock then
      s.modPage (fun g => { g with regions := vupd g.regions ((o - 0x100) / 0x10) (fun r => writeRegion r (o % 0x10) v) })
    else s

/-- FAR.CTL. -/
def writeFarCtl (v : Nat) (s : State) : State :=
  s.modFarRegs (fun r => { r with
    lock := r.lock || tbit v 31
    tfollow := tbit v 8
    ufred := tbit v 7
    eplog2 := BitVec.ofNat 3 (min (bits v 6 4) 6)
    en := tbit v 0 })

/-- FAR. [DESIGN CHOICE, log 90] -/
def writeFar (q : Req) (o v : Nat) (s : State) : State :=
  let reg := fun (f : FarRegs → FarRegs) => s.modFarRegs f
  let rwl := fun (f : FarRegs → FarRegs) => if s.far.regs.lock then s else s.modFarRegs f
  match o with
  | 0x00C => writeFarCtl v s
  | 0x014 => reg (fun r => { r with istat := w1c r.istat v })
  | 0x018 => reg (fun r => { r with ien := BitVec.ofNat 2 v })
  | 0x040 => rwl (fun r => { r with node := BitVec.ofNat 14 v })
  | 0x048 => reg (fun r => { r with auth := tbit v 31, aep := BitVec.ofNat 6 (bits v 21 16), anode := BitVec.ofNat 14 v })
  | 0x04C => reg (fun r => { r with floor := BitVec.ofNat 8 v })
  | 0x050 => reg (fun r => { r with jepoch := w32 v })
  | 0x054 => if tbit v 0 then joinReq s q else s
  | 0x060 => reg (fun r => { r with rvmask := BitVec.ofNat 8 (bits v 31 24), jrprof := BitVec.ofNat 2 (bits v 9 8), jrfloor := BitVec.ofNat 8 v })
  | 0x064 => reg (fun r => { r with jrefep := w32 v })
  | 0x068 => reg (fun r => { r with jmap := pageLoSet r.jmap v })
  | 0x06C => reg (fun r => { r with jmap := pageHiSet r.jmap v })
  | 0x070 => rwl (fun r => { r with scb := pageLoSet r.scb (v - v % 2 ^ 13) })
  | 0x074 => rwl (fun r => { r with scb := pageHiSet r.scb v })
  | 0x078 => rwl (fun r => { r with expb := pageLoSet r.expb v })
  | 0x07C => rwl (fun r => { r with expb := pageHiSet r.expb v })
  | 0x080 => rwl (fun r => { r with expl := pageLoSet r.expl v })
  | 0x084 => rwl (fun r => { r with expl := pageHiSet r.expl v })
  | 0x088 => reg (fun r => { r with rtry := BitVec.ofNat 8 (bits v 31 24), rtime := if 10 ≤ bits v 23 0 then BitVec.ofNat 24 v else r.rtime })
  | 0x08C => reg (fun r => { r with wto := if 100 ≤ v % 2 ^ 32 then w32 v else r.wto })
  | _ => s

/-- QUEUE (R457). [DESIGN CHOICE, log 98] -/
def writeQueue (o v : Nat) (s : State) : State :=
  let u := s.queues
  let open_ : Bool := ! u.lock && u.hot.isEmpty
  match o with
  | 0x00C => { s with queues := { u with lock := u.lock || tbit v 31 } }
  | 0x040 => if open_ then { s with queues := { u with qtb := pageLoSet u.qtb v } } else s
  | 0x044 => if open_ then { s with queues := { u with qtb := pageHiSet u.qtb v } } else s
  | _ => s

/-- REL.ECLR. -/
def writeEclr (v : Nat) (s : State) : State :=
  let s1 := if tbit v 0 then s.modRel (fun r => { r with crec := vrep 16 (vrep 8 0), cecount := 0 }) else s
  if tbit v 1 then s1.modRel (fun r => { r with frec := vrep 4 (vrep 8 0), abst := 0, abt := 0, fovf := 0 }) else s1

/-- REL. -/
def writeRel (o v : Nat) (s : State) : State :=
  let reg := fun (f : Rel → Rel) => s.modRel f
  match o with
  | 0x00C => reg (fun r => { r with abfwd := tbit v 1, ffen := tbit v 0 })
  | 0x014 => reg (fun r => { r with ceth := r.ceth && ! tbit v 0 })
  | 0x018 => wakeVec (reg (fun r => { r with cethIen := tbit v 0 })) 0x46
  | 0x040 => reg (fun r => { r with cethr := BitVec.ofNat 16 (bits v 31 16) })
  | 0x054 => writeEclr v s
  | 0x05C => if tbit v 0 then origAbort s 0x0C else s
  | 0x080 => reg (fun r => { r with ckga := w64 (fld (bits r.ckga.toNat 61 32) 32 + fld (bits v 31 6) 6) })
  | 0x084 => reg (fun r => { r with ckga := w64 (fld (bits v 29 0) 32 + bits r.ckga.toNat 31 0) })
  | 0x088 => reg (fun r => { r with ckoff := BitVec.ofNat 10 (bits v 21 12) })
  | 0x08C => reg (fun r => { r with cklen0 := BitVec.ofNat 11 (bits v 22 12) })
  | 0x090 => if tbit v 0 then startCkpt (BitVec.ofNat 2 (bits v 2 1)) s else s
  | _ => s

/-- PWR.CREQ: any requester asks for C3 or C4; a wake is a management-port write (R422, R423). [DEDUCED, log 106] -/
def writeCreq (q : Req) (v : Nat) (s : State) : State :=
  match v % 8 with
  | 3 => requestC 3 s
  | 4 => requestC 4 s
  | 0 => if isPort q then wakeC3 s else s
  | _ => s

/-- PWR. -/
def writePwr (q : Req) (o v : Nat) (s : State) : State :=
  let reg := fun (f : Pwr → Pwr) => s.modPwr f
  match o with
  | 0x00C => reg (fun w => { w with c2idle := BitVec.ofNat 8 (max 1 (bits v 15 8)), c2en := tbit v 0 })
  | 0x014 => reg (fun w => { w with istat := w1c w.istat v })
  | 0x018 => wakeVec (reg (fun w => { w with ien := BitVec.ofNat 2 v })) 0x44
  | 0x040 => writeDvfs (BitVec.ofNat 2 v) s
  | 0x044 => writeCreq q v s
  | 0x04C => reg (fun w => { w with wkTimers := tbit v 9, wkLines := tbit v 8, wkStrands := BitVec.ofNat 4 v })
  | 0x058 => writeRstreq (v % 4) s
  | 0x060 =>
    let s1 := reg (fun w => { w with inth := BitVec.ofNat 8 v })
    if tbit v 31 then defectWriteBack s1 else s1
  | _ => s

/-- TELEM. -/
def writeTelem (o v : Nat) (s : State) : State :=
  let t := s.telem
  match o with
  | 0x00C =>
    let s1 : State := { s with telem := { t with en := tbit v 0 } }
    if t.en then s1 else telemSkip s1
  | 0x014 => { s with telem := { t with istat := w1c t.istat v } }
  | 0x018 => wakeVec { s with telem := { t with ien := BitVec.ofNat 2 v } } 0x45
  | 0x040 => { s with telem := { t with qnum := BitVec.ofNat 20 v } }
  | _ => s

/-- TRACE. -/
def writeTrace (q : Req) (o v : Nat) (s : State) : State :=
  match o with
  | 0x00C => { s with trace := { s.trace with en := tbit v 0, kinds := BitVec.ofNat 4 (bits v 7 4), strands := BitVec.ofNat 4 (bits v 11 8) } }
  | 0x040 => addMarker q v s
  | 0x054 => if tbit v 0 then popTrace s else s
  | _ => s

/-- STRDBG. -/
def writeStrdbg (o v : Nat) (s : State) : State :=
  match o with
  | 0x040 => { s with strdbg := { s.strdbg with sel := w32 v } }
  | 0x044 => (strdbgData true false v s).2
  | 0x048 => (strdbgData true true v s).2
  | 0x04C => { s with strdbg := { s.strdbg with derr := s.strdbg.derr && ! tbit v 0 } }
  | _ => s

/-- A write to a page register. -/
def writePage (q : Req) (p o v : Nat) (s : State) : State :=
  match p with
  | 0x00 => writeMgmt q o v s
  | 0x03 => if o = 0x040 then writeHold (BitVec.ofNat 4 v) s else s
  | 0x04 => writeStrdbg o v s
  | 0x05 => writeIntu o v s
  | 0x07 => writeTmu o v s
  | 0x0D => writeCache o v s
  | 0x10 => writeFar q o v s
  | 0x11 => writeQueue o v s
  | 0x12 => writeRel o v s
  | 0x13 => writePwr q o v s
  | 0x14 => writeTelem o v s
  | 0x15 => writeTrace q o v s
  | _ => s

/-- An aligned 4-byte write at byte offset off of the block by q. -/
def mmioWrite (s : State) (q : Req) (off v : Nat) : State :=
  let p := bits off 17 12
  let o := bits off 11 0
  if ! answers s q p o || off % 4 ≠ 0 then s else writePage q p o v s

/-- Give what a read returned to its requester: a management port's data, the test access port's data register, a near-port agent's read data
(R466); a strand's own loads deliver it themselves. [DESIGN CHOICE, log 114] -/
def giveData (q : Req) (r : Nat × State) : State :=
  match q with
  | .portA => r.2.modMgmt (fun m => { m with rdata := w32 r.1 })
  | .portB => r.2.modMgmt (fun m => { m with rdata := w32 r.1 })
  | .tap => { r.2 with tap := { r.2.tap with rdata := w32 r.1 } }
  | .near => r.2.emit (.regData (w32 r.1))
  | .strand _ => r.2

/-! ### Accesses (R445, R450, R463) -/

/-- Port A or B is the one served last. -/
def noteServed (q : Req) (s : State) : State :=
  match q with
  | .portA => s.modMgmt (fun m => { m with lastB := false })
  | .portB => s.modMgmt (fun m => { m with lastB := true })
  | _ => s

/-- Access a is performed; the test access port's leaves REGACC done. -/
def perform (s : State) (a : RegAcc) : State :=
  let s1 := noteServed a.req (if a.we then mmioWrite s a.req a.off a.v else giveData a.req (mmioRead s a.req a.off))
  if a.req = .tap then { s1 with tap := { s1.tap with dataDone := true } } else s1

/-- Whether an access waits: a warm, job or debug reset is in progress (R450), or others wait already.
[DESIGN CHOICE, log 145] -/
def State.accWaits (s : State) : Bool :=
  ! s.mgmt.wait.isEmpty || (match s.pwr.rst with | some .cold => false | some _ => true | none => false)

/-- An access of the register block that a command brings. The test access port's is performed only while the debug-enable flag is 1 (R463);
one that meets a reset in progress waits (R450); a strand's own never does. [DESIGN CHOICE, log 145] -/
def access (s : State) (a : RegAcc) : State :=
  if a.req = .tap ∧ ! s.image.debug then { s with tap := { s.tap with denied := true, rdata := 0, dataDone := true } }
  else
    match a.req with
    | .strand _ => perform s a
    | q =>
      let s1 : State := if q = .tap then { s with tap := { s.tap with denied := false, dataDone := false } } else s
      if s.accWaits then s1.modMgmt (fun m => { m with wait := m.wait ++ [a] }) else perform s1 a

/-- The requesters in the order in which waiting accesses are performed (R445). -/
def Mgmt.order (m : Mgmt) : List Req := (if m.lastB then [.portA, .portB] else [.portB, .portA]) ++ [.tap, .near]

/-- The waiting access to perform next (R445). -/
def Mgmt.next (m : Mgmt) : Option RegAcc := m.order.findSome? (fun q => m.wait.find? (fun a => a.req == q))

/-- One waiting access is performed in each register clock, which is eight core clocks, once the reset has ended (R445, R450).
[DESIGN CHOICE, log 145] -/
def serveWait (s : State) : State :=
  if s.pwr.rst.isSome || (s.clockOn && s.core.cyc.toNat % 8 != 0) then s
  else match s.mgmt.next with
    | none => s
    | some a => perform (s.modMgmt (fun m => { m with wait := m.wait.erase a })) a

/-! ### Commands of the register block -/

def execRegisterWrite (req : Req) (off : BitVec 18) (v : BitVec 32) (s : State) : Out :=
  .next (access s { req := req, we := true, off := off.toNat, v := v.toNat })

/-- MGMT_PORT_ACCESS: offsets carry bits [17:2] (Table 19-3). -/
def execMgmtPortAccess (port we : Bool) (off : BitVec 18) (v : BitVec 32) (s : State) : Out :=
  .next (access s { req := if port then .portB else .portA, we := we, off := off.toNat - off.toNat % 4, v := v.toNat })

def execSemRead (req : Req) (n : BitVec 5) (s : State) : Out :=
  .next (access s { req := req, we := false, off := 0x100 + 4 * n.toNat, v := 0 })
def execSemWrite (req : Req) (n : BitVec 5) (v : BitVec 32) (s : State) : Out :=
  .next (access s { req := req, we := true, off := 0x100 + 4 * n.toNat, v := v.toNat })
def execDbin (v : BitVec 32) (s : State) : Out := .next (if s.clockOn then ringIn v.toNat s else s)
def execDbout (v : BitVec 32) (s : State) : Out := .next (if s.clockOn then ringOut v.toNat s else s)
def execCycloRead (req : Req) (s : State) : Out := .next (access s { req := req, we := false, off := 0x2040, v := 0 })
def execGtloRead (req : Req) (s : State) : Out := .next (access s { req := req, we := false, off := 0x2048, v := 0 })
def execMark (req : Req) (v : BitVec 32) (s : State) : Out := .next (access s { req := req, we := true, off := 0x15040, v := v.toNat })
def execPop (s : State) : Out := .next (if s.clockOn then popTrace s else s)
def execSwset (vec : BitVec 8) (s : State) : Out := .next (if s.clockOn then writeSwset vec.toNat s else s)
def execTcmpWrite (n : StrandId) (hi : Bool) (v : BitVec 32) (s : State) : Out :=
  .next (if s.clockOn then writeTcmp n hi v.toNat s else s)
def execHoldWrite (v : BitVec 4) (s : State) : Out := .next (if s.clockOn then writeHold v s else s)

/-- STRDBG_ACCESS: DLO at 0x4044, DHI at 0x4048. -/
def execStrdbgAccess (req : Req) (we hi : Bool) (v : BitVec 32) (s : State) : Out :=
  .next (access s { req := req, we := we, off := if hi then 0x4048 else 0x4044, v := v.toNat })

/-! ### Die lines and timers (R75, R423, R424) -/

/-- DIE_INTERRUPT_LINE: the line takes a level; its rise may wake the core from C3, or bring it out of C4 by a cold reset. -/
def execDieInterruptLine (n : BitVec 5) (level : Bool) (s : State) : Out :=
  let rise : Bool := level && ! s.intu.lines.getLsbD n.toNat
  let m : BitVec 32 := 1 <<< n.toNat
  let s1 := s.modIntu (fun i => { i with lines := if level then i.lines ||| m else i.lines &&& ~~~m })
  .next (
    if rise && s.pwr.wkLines && s.pwr.pstate == .c4 then coldReset s1 7 s1.serial
    else
      let s2 := if rise && s.pwr.wkLines && (s.vcfg (0x60 + n.toNat)).en then wakeC3 s1 else s1
      wakeVec s2 (0x60 + n.toNat))

/-- STRAND_TIMER: the timer signals once when GTIME has reached a nonzero compare value. [DESIGN CHOICE, log 26] -/
def execStrandTimer (n : StrandId) (s : State) : Out :=
  let c := s.intu.tcmp[n]
  .next (
    if s.intu.armed[n] && c != 0 && decide (c ≤ s.core.gtime) && s.pwr.pstate != .c4 then
      let s1 := s.modIntu (fun i => { i with armed := vmod i.armed n (fun _ => false) })
      setPend (if s.pwr.wkTimers then wakeC3 s1 else s1) (0x40 + n.val)
    else s)

/-! ### The test access port (R462, R463, Table 19-12) -/

/-- A scan of a data register: what Capture-DR loads, and the controller ends in Update-DR. -/
def scanDr (s : State) (n : Nat) : State := { s with tap := { s.tap with st := .updateDr, dr := BitVec.ofNat 51 n } }

/-- IDCODE. [DESIGN CHOICE, log 115] -/
def execIdcode (s : State) : Out :=
  .next (if s.tap.ir = 0x01 then scanDr s (fld (s.hw.stepping.toNat % 16) 28 + fld 0xE3 12 + fld s.hw.tapMfr.toNat 1 + 1) else s)

/-- TSTAT. [DESIGN CHOICE, log 115] -/
def execTstat (s : State) : Out :=
  .next (if s.tap.ir = 0x12 then scanDr s (fld (bit s.image.debug) 7 + fld (relStat s) 4 + s.pwr.bstate.toNat) else s)

/-- BYPASS: the register captures 0 and then holds the bit shifted in (IEEE 1149.1). [DESIGN CHOICE, log 115] [PRESUMED, log 57] -/
def execBypass (b : Bool) (s : State) : Out :=
  .next (if s.tap.ir = 0xFF then { scanDr s 0 with tap := { (scanDr s 0).tap with bypass := b } } else s)

/-- DBGRST; its one-bit register captures 0. [DESIGN CHOICE, log 115] -/
def execDbgrst (b : Bool) (s : State) : Out :=
  .next (if s.tap.ir = 0x11 then (if b then runReset .debug (scanDr s 0) else scanDr s 0) else s)

/-- What Capture-DR of REGACC loads. -/
def regaccCapture (t : Tap) : BitVec 51 := BitVec.ofNat 51 (fld t.rdata.toNat 2 + fld (bit t.dataDone) 1 + bit t.denied)

/-- REGACC: the scan shifts out what Capture-DR loaded, and Update-DR performs the access, in a debug image only; while the access before it has
not been performed, Update-DR is ignored (R463). [DESIGN CHOICE, log 115] -/
def execRegacc (dr : BitVec 51) (s : State) : Out :=
  let d := dr.toNat
  .next (
    if s.tap.ir ≠ 0x10 then s
    else if ! s.tap.dataDone then scanDr s (regaccCapture s.tap).toNat
    else access (scanDr s (regaccCapture s.tap).toNat) { req := .tap, we := tbit d 50, off := fld (bits d 49 34) 2, v := bits d 33 2 })

/-- TRST_N: Test-Logic-Reset, in which IDCODE is the instruction (IEEE 1149.1). [PRESUMED, log 57] -/
def execTrstN (s : State) : Out := .next { s with tap := { s.tap with st := .testLogicReset, ir := 0x01 } }

/-- UPDATE_IR: the scan shifts out 0b0000_0001, which Capture-IR loads; an undefined code selects BYPASS (R462).
[PRESUMED, log 57] -/
def execUpdateIr (code : BitVec 8) (s : State) : Out :=
  .next { s with tap := { s.tap with
    st := .updateIr
    irOut := 0x01
    ir := if code = 0x01 ∨ code = 0x10 ∨ code = 0x11 ∨ code = 0x12 then code else 0xFF } }

end Sys2Proof.Machine
end

