-- ==== Sys2Proof/Machine/Mem.lean ====
section
/-! DEFINITION. Scalar loads, stores and atomics (04, R98 to R102; 12, R283 to R287; 13, R305, R306; 14, R338, R339; 15, R359, R360;
19, R444). -/

namespace Sys2Proof.Machine

open Sys2Proof

/-! ### What is still open (R103 to R105, R317) -/

/-- Whether a near or scratchpad access of strand k has not been performed toward every agent: a store in a miss register, a
near-port write or write-back that awaits its acknowledgement, a CPRE, a tile operation that moves data or uses the scratchpad.
[DESIGN CHOICE, log 29] -/
def nearOpen (s : State) (k : StrandId) : Bool :=
  storesWait s k || s.ms.maint.any (fun m => m.k == some k)
    || s.tiles.inflight.any (fun o => o.ctx.k == k && (o.unit == .move || o.spRd || o.spWr))

/-- Whether a far access of strand k awaits its response. [DESIGN CHOICE, log 29] -/
def farOpen (s : State) (k : StrandId) : Bool := s.far.reqs.any (fun r => r.owner.strand == some k && r.done.isNone)

/-! ### Loads (R98, R99) -/

/-- The n bytes at ea as a load of strand k. -/
def loadData (s : State) (k : StrandId) (ea : Word) (n : Nat) : Got :=
  if ! ea.getLsbD 63 && winPart ea n then .error (.event (mkEv 0x0D ea 0 .ul) s)
  else if devOpen s k then .error (.wait s)
  else if ea.getLsbD 63 then farLoad s k ea n
  else if isWin ea then
    let o := ea.toNat - spw
    if s.spadSize < o + n then .error (.event (mkEv 0x0D ea 0 .ul) s)
    else if moveHits s k true false o n then .error (.wait s)
    else
      let m := spMeet s k o n
      if m.1 then .ok (frameLoad m.2 k ea.toNat (m.2.spad.getN o n)) else .error (.wait m.2)
  else
    match xlateSegs (s.xctx k) .load (segs ea.toNat n) [] s with
    | .error r => .error r
    | .ok (ps, s1) =>
      match placeOf s1 ea n ps with
      | .error r => .error r
      | .ok (.block off) =>
        if nearBefore s1 k then .error (.wait s1)
        else let v := mmioRead s1 (.strand k) off; .ok (toLE n v.1, v.2)
      | .ok .dev => portLoad s1 k ea n (ps.map (fun p => (p.pa, p.n))) true false
      | .ok .unc => if segsHeld s1 k false ps then .error (.wait s1) else (portLoad s1 k ea n (ps.map (fun p => (p.pa, p.n))) false false).map (fun r => frameLoad r.2 k ea.toNat r.1)
      | .ok .mem =>
        if segsHeld s1 k false ps then .error (.wait s1) else
        match lookAll k (segWords ps) s1 with
        | .error r => .error r
        | .ok s2 => .ok (frameLoad s2 k ea.toNat (segBytes s2 ps))

/-- A load into an integer register: sg says that it sign-extends. -/
def loadX (n : Nat) (sg : Bool) (rd rs1 : RSpec) (imm : BitVec 14) (s : State) : Out :=
  base s (fun k s =>
    if ! (xOk rd && xOk rs1) then illegal s
    else match loadData s k ((s.str k).x rs1 + sx imm) n with
      | .error r => r
      | .ok (b, s1) => .done (s1.setX k rd (if sg then w64 (wrapInt 64 (sInt (8 * n) (leNat b))) else w64 (leNat b))))

/-- A load into a floating register: 0 above the value. -/
def loadF (n : Nat) (rd rs1 : RSpec) (imm : BitVec 14) (s : State) : Out :=
  base s (fun k s =>
    if ! (fOk rd && xOk rs1) then illegal s
    else match loadData s k ((s.str k).x rs1 + sx imm) n with
      | .error r => r
      | .ok (b, s1) => .done (s1.setF k rd (w64 (leNat b))))

def execLb (rd rs1 : RSpec) (imm : BitVec 14) (s : State) : Out := loadX 1 true rd rs1 imm s
def execLbu (rd rs1 : RSpec) (imm : BitVec 14) (s : State) : Out := loadX 1 false rd rs1 imm s
def execLh (rd rs1 : RSpec) (imm : BitVec 14) (s : State) : Out := loadX 2 true rd rs1 imm s
def execLhu (rd rs1 : RSpec) (imm : BitVec 14) (s : State) : Out := loadX 2 false rd rs1 imm s
def execLw (rd rs1 : RSpec) (imm : BitVec 14) (s : State) : Out := loadX 4 true rd rs1 imm s
def execLwu (rd rs1 : RSpec) (imm : BitVec 14) (s : State) : Out := loadX 4 false rd rs1 imm s
def execLd (rd rs1 : RSpec) (imm : BitVec 14) (s : State) : Out := loadX 8 false rd rs1 imm s
def execFlh (rd rs1 : RSpec) (imm : BitVec 14) (s : State) : Out := loadF 2 rd rs1 imm s
def execFlw (rd rs1 : RSpec) (imm : BitVec 14) (s : State) : Out := loadF 4 rd rs1 imm s
def execFld (rd rs1 : RSpec) (imm : BitVec 14) (s : State) : Out := loadF 8 rd rs1 imm s

/-! ### Stores (R98, R99, R83) -/

/-- A store of bytes at ea by strand k; one to the window waits while a checkpoint holds it (R409). A write to the core's own register block is
performed after the store has retired. [DEDUCED, log 37] [DEDUCED, log 137] -/
def storeData (s : State) (k : StrandId) (ea : Word) (bs : List Byte) : Res :=
  let n := bs.length
  if ! ea.getLsbD 63 && winPart ea n then .event (mkEv 0x0D ea 0 .ul) s
  else if devOpen s k then .wait s
  else if ea.getLsbD 63 then farStore s k ea bs
  else if isWin ea then
    let o := ea.toNat - spw
    if s.spadSize < o + n then .event (mkEv 0x0D ea 0 .ul) s
    else if s.ckHold || moveHits s k true true o n then .wait s
    else .done (frameStore (spWrite s k o bs) k ea.toNat n)
  else
    match xlateSegs (s.xctx k) .store (segs ea.toNat n) [] s with
    | .error r => r
    | .ok (ps, s1) =>
      match placeOf s1 ea n ps with
      | .error r => r
      | .ok (.block off) =>
        if nearBefore s1 k then .wait s1 else .put (mmioWrite (retire s1 k 4) (.strand k) off (leNat bs))
      | .ok .dev => if nearBefore s1 k then .wait s1 else .done (portStore k (segPieces ps bs) true true s1)
      | .ok .unc => if segsHeld s1 k true ps then .wait s1 else .done (frameStore (portStore k (segPieces ps bs) false false s1) k ea.toNat n)
      | .ok .mem =>
        if segsHeld s1 k true ps then .wait s1 else
        match storePieces k s1 (segCuts ps bs) s1 with
        | .error r => r
        | .ok s2 => .done (frameStore s2 k ea.toNat n)

/-- A store of the low n bytes of an integer register. -/
def storeX (n : Nat) (rs2 rs1 : RSpec) (imm : BitVec 14) (s : State) : Out :=
  base s (fun k s =>
    let t := s.str k
    if ! (xOk rs2 && xOk rs1) then illegal s else storeData s k (t.x rs1 + sx imm) (toLE n (t.x rs2).toNat))

/-- A store of the low n bytes of a floating register. -/
def storeF (n : Nat) (rs2 rs1 : RSpec) (imm : BitVec 14) (s : State) : Out :=
  base s (fun k s =>
    let t := s.str k
    if ! (fOk rs2 && xOk rs1) then illegal s else storeData s k (t.x rs1 + sx imm) (toLE n (t.f rs2).toNat))

def execSb (rs2 rs1 : RSpec) (imm : BitVec 14) (s : State) : Out := storeX 1 rs2 rs1 imm s
def execSh (rs2 rs1 : RSpec) (imm : BitVec 14) (s : State) : Out := storeX 2 rs2 rs1 imm s
def execSw (rs2 rs1 : RSpec) (imm : BitVec 14) (s : State) : Out := storeX 4 rs2 rs1 imm s
def execSd (rs2 rs1 : RSpec) (imm : BitVec 14) (s : State) : Out := storeX 8 rs2 rs1 imm s
def execFsh (rs2 rs1 : RSpec) (imm : BitVec 14) (s : State) : Out := storeF 2 rs2 rs1 imm s
def execFsw (rs2 rs1 : RSpec) (imm : BitVec 14) (s : State) : Out := storeF 4 rs2 rs1 imm s
def execFsd (rs2 rs1 : RSpec) (imm : BitVec 14) (s : State) : Out := storeF 8 rs2 rs1 imm s

/-! ### Atomics (R101, Table 4-7) -/

/-- The operand of a far AMO, and the compare value of CAS. -/
def amoBody (op : Nat) (x c : Word) : List Byte := toLE 8 x.toNat ++ (if op = 9 then toLE 8 c.toNat else [])

/-- A far AMO: the old value. -/
def farAmo (op : Nat) (d : Bool) (s : State) (k : StrandId) (a : Word) (x c : Word) : Got :=
  match farPlace s (s.xctx k) .amo a with
  | .fault e s1 => .error (.event e s1)
  | .ok ga idx _ s1 =>
    let m := reqMsg s1 3 (BitVec.ofNat 14 (ga / 2 ^ 48)) (s1.dstEp ga) (fld (bit d) 7 + op) ga (amoBody op x c)
    match farWait s1 k a (fun s => farRequest s (.load k (s.str k).pc) a (some idx) false m) with
    | .error r => .error r
    | .ok (_, body, s2) => .ok (body, s2)

/-- An AMO of the scratchpad window, near memory or an Uncached region of n bytes at a: the old value's bytes, with the new value
stored. One of an Uncached address that waits is in no case of Table 2-2 (R37); with AQ, no later access of the strand is performed before its
write is (R103). [DEDUCED, log 36] [DEDUCED, log 37] [DEDUCED, log 129] -/
def nearAmo (op n : Nat) (aq : Bool) (s : State) (k : StrandId) (a : Word) (x c : Word) : Got :=
  let new := fun (old : List Byte) => toLE n (amoNew op (8 * n) (leNat old) x.toNat c.toNat)
  if winPart a n then .error (.event (mkEv 0x0D a 0 .ul) s)
  else if isWin a then
    let o := a.toNat - spw
    if s.spadSize < o + n then .error (.event (mkEv 0x0D a 0 .ul) s)
    else if s.ckHold || moveHits s k true true o n then .error (.wait s)
    else
      let m := spMeet s k o n
      if m.1 then
        let q := frameLoad m.2 k a.toNat (m.2.spad.getN o n)
        .ok (q.1, frameStore (spWrite q.2 k o (new q.1)) k a.toNat n)
      else .error (.wait m.2)
  else
    match translate s (s.xctx k) .store a with
    | .fault e s1 => .error (.event e s1)
    | .check s1 => .error (.wait s1)
    | .ok pa t s1 =>
      if t = .device || s1.ownBlock pa then .error (.event (mkEv 0x0D a 0 .ul) s1)
      else if moveHits s1 k false true pa n then .error (.wait s1)
      else if t = .uncached then
        match portLoad s1 k a n [(pa, n)] false true with
        | .error r => .error (r.noCase k)
        | .ok (old, s2) =>
          let q := frameLoad s2 k a.toNat old
          .ok (q.1, frameStore (portStore k [(pa, new q.1)] false aq q.2) k a.toNat n)
      else
        match ownLine s1 k pa n with
        | .wait s2 c => .error (.wait (waitFor s2 k c))
        | .check s2 => .error (.wait s2)
        | .hit s2 =>
          let q := frameLoad s2 k a.toNat (s2.near.getN pa n)
          .ok (q.1, frameStore (putNear q.2 pa (new q.1)) k a.toNat n)

/-- An AMO: with RL it waits until every earlier access of the strand has been performed (R103). [DESIGN CHOICE, log 29] -/
def amo (op : Nat) (rd rs1 rs2 : RSpec) (d aq rl : Bool) (s : State) : Out :=
  base s (fun k s =>
    let t := s.str k
    let a := t.x rs1
    let n := if d then 8 else 4
    if ! (xOk rd && xOk rs1 && xOk rs2) || ! amoExists op d || (a.getLsbD 63 && ! amoFar op) then illegal s
    else if a.toNat % n ≠ 0 then .event (mkEv 0x0D a 0 .ul) s
    else if devOpen s k || (rl && (nearOpen s k || farOpen s k)) then .wait s
    else
      match (if a.getLsbD 63 then farAmo op d s k a (t.x rs2) (t.x rd) else nearAmo op n aq s k a (t.x rs2) (t.x rd)) with
      | .error r => r
      | .ok (old, s1) => .done (s1.setX k rd (amoOld (8 * n) (leNat old))))

def execAmoSwap (rd rs1 rs2 : RSpec) (d aq rl : Bool) (s : State) : Out := amo 0x0 rd rs1 rs2 d aq rl s
def execAmoAdd (rd rs1 rs2 : RSpec) (d aq rl : Bool) (s : State) : Out := amo 0x1 rd rs1 rs2 d aq rl s
def execAmoAnd (rd rs1 rs2 : RSpec) (d aq rl : Bool) (s : State) : Out := amo 0x2 rd rs1 rs2 d aq rl s
def execAmoOr (rd rs1 rs2 : RSpec) (d aq rl : Bool) (s : State) : Out := amo 0x3 rd rs1 rs2 d aq rl s
def execAmoXor (rd rs1 rs2 : RSpec) (d aq rl : Bool) (s : State) : Out := amo 0x4 rd rs1 rs2 d aq rl s
def execAmoMin (rd rs1 rs2 : RSpec) (d aq rl : Bool) (s : State) : Out := amo 0x5 rd rs1 rs2 d aq rl s
def execAmoMax (rd rs1 rs2 : RSpec) (d aq rl : Bool) (s : State) : Out := amo 0x6 rd rs1 rs2 d aq rl s
def execAmoMinu (rd rs1 rs2 : RSpec) (d aq rl : Bool) (s : State) : Out := amo 0x7 rd rs1 rs2 d aq rl s
def execAmoMaxu (rd rs1 rs2 : RSpec) (d aq rl : Bool) (s : State) : Out := amo 0x8 rd rs1 rs2 d aq rl s
def execAmoCas (rd rs1 rs2 : RSpec) (d aq rl : Bool) (s : State) : Out := amo 0x9 rd rs1 rs2 d aq rl s
def execAmoFaddS (rd rs1 rs2 : RSpec) (d aq rl : Bool) (s : State) : Out := amo 0xA rd rs1 rs2 d aq rl s

end Sys2Proof.Machine
end

