-- ==== Sys2Proof/Machine/Scalar.lean ====
section
/-! DEFINITION. Integer computation, control transfer and hardware loops (04). -/

namespace Sys2Proof.Machine

open Sys2Proof

/-! ### The functions of Table 4-5 -/

/-- SRA. -/
def sraF (a b : Word) : Word := a.sshiftRight (b.toNat % 64)
/-- The signed minimum. -/
def minF (a b : Word) : Word := if a.slt b then a else b
/-- The signed maximum. -/
def maxF (a b : Word) : Word := if a.slt b then b else a
/-- The unsigned minimum. -/
def minuF (a b : Word) : Word := if a.ult b then a else b
/-- The unsigned maximum. -/
def maxuF (a b : Word) : Word := if a.ult b then b else a
/-- The upper 64 bits of a product. -/
def mulHi (a b : Int) : Word := BitVec.ofInt 64 (a * b / 2 ^ 64)
/-- DIV (R93). -/
def divF (a b : Word) : Word := if b = 0 then BitVec.allOnes 64 else a.sdiv b
/-- DIVU (R93). -/
def divuF (a b : Word) : Word := if b = 0 then BitVec.allOnes 64 else a / b
/-- REM (R93). -/
def remF (a b : Word) : Word := if b = 0 then a else a.srem b
/-- REMU (R93). -/
def remuF (a b : Word) : Word := if b = 0 then a else a % b
/-- Leading zeros, 0 to 64. -/
def clzF (a : Word) : Word := w64 (if a = 0 then 64 else 63 - Nat.log2 a.toNat)
/-- Trailing zeros, 0 to 64. -/
def ctzF (a : Word) : Word := w64 (((List.range 64).find? (fun i => a.getLsbD i)).getD 64)
/-- Set bits. -/
def popcF (a : Word) : Word := w64 ((List.range 64).filter (fun i => a.getLsbD i)).length

/-- Byte i of a word. -/
def byteOf (a : Word) (i : Nat) : Byte := (a >>> (8 * i)).setWidth 8

/-- PERMB: byte j of the result is byte idx_j of a when idx_j is below len, else 0 (R95). -/
def permbF (len : Nat) (a b : Word) : Word :=
  w64 (leNat ((List.range 8).map (fun j => let i := (byteOf b j).toNat; if i < len then byteOf a i else 0)))

/-- The width of a bit field that ends at bit 63 at most (R94). -/
def bfWidth (pos lenm1 : BitVec 6) : Nat := min (lenm1.toNat + 1) (64 - pos.toNat)

/-- The mask of a bit field. -/
def bfMask (pos lenm1 : BitVec 6) : Word := w64 ((2 ^ bfWidth pos lenm1 - 1) * 2 ^ pos.toNat)

/-- BFEXT. -/
def bfextF (pos lenm1 : BitVec 6) (a : Word) : Word := (a &&& bfMask pos lenm1) >>> pos.toNat

/-- BFEXT.S: the field's top bit extended. -/
def bfextSF (pos lenm1 : BitVec 6) (a : Word) : Word :=
  let w := bfWidth pos lenm1
  BitVec.ofInt 64 (sInt w (bfextF pos lenm1 a).toNat)

/-- BFINS. -/
def bfinsF (pos lenm1 : BitVec 6) (d a : Word) : Word :=
  (d &&& ~~~(bfMask pos lenm1)) ||| ((a <<< pos.toNat) &&& bfMask pos lenm1)

/-! ### Register–register -/

def execAdd (rd rs1 rs2 : RSpec) (s : State) : Out := alu2 (· + ·) rd rs1 rs2 s
def execSub (rd rs1 rs2 : RSpec) (s : State) : Out := alu2 (· - ·) rd rs1 rs2 s
def execAnd (rd rs1 rs2 : RSpec) (s : State) : Out := alu2 (· &&& ·) rd rs1 rs2 s
def execOr (rd rs1 rs2 : RSpec) (s : State) : Out := alu2 (· ||| ·) rd rs1 rs2 s
def execXor (rd rs1 rs2 : RSpec) (s : State) : Out := alu2 (· ^^^ ·) rd rs1 rs2 s
def execAndn (rd rs1 rs2 : RSpec) (s : State) : Out := alu2 (fun a b => a &&& ~~~b) rd rs1 rs2 s
def execSll (rd rs1 rs2 : RSpec) (s : State) : Out := alu2 (fun a b => a <<< (b.toNat % 64)) rd rs1 rs2 s
def execSrl (rd rs1 rs2 : RSpec) (s : State) : Out := alu2 (fun a b => a >>> (b.toNat % 64)) rd rs1 rs2 s
def execSra (rd rs1 rs2 : RSpec) (s : State) : Out := alu2 sraF rd rs1 rs2 s
def execSlt (rd rs1 rs2 : RSpec) (s : State) : Out := alu2 (fun a b => b64 (a.slt b)) rd rs1 rs2 s
def execSltu (rd rs1 rs2 : RSpec) (s : State) : Out := alu2 (fun a b => b64 (a.ult b)) rd rs1 rs2 s
def execMin (rd rs1 rs2 : RSpec) (s : State) : Out := alu2 minF rd rs1 rs2 s
def execMax (rd rs1 rs2 : RSpec) (s : State) : Out := alu2 maxF rd rs1 rs2 s
def execMinu (rd rs1 rs2 : RSpec) (s : State) : Out := alu2 minuF rd rs1 rs2 s
def execMaxu (rd rs1 rs2 : RSpec) (s : State) : Out := alu2 maxuF rd rs1 rs2 s
def execMul (rd rs1 rs2 : RSpec) (s : State) : Out := alu2 (· * ·) rd rs1 rs2 s
def execMulxSs (rd rs1 rs2 : RSpec) (s : State) : Out := alu2 (fun a b => mulHi a.toInt b.toInt) rd rs1 rs2 s
def execMulxUu (rd rs1 rs2 : RSpec) (s : State) : Out := alu2 (fun a b => mulHi a.toNat b.toNat) rd rs1 rs2 s
def execMulxSu (rd rs1 rs2 : RSpec) (s : State) : Out := alu2 (fun a b => mulHi a.toInt b.toNat) rd rs1 rs2 s
def execDiv (rd rs1 rs2 : RSpec) (s : State) : Out := alu2 divF rd rs1 rs2 s
def execDivu (rd rs1 rs2 : RSpec) (s : State) : Out := alu2 divuF rd rs1 rs2 s
def execRem (rd rs1 rs2 : RSpec) (s : State) : Out := alu2 remF rd rs1 rs2 s
def execRemu (rd rs1 rs2 : RSpec) (s : State) : Out := alu2 remuF rd rs1 rs2 s
def execClz (rd rs1 : RSpec) (s : State) : Out := alu1 clzF rd rs1 s
def execCtz (rd rs1 : RSpec) (s : State) : Out := alu1 ctzF rd rs1 s
def execPopc (rd rs1 : RSpec) (s : State) : Out := alu1 popcF rd rs1 s
def execPermb (rd rs1 rs2 : RSpec) (len : BitVec 3) (s : State) : Out := alu2 (permbF (len.toNat + 1)) rd rs1 rs2 s

/-! ### Immediate forms -/

def execAddi (rd rs1 : RSpec) (imm : BitVec 14) (s : State) : Out := alu1 (· + sx imm) rd rs1 s
def execAndi (rd rs1 : RSpec) (imm : BitVec 14) (s : State) : Out := alu1 (· &&& sx imm) rd rs1 s
def execOri (rd rs1 : RSpec) (imm : BitVec 14) (s : State) : Out := alu1 (· ||| sx imm) rd rs1 s
def execXori (rd rs1 : RSpec) (imm : BitVec 14) (s : State) : Out := alu1 (· ^^^ sx imm) rd rs1 s
def execSlti (rd rs1 : RSpec) (imm : BitVec 14) (s : State) : Out := alu1 (fun a => b64 (a.slt (sx imm))) rd rs1 s
def execSltiu (rd rs1 : RSpec) (imm : BitVec 14) (s : State) : Out := alu1 (fun a => b64 (a.ult (sx imm))) rd rs1 s
def execSlli (rd rs1 : RSpec) (amt : BitVec 6) (s : State) : Out := alu1 (· <<< amt.toNat) rd rs1 s
def execSrli (rd rs1 : RSpec) (amt : BitVec 6) (s : State) : Out := alu1 (· >>> amt.toNat) rd rs1 s
def execSrai (rd rs1 : RSpec) (amt : BitVec 6) (s : State) : Out := alu1 (fun a => a.sshiftRight amt.toNat) rd rs1 s

/-- imm20 × 2^12, sign-extended from bit 31. -/
def upImm (imm : BitVec 20) : Word := sx (imm ++ (0 : BitVec 12))

def execLui (rd : RSpec) (imm : BitVec 20) (s : State) : Out :=
  base s (fun k s => if xOk rd then .done (s.setX k rd (upImm imm)) else illegal s)

def execAuipc (rd : RSpec) (imm : BitVec 20) (s : State) : Out :=
  base s (fun k s => if xOk rd then .done (s.setX k rd ((s.str k).pc + upImm imm)) else illegal s)

def execLiw (rd : RSpec) (imm : BitVec 32) (s : State) : Out :=
  ext s (fun k s => if xOk rd then .done (s.setX k rd (sx imm)) else illegal s)

def execLih (rd : RSpec) (imm : BitVec 32) (s : State) : Out :=
  ext s (fun k s => if xOk rd then .done (s.setX k rd (imm ++ ((s.str k).x rd).setWidth 32)) else illegal s)

def execAddix (rd rs1 : RSpec) (imm : BitVec 32) (s : State) : Out := alu1x (· + sx imm) rd rs1 s

def execBfext (rd rs1 : RSpec) (pos lenm1 : BitVec 6) (s : State) : Out := alu1 (bfextF pos lenm1) rd rs1 s
def execBfextS (rd rs1 : RSpec) (pos lenm1 : BitVec 6) (s : State) : Out := alu1 (bfextSF pos lenm1) rd rs1 s
def execBfins (rd rs1 : RSpec) (pos lenm1 : BitVec 6) (s : State) : Out :=
  base s (fun k s =>
    if xOk rd && xOk rs1 then .done (s.setX k rd (bfinsF pos lenm1 ((s.str k).x rd) ((s.str k).x rs1))) else illegal s)

/-! ### Control transfer (R96, R97, Table 2-7) -/

/-- The target of a word offset from the instruction (R87). -/
def wordTarget {w : Nat} (pc : Word) (off : BitVec w) : Word := pc + 4 * sx off

/-- An indirect target that is not a multiple of 4 raises 0x0D with SVFA holding it (R97). -/
def misTarget (s : State) (t : Word) : Res := .event (mkEv 0x0D t 0 .ul) s

/-- The CALL row of Table 2-7 with its target. -/
def callTo (k : StrandId) (s : State) (target : Word) : Res :=
  let t := s.str k
  if t.win.free < 4 then .event (mkEv 0x0E 0 0 .ul) s
  else
    let link := t.pc + 4
    let s1 := s.modWin k (fun w =>
      let w1 := w.push t.status.lvl
      w1.modSlot w1.wcur (fun q => { q with l := q.l.set 7 link }))
    .jump s1 target

def execJmp (off : BitVec 26) (s : State) : Out := baseCtl s (fun k s => .jump s (wordTarget (s.str k).pc off))

def execCall (off : BitVec 26) (s : State) : Out := baseCtl s (fun k s => callTo k s (wordTarget (s.str k).pc off))

def execJmpr (rd rs1 : RSpec) (imm : BitVec 14) (s : State) : Out :=
  baseCtl s (fun k s =>
    if xOk rd && xOk rs1 then
      let t := (s.str k).x rs1 + sx imm
      if t.toNat % 4 ≠ 0 then misTarget s t else .jump (s.setX k rd ((s.str k).pc + 4)) t
    else illegal s)

def execCallr (rs1 : RSpec) (imm : BitVec 14) (s : State) : Out :=
  baseCtl s (fun k s =>
    if xOk rs1 then
      let t := (s.str k).x rs1 + sx imm
      if t.toNat % 4 ≠ 0 then misTarget s t else callTo k s t
    else illegal s)

/-- A branch condition of Table 4-6; none for a reserved code. -/
def brCond (c : BitVec 3) (a b : Word) : Option Bool :=
  match c.toNat with
  | 0 => some (a == b)
  | 1 => some (a != b)
  | 2 => some (a.slt b)
  | 3 => some (! a.slt b)
  | 4 => some (a.ult b)
  | 5 => some (! a.ult b)
  | _ => none

/-- A condition against zero of Table 4-6; none for a reserved code. -/
def brzCond (c : BitVec 3) (a : Word) : Option Bool :=
  match c.toNat with
  | 0 => some (a == 0)
  | 1 => some (a != 0)
  | 2 => some (a.slt 0)
  | 3 => some (! a.slt 0)
  | 4 => some ((0 : Word).slt a)
  | 5 => some (! (0 : Word).slt a)
  | _ => none

def execBr (rs1 rs2 : RSpec) (cond : BitVec 3) (off : BitVec 11) (s : State) : Out :=
  baseCtl s (fun k s =>
    match brCond cond ((s.str k).x rs1) ((s.str k).x rs2) with
    | none => illegal s
    | some b =>
      if xOk rs1 && xOk rs2 then (if b then .jump s (wordTarget (s.str k).pc off) else .done s) else illegal s)

def execBrz (rs1 : RSpec) (cond : BitVec 3) (off : BitVec 17) (s : State) : Out :=
  baseCtl s (fun k s =>
    match brzCond cond ((s.str k).x rs1) with
    | none => illegal s
    | some b => if xOk rs1 then (if b then .jump s (wordTarget (s.str k).pc off) else .done s) else illegal s)

def execRet (s : State) : Out :=
  baseCtl s (fun k s =>
    let t := s.str k
    let a := t.x 0x1F
    if a.toNat % 4 ≠ 0 then misTarget s a
    else if t.win.resw < 2 then .event (mkEv 0x0F 0 0 .ul) s
    else .jump (s.modWin k Win.pop) a)

/-! ### Hardware loops (R114, R116) -/

/-- Whether the body of loop i lies in the body of loop o. -/
def Loop.inside (i o : Loop) : Bool := decide (o.start.toNat ≤ i.start.toNat) && decide (i.last.toNat ≤ o.last.toNat)

def execLoopI (rs1 : RSpec) (len : BitVec 12) (s : State) : Out :=
  baseCtl s (fun k s =>
    let t := s.str k
    let l : Loop := { start := t.pc + 4, len := len, count := (t.x rs1).setWidth 32 }
    if ! xOk rs1 || decide (2 ≤ t.loops.length) || len == 0 || ! t.loops.all (fun o => l.inside o) then illegal s
    else if l.count = 0 then .jump s (l.last + 4)
    else .done (s.modStr k (fun t => { t with loops := t.loops ++ [l] })))

def execLbrk (s : State) : Out :=
  baseCtl s (fun k s => .done (s.modStr k (fun t => { t with loops := t.loops.dropLast })))

end Sys2Proof.Machine
end

