-- ==== Sys2Proof/Machine/System.lean ====
section
/-! DEFINITION. Event return, gates, breakpoints, SYNC, fences, and window spills and fills by instruction (02, R51, R52; 03, R71 to
R79; 04, R103, R104, R111, R112; 17, R406). -/

namespace Sys2Proof.Machine

open Sys2Proof

/-! ### EVRET (R71, R72) -/

/-- What EVRET reads from the stack of level x: the loop record, the older save set, and the new g15. -/
def evretReads (s : State) (k : StrandId) (x : Lvl) : Except Res (List Loop × Option SaveSet × Word × State) :=
  let t := s.str k
  let ca := (t.save x).ca.toNat
  let bad := fun (e : Ev) (s : State) => (.error (.event (mkEv 0x15 e.fa 0 .ul) s) : Except Res (List Loop × Option SaveSet × Word × State))
  let sp := t.g15 x
  let older := fun (ls : List Loop) (sp : Word) (s : State) =>
    if t.svDepth x = 0 then .ok (ls, none, sp, s)
    else match loadBlock s (s.xctxAt k x) sp 32 8 with
      | .fault e s1 => bad e s1
      | .check s1 => .error (.wait s1)
      | .ok b s1 => .ok (ls, some (saveOf b), sp + 32, s1)
  if x = .ml then .ok (if tbit ca 36 then t.saves.m.loops else [], none, sp, s)
  else if tbit ca 36 then
    match loadBlock s (s.xctxAt k x) sp 32 8 with
    | .fault e s1 => bad e s1
    | .check s1 => .error (.wait s1)
    | .ok b s1 => older (loopsOf b) (sp + 32) s1
  else older [] sp s

/-- The save sets of a strand after the return from level x (R69, R71). [DESIGN CHOICE, log 25] -/
def popSave (t : Strand) (x : Lvl) (old : Option SaveSet) : Strand :=
  match x with
  | .ml =>
    match t.saves.mOld with
    | f :: r => { t with saves := { t.saves with m := f, mOld := r } }
    | [] => { t with saves := { t.saves with mV := false } }
  | y =>
    match old with
    | some o => t.modSave y (fun _ => { o with ca := o.ca &&& svcaMask })
    | none => t.modSave y (fun q => { q with ca := q.ca &&& ~~~((1 : Word) <<< 63) })

/-- The chains and engines whose recorded entry this return ends are retried (R277, R298). [DEDUCED, log 67] -/
def retryAll (s : State) (k : StrandId) (x : Lvl) (depth : Nat) : State :=
  let own := fun (src : EvSrc) => (s.str k).run.pendEv.any (fun e => e.src == src)
  let s1 := [Lvl.ul, .sl, .ml].foldl (fun (s : State) y =>
    let c : CtxId := { k := k, lv := y }
    s.modChain c (fun q =>
      if q.st = .suspended ∧ q.record = some (x, depth) ∧ ! own (.chain c) then { q with st := .running, record := none } else q)) s
  { s1 with weevils := Vector.ofFn (fun i : Fin 4 =>
      let e := s1.weevils[i]
      if e.st = .suspended ∧ e.k = k ∧ e.record = some (x, depth) ∧ ! own (.engine i) then resumeEng e else e) }

/-- The trace record of a return; its CODE is not given by Table 19-10 and is a free value. [DESIGN CHOICE, log 23] -/
def traceReturn (s : State) (k : StrandId) (t : Lvl) (pc : Word) : State :=
  if s.trace.en && s.trace.kinds.getLsbD 0 then
    let v := s.freeVal
    v.2.traceAdd 0 2 k t.code (v.1.toNat % 256) pc
  else s

/-- A machine save stack frame that the return reads meets its errors (Table 17-1). -/
def frameMeet (s : State) (k : StrandId) (x : Lvl) : Bool × State := if x = .ml then mssMeet s k else (true, s)

/-- The commit of EVRET from x to t. [DESIGN CHOICE, log 25] -/
def evretCommit (s : State) (k : StrandId) (x t : Lvl) (ls : List Loop) (old : Option SaveSet) (sp : Word) : State :=
  let q := s.str k
  let sv := q.save x
  let st := sv.st.toNat
  let depth := q.svDepth x
  let s1 := s.modStr k (fun u =>
    let u1 : Strand := { u with
      pc := sv.pc
      status := { lvl := t, ie := tbit st 0, sap := if x = .ul then u.status.sap else tbit st 10,
                  sep := if x = .ul then u.status.sep else tbit st 11 }
      loops := ls
      win := u.win.pop.modSlot u.win.pop.wcur (fun q => { q with tag := t })
      run := { u.run with cond := none, merged := none } }
    (popSave u1 x old).setG15 x sp)
  retryAll (traceReturn s1 k t sv.pc) k x depth

/-- [DEDUCED, log 15] -/
def execEvret (s : State) : Out :=
  baseCtl s (fun k s =>
    let q := s.str k
    let x := q.status.lvl
    if ! q.svV x then illegal s
    else if q.win.resw < 2 then .event (mkEv 0x0F 0 0 .ul) s
    else
      match frameMeet s k x with
      | (false, s0) => .put s0
      | (true, s0) =>
        let t := Lvl.least (lvlOf (bits (q.save x).st.toNat 9 8)) x
        if s0.rel.aborted && x == .ml && t != .ml then .wait s0
        else
          match evretReads s0 k x with
          | .error r => r
          | .ok (ls, old, sp, s1) =>
            match spillDown 12 s1 k t 2 with
            | .fault e s2 => .event e s2
            | .check s2 => .wait s2
            | .ok _ s2 => .put (evretCommit s2 k x t ls old sp))

/-! ### GATE (R77 to R79, Table 3-13) -/

/-- An argument that a gate checks: its kind, pointer and length; lenReg says that a register gave the length. -/
structure GArg where
  kind : Nat
  p : Word
  len : Nat
  lenReg : Bool

/-- The arguments that ARGS describes: argument n is the caller's o(n+1), its length o(n+2), 8, 64 or 4,096 bytes. -/
def gateArgs (t : Strand) (w : Nat) : List GArg :=
  (List.range 6).map (fun n =>
    let d := bits w (4 * n + 3) (4 * n)
    let c := d % 4
    let o := fun (i : Nat) => t.x (BitVec.ofNat 6 (0x10 + i))
    { kind := d / 4, p := o (n + 1), lenReg := c == 0,
      len := if c = 0 then (o (n + 2)).toNat else if c = 1 then 8 else if c = 2 then 64 else 4096 })

/-- How the pointer checks end: passed, the failing byte, or a machine check met on the way. -/
inductive GRes where
  | ok (s : State)
  | fail (fa : Word) (s : State)
  | check (s : State)

/-- The probe of one pointer argument at the caller's level, without SAP and without the memory type (R78).
[DESIGN CHOICE, log 139] -/
def gateProbe (s : State) (k : StrandId) (a : GArg) : GRes :=
  let x : XCtx := { s.xctx k with sap := false }
  let kind : AK := if a.kind = 1 then .pload else .pstore
  let below := a.p.toNat < spw
  match probe s x kind a.p (if winPart a.p a.len && below then spw - a.p.toNat else a.len) true with
  | .fault e s1 => .fail e.fa s1
  | .check s1 => .check s1
  | .ok _ s1 => if winPart a.p a.len then .fail (w64 (if below then spw else spw + s.spadSize)) s1 else .ok s1

/-- Every pointer argument of nonzero length, in order. [DESIGN CHOICE, log 22] -/
def gateProbes (k : StrandId) : List GArg → State → GRes
  | [], s => .ok s
  | a :: r, s =>
    match gateProbe s k a with
    | .ok s1 => gateProbes k r s1
    | q => q

/-- A gate fault. [DESIGN CHOICE, log 22] -/
def gateFault (n reason : Nat) (fa : Word) (s : State) : Res := .event (mkEv 0x16 fa (fld reason 12 + n) .ul) s

/-- A gate call: the stack switch of R79, the sync point of R66, and the entry with number 0x17. [DESIGN CHOICE, log 22]
[DESIGN CHOICE, log 138] -/
def gateEnter (s : State) (k : StrandId) (n : Nat) (entry stk : Word) (w : Nat) : Res :=
  let y := lvlOf (bits w 57 56)
  let s1 := if stk ≠ 0 ∧ ! (s.str k).svV y then s.modStr k (fun t => t.setG15 y stk) else s
  match applyPend s1 k with
  | .wait s2 => .wait s2
  | .check s2 => .wait s2
  | .fault e s2 => .event e s2
  | .ok s2 =>
    .put (enterGo 4 s2 k
      { num := 0x17, y := y, fa := 0, info := n, esc := none, handler := entry, kie := tbit w 55, rpc := (s2.str k).pc + 4, gate := true,
        ev := mkEv 0x17 0 n .ul }).state

/-- [DESIGN CHOICE, log 22] -/
def execGate (n : BitVec 10) (s : State) : Out :=
  baseCtl s (fun k s =>
    let n := n.toNat
    let lv := (s.str k).status.lvl
    let a := bits s.core.gdtb.toNat 51 12 * 4096 + 32 * n
    if bits s.core.gdtb.toNat 10 0 ≤ n then gateFault n 1 0 s
    else match tableRead s k (w64 a) a 32 with
    | .wait s1 => .wait s1
    | .check s1 => .put (haltCore s1)
    | .err s1 => .put (haltCore s1)
    | .hit s0 =>
      let s1 := dropReads s0 (.table k (w64 a))
      let w := s1.near.getLE (a + 16) 8
      let args := (gateArgs (s1.str k) w).filter (fun g => g.kind != 0)
      let live := args.filter (fun g => g.len != 0)
      if s1.badLine a then .put (haltCore s1)
      else if ! tbit w 63 || bits w 57 56 == 2 then gateFault n 2 0 s1
      else if ! tbit w (52 + lv.rank.val) then gateFault n 3 0 s1
      else if (lvlOf (bits w 57 56)).below lv then gateFault n 4 0 s1
      else if args.any (fun g => g.lenReg && decide (65536 < g.len)) then gateFault n 6 0 s1
      else if live.any (fun g => g.p.getLsbD 63) then gateFault n 7 0 s1
      else
        match gateProbes k live s1 with
        | .fail fa s2 => gateFault n 5 fa s2
        | .check s2 => .wait s2
        | .ok s2 => gateEnter s2 k n (w64 (s2.near.getLE a 8)) (w64 (bits (s2.near.getLE (a + 8) 8) 63 4 * 16)) w)

/-! ### BRK, SYNC.C, SYNC.I -/

def execBrk (imm : BitVec 10) (s : State) : Out := baseCtl s (fun _ s => .event (mkEv 0x03 0 imm.toNat .ul) s)

/-- SYNC.C; in job abort one that would lower the level below ML does not complete (R406). -/
def execSyncC (s : State) : Out :=
  base s (fun k s =>
    let r := (s.str k).run.pend
    if s.rel.aborted && (s.str k).status.lvl == .ml && (r.lvl.getD .ml) != .ml then .wait s
    else
      match applyPend s k with
      | .ok s1 => .done s1
      | .wait s1 => .wait s1
      | .check s1 => .wait s1
      | .fault e s1 => .event e s1)

/-- SYNC.I: the strand's older stores reach the L2, those of its tile stores among them, then the L1I holds nothing.
[DESIGN CHOICE, log 31] -/
def execSyncI (s : State) : Out :=
  base s (fun k s => if nearBefore s k then .wait s else .done (s.modArr .l1i (fun c => { c with lines := [] })))

/-! ### Fences (R103, R104, R317) -/

/-- [DESIGN CHOICE, log 29] -/
def execFence (s : State) : Out := base s (fun k s => if nearOpen s k then .wait s else .done s)

/-- [DESIGN CHOICE, log 29] -/
def execFenceF (s : State) : Out := base s (fun k s => if nearOpen s k || farOpen s k then .wait s else .done s)

/-! ### WSPILL and WFILL (R51, R52, Table 2-7) -/

def execWspill (s : State) : Out :=
  base s (fun k s =>
    let t := s.str k
    if t.win.resw < 2 then illegal s
    else if t.status.lvl.below (t.win.ring[t.win.oldest]).tag then privileged s
    else
      match spillOldest s k with
      | .ok _ s1 => .done s1
      | .fault e s1 => .event e s1
      | .check s1 => .wait s1)

def execWfill (lv : BitVec 2) (s : State) : Out :=
  base s (fun k s =>
    let t := s.str k
    let y := lvlOf lv.toNat
    if ! lvOk lv || t.win.free == 0 then illegal s
    else if t.status.lvl.below y then privileged s
    else
      match fillOldest s k y with
      | .ok _ s1 => .done s1
      | .fault e s1 => .event e s1
      | .check s1 => .wait s1)

end Sys2Proof.Machine
end

