-- ==== Sys2Proof/Machine/Sched.lean ====
section
/-! DEFINITION. What happens at a boundary of the running strand, the scheduler's switch decision, and the passing of time (02, R37 to
R42; 03, R481; 05, R129). -/

namespace Sys2Proof.Machine

open Sys2Proof

/-! ### EVENT_ENTRY (R481) -/

/-- The event of a vector. -/
def vecEv (v : Nat) : Ev := mkEv (BitVec.ofNat 8 v) 0 0 .ul

/-- A pending synchronous event is no longer pending: the first one equal to e leaves. -/
def dropPend (k : StrandId) (e : Ev) (s : State) : State := s.modRun k (fun r => { r with pendEv := r.pendEv.erase e })

/-- A machine check is no longer pending. -/
def dropMchk (k : StrandId) (e : Ev) (s : State) : State := s.modRun k (fun r => { r with mchk := r.mchk.erase e })

/-- A strand whose HOLD bit was set while an event was to be taken first is held once it has been (R41, R44). -/
def holdAfter (s : State) (k : StrandId) : State := if s.core.hold.getLsbD k.val && (nextEvent s k).isNone then holdStrand s k else s

/-- The boundary takes what comes first; what is not taken stays pending. [DESIGN CHOICE, log 13] [DESIGN CHOICE, log 21] -/
def boundary (s : State) (k : StrandId) : State :=
  let pc := (s.str k).pc
  match nextEvent s k with
  | none => holdAfter s k
  | some (.mchk e) => holdAfter (takeEvent s k e pc true (dropMchk k e)).state k
  | some (.own e) => holdAfter (takeEvent s k e pc false id).state k
  | some (.pend _ e) => holdAfter (takeEvent s k e pc true (dropPend k e)).state k
  | some (.irq v) => holdAfter (takeEvent s k (vecEv v) pc false id).state k

def execEventEntry (s : State) : Out :=
  .next (match issuing s with
    | none => s
    | some k => boundary s k)

/-! ### STRAND_SWITCH (R37 to R42, Table 2-2) -/

/-- Whether a machine-level event is pending that strand j can take at its next boundary: a machine check, a synchronous event whose level
is ML, a vector. -/
def machineEvent (s : State) (j : StrandId) : Bool :=
  ! (s.str j).run.mchk.isEmpty
    || (s.str j).run.pendEv.any (fun e => pendOk s j e
      && (match s.edt e.num.toNat with | some d => entryLevel e.num.toNat e.rel d.tlvl == .ml | none => true))
    || (takable s j).any (fun p => match s.edt p.1 with | some d => d.tlvl == .ml | none => true)

/-- The strand that a machine event elsewhere brings in, first after k in round-robin order. -/
def machineNext (s : State) (k : StrandId) : Option StrandId :=
  [k + 1, k + 2, k + 3].find? (fun j => ((s.str j).run.st == .ready || (s.str j).run.st == .waiting) && machineEvent s j)

/-- Strand j runs. -/
def runStrand (s : State) (j : StrandId) : State :=
  ((s.modRun j (fun r => { r with st := .running, cond := none })).modCore (fun c => { c with cur := some j })).modPwr
    (fun w => { w with c1 := false })

/-- Strand k goes out in a state, and j comes in; the decision is traced for the outgoing strand. -/
def switchTo (s : State) (k j : StrandId) (out : StState) : State :=
  let s1 := s.traceAdd 1 3 k (s.str k).status.lvl.code j.val (s.str k).pc
  let s2 := (giveUp s1 k).modRun k (fun r => { r with st := out, cond := if out = .waiting then r.cond else none })
  runStrand (s2.modCore (fun c => { c with last := k })) j

/-- The scheduler's decision while strand k runs: an event of its own comes first (R41); a machine event elsewhere comes before the
strand's own wait or gate case, and leaves it ready though its wait stands. [DESIGN CHOICE, log 132] -/
def switchFrom (s : State) (k : StrandId) : State :=
  if (nextEvent s k).isSome then s
  else
    match machineNext s k with
    | some j => switchTo s k j .ready
    | none =>
      match (s.str k).run.cond, nextReady s k with
      | some .gate, some j => switchTo s k j .ready
      | some _, some j => switchTo s k j .waiting
      | _, _ => s

/-- No strand runs: the running strand has been held, or all wait. A strand with a machine event comes in first, else the first ready
strand after the last. [DESIGN CHOICE, log 21] -/
def fromHeld (s : State) : State :=
  let k := s.core.last
  let can := fun (j : StrandId) => (s.str j).run.st == .ready || (s.str j).run.st == .waiting
  let mach := match machineNext s k with | some j => some j | none => if can k && machineEvent s k then some k else none
  match mach with
  | some j => runStrand (s.traceAdd 1 3 k (s.str k).status.lvl.code j.val (s.str k).pc) j
  | none =>
    match (match nextReady s k with | some j => some j | none => if (s.str k).run.st == StState.ready then some k else none) with
    | none => s
    | some j => runStrand (s.traceAdd 1 3 k (s.str k).status.lvl.code j.val (s.str k).pc) j

def execStrandSwitch (s : State) : Out :=
  .next (
    if s.core.halted || s.pwr.pstate != .c0 || s.pwr.bstate != 2 || s.pwr.warmDue.isSome then s
    else match s.core.cur with
      | some k => switchFrom s k
      | none => fromHeld s)

/-! ### The passing of time: an empty queue (R129) -/

/-- Eighteenths of a nanosecond in a core clock at each DVFS point: 1.0, 1.5, 2.0 and 2.25 GHz (Table 18-2).
[DESIGN CHOICE, log 1] -/
def tick18 (p : BitVec 2) : Nat := match p.toNat with | 0 => 18 | 1 => 12 | 2 => 9 | _ => 8

/-- A correction that GTIME still owes moves it by 1 ns each time the counter passes 2,250 core clocks, which take at least 1 µs
at every point: forward at once, backward by taking one nanosecond less on the first tick from there that brings one.
[DESIGN CHOICE, log 88] -/
def slewStep (s : State) (adv : Nat) : Int × Nat :=
  let r := s.core.cyc.toNat % 2250
  if 0 < s.far.slew ∧ r = 0 then (s.far.slew - 1, adv + 1)
  else if s.far.slew < 0 ∧ 0 < adv ∧ r * tick18 s.pwr.point ≤ s.core.gtFrac then (s.far.slew + 1, adv - 1)
  else (s.far.slew, adv)

/-- One core clock: CYC and GTIME advance, and a window of error counts may end. [DESIGN CHOICE, log 1] [DEDUCED, log 142] -/
def clockTick (s : State) : State :=
  let f := s.core.gtFrac + tick18 s.pwr.point
  let q := slewStep s (f / 18)
  countWindow ((s.modCore (fun c => { c with cyc := c.cyc + 1, gtime := c.gtime + w64 q.2, gtFrac := f % 18 })).modFar (fun x => { x with slew := q.1 }))

/-- A write made through STRDBG that waits is tried again, and a strand whose HOLD bit has been cleared meanwhile then resumes (R57). -/
def dbgGo (s : State) (k : StrandId) : State :=
  if (s.str k).run.dbgPend = Pend.none then s
  else
    let q := settleDbg s k
    if q.1 && (q.2.str k).run.st == .held && ! q.2.core.hold.getLsbD k.val then releaseStrand q.2 k else q.2

/-- What waits for nothing but time goes on: eviction writes leave, held snoops that wait no longer are applied, window completions that a full queue held back are tried
again, telemetry records that wait for their queue are pushed, debug writes are tried again, due acknowledgements leave, a requested C3 or C4 entry or a warm reset that is due proceeds. [DESIGN CHOICE, log 1] -/
def passTime (s : State) : State :=
  let s1 := heldSnoops (sendEvictions s)
  let s2 := (List.finRange 64).foldl (fun s i => completeWin s i) s1
  let s3 := ([0, 1, 2, 3] : List StrandId).foldl dbgGo (telemFlush s2)
  tryWarm (tryCState (sendAcks s3))

/-- One tick: a core clock in C0, a reference clock in C3, no clock in C4 or before a load has succeeded; a reset in progress ends (R430).
[DESIGN CHOICE, log 1] [DESIGN CHOICE, log 145] -/
def tick (s0 : State) : State :=
  let s := s0.modPwr (fun w => { w with rst := none })
  match s.pwr.pstate with
  | .c0 => if s.pwr.bstate = 2 then passTime (clockTick s) else s
  | .c3 => s.modCore (fun c => { c with gtime := c.gtime + 10 })
  | .c4 => s

end Sys2Proof.Machine
end

