-- ==== Sys2Proof/Machine/Dispatch.lean ====
section
/-! DEFINITION. One arm per command: a direct call of its meaning. -/

namespace Sys2Proof.Machine

open Sys2Proof

/-- The effect of a command on everything but the queue. -/
def exec (i : Instr) (s : State) : Host.Outcome State Fault Refusal :=
  match i with
  | .add rd rs1 rs2 => Sys2Proof.Machine.execAdd rd rs1 rs2 s
  | .sub rd rs1 rs2 => Sys2Proof.Machine.execSub rd rs1 rs2 s
  | .and rd rs1 rs2 => Sys2Proof.Machine.execAnd rd rs1 rs2 s
  | .or rd rs1 rs2 => Sys2Proof.Machine.execOr rd rs1 rs2 s
  | .xor rd rs1 rs2 => Sys2Proof.Machine.execXor rd rs1 rs2 s
  | .andn rd rs1 rs2 => Sys2Proof.Machine.execAndn rd rs1 rs2 s
  | .sll rd rs1 rs2 => Sys2Proof.Machine.execSll rd rs1 rs2 s
  | .srl rd rs1 rs2 => Sys2Proof.Machine.execSrl rd rs1 rs2 s
  | .sra rd rs1 rs2 => Sys2Proof.Machine.execSra rd rs1 rs2 s
  | .slt rd rs1 rs2 => Sys2Proof.Machine.execSlt rd rs1 rs2 s
  | .sltu rd rs1 rs2 => Sys2Proof.Machine.execSltu rd rs1 rs2 s
  | .min rd rs1 rs2 => Sys2Proof.Machine.execMin rd rs1 rs2 s
  | .max rd rs1 rs2 => Sys2Proof.Machine.execMax rd rs1 rs2 s
  | .minu rd rs1 rs2 => Sys2Proof.Machine.execMinu rd rs1 rs2 s
  | .maxu rd rs1 rs2 => Sys2Proof.Machine.execMaxu rd rs1 rs2 s
  | .mul rd rs1 rs2 => Sys2Proof.Machine.execMul rd rs1 rs2 s
  | .mulxSs rd rs1 rs2 => Sys2Proof.Machine.execMulxSs rd rs1 rs2 s
  | .mulxUu rd rs1 rs2 => Sys2Proof.Machine.execMulxUu rd rs1 rs2 s
  | .mulxSu rd rs1 rs2 => Sys2Proof.Machine.execMulxSu rd rs1 rs2 s
  | .div rd rs1 rs2 => Sys2Proof.Machine.execDiv rd rs1 rs2 s
  | .divu rd rs1 rs2 => Sys2Proof.Machine.execDivu rd rs1 rs2 s
  | .rem rd rs1 rs2 => Sys2Proof.Machine.execRem rd rs1 rs2 s
  | .remu rd rs1 rs2 => Sys2Proof.Machine.execRemu rd rs1 rs2 s
  | .clz rd rs1 => Sys2Proof.Machine.execClz rd rs1 s
  | .ctz rd rs1 => Sys2Proof.Machine.execCtz rd rs1 s
  | .popc rd rs1 => Sys2Proof.Machine.execPopc rd rs1 s
  | .permb rd rs1 rs2 len => Sys2Proof.Machine.execPermb rd rs1 rs2 len s
  | .addi rd rs1 imm => Sys2Proof.Machine.execAddi rd rs1 imm s
  | .andi rd rs1 imm => Sys2Proof.Machine.execAndi rd rs1 imm s
  | .ori rd rs1 imm => Sys2Proof.Machine.execOri rd rs1 imm s
  | .xori rd rs1 imm => Sys2Proof.Machine.execXori rd rs1 imm s
  | .slti rd rs1 imm => Sys2Proof.Machine.execSlti rd rs1 imm s
  | .sltiu rd rs1 imm => Sys2Proof.Machine.execSltiu rd rs1 imm s
  | .slli rd rs1 amt => Sys2Proof.Machine.execSlli rd rs1 amt s
  | .srli rd rs1 amt => Sys2Proof.Machine.execSrli rd rs1 amt s
  | .srai rd rs1 amt => Sys2Proof.Machine.execSrai rd rs1 amt s
  | .lui rd imm => Sys2Proof.Machine.execLui rd imm s
  | .auipc rd imm => Sys2Proof.Machine.execAuipc rd imm s
  | .liw rd imm => Sys2Proof.Machine.execLiw rd imm s
  | .lih rd imm => Sys2Proof.Machine.execLih rd imm s
  | .addix rd rs1 imm => Sys2Proof.Machine.execAddix rd rs1 imm s
  | .bfext rd rs1 pos lenm1 => Sys2Proof.Machine.execBfext rd rs1 pos lenm1 s
  | .bfextS rd rs1 pos lenm1 => Sys2Proof.Machine.execBfextS rd rs1 pos lenm1 s
  | .bfins rd rs1 pos lenm1 => Sys2Proof.Machine.execBfins rd rs1 pos lenm1 s
  | .jmp off => Sys2Proof.Machine.execJmp off s
  | .call off => Sys2Proof.Machine.execCall off s
  | .jmpr rd rs1 imm => Sys2Proof.Machine.execJmpr rd rs1 imm s
  | .callr rs1 imm => Sys2Proof.Machine.execCallr rs1 imm s
  | .br rs1 rs2 cond off => Sys2Proof.Machine.execBr rs1 rs2 cond off s
  | .brz rs1 cond off => Sys2Proof.Machine.execBrz rs1 cond off s
  | .ret => Sys2Proof.Machine.execRet s
  | .lb rd rs1 imm => Sys2Proof.Machine.execLb rd rs1 imm s
  | .lbu rd rs1 imm => Sys2Proof.Machine.execLbu rd rs1 imm s
  | .lh rd rs1 imm => Sys2Proof.Machine.execLh rd rs1 imm s
  | .lhu rd rs1 imm => Sys2Proof.Machine.execLhu rd rs1 imm s
  | .lw rd rs1 imm => Sys2Proof.Machine.execLw rd rs1 imm s
  | .lwu rd rs1 imm => Sys2Proof.Machine.execLwu rd rs1 imm s
  | .ld rd rs1 imm => Sys2Proof.Machine.execLd rd rs1 imm s
  | .sb rs2 rs1 imm => Sys2Proof.Machine.execSb rs2 rs1 imm s
  | .sh rs2 rs1 imm => Sys2Proof.Machine.execSh rs2 rs1 imm s
  | .sw rs2 rs1 imm => Sys2Proof.Machine.execSw rs2 rs1 imm s
  | .sd rs2 rs1 imm => Sys2Proof.Machine.execSd rs2 rs1 imm s
  | .flh rd rs1 imm => Sys2Proof.Machine.execFlh rd rs1 imm s
  | .flw rd rs1 imm => Sys2Proof.Machine.execFlw rd rs1 imm s
  | .fld rd rs1 imm => Sys2Proof.Machine.execFld rd rs1 imm s
  | .fsh rs2 rs1 imm => Sys2Proof.Machine.execFsh rs2 rs1 imm s
  | .fsw rs2 rs1 imm => Sys2Proof.Machine.execFsw rs2 rs1 imm s
  | .fsd rs2 rs1 imm => Sys2Proof.Machine.execFsd rs2 rs1 imm s
  | .amoSwap rd rs1 rs2 d aq rl => Sys2Proof.Machine.execAmoSwap rd rs1 rs2 d aq rl s
  | .amoAdd rd rs1 rs2 d aq rl => Sys2Proof.Machine.execAmoAdd rd rs1 rs2 d aq rl s
  | .amoAnd rd rs1 rs2 d aq rl => Sys2Proof.Machine.execAmoAnd rd rs1 rs2 d aq rl s
  | .amoOr rd rs1 rs2 d aq rl => Sys2Proof.Machine.execAmoOr rd rs1 rs2 d aq rl s
  | .amoXor rd rs1 rs2 d aq rl => Sys2Proof.Machine.execAmoXor rd rs1 rs2 d aq rl s
  | .amoMin rd rs1 rs2 d aq rl => Sys2Proof.Machine.execAmoMin rd rs1 rs2 d aq rl s
  | .amoMax rd rs1 rs2 d aq rl => Sys2Proof.Machine.execAmoMax rd rs1 rs2 d aq rl s
  | .amoMinu rd rs1 rs2 d aq rl => Sys2Proof.Machine.execAmoMinu rd rs1 rs2 d aq rl s
  | .amoMaxu rd rs1 rs2 d aq rl => Sys2Proof.Machine.execAmoMaxu rd rs1 rs2 d aq rl s
  | .amoCas rd rs1 rs2 d aq rl => Sys2Proof.Machine.execAmoCas rd rs1 rs2 d aq rl s
  | .amoFaddS rd rs1 rs2 d aq rl => Sys2Proof.Machine.execAmoFaddS rd rs1 rs2 d aq rl s
  | .fadd fmt rd rs1 rs2 rm => Sys2Proof.Machine.execFadd fmt rd rs1 rs2 rm s
  | .fsub fmt rd rs1 rs2 rm => Sys2Proof.Machine.execFsub fmt rd rs1 rs2 rm s
  | .fmul fmt rd rs1 rs2 rm => Sys2Proof.Machine.execFmul fmt rd rs1 rs2 rm s
  | .fdiv fmt rd rs1 rs2 rm => Sys2Proof.Machine.execFdiv fmt rd rs1 rs2 rm s
  | .fsqrt fmt rd rs1 rm => Sys2Proof.Machine.execFsqrt fmt rd rs1 rm s
  | .fmin fmt rd rs1 rs2 rm => Sys2Proof.Machine.execFmin fmt rd rs1 rs2 rm s
  | .fmax fmt rd rs1 rs2 rm => Sys2Proof.Machine.execFmax fmt rd rs1 rs2 rm s
  | .fminm fmt rd rs1 rs2 rm => Sys2Proof.Machine.execFminm fmt rd rs1 rs2 rm s
  | .fmaxm fmt rd rs1 rs2 rm => Sys2Proof.Machine.execFmaxm fmt rd rs1 rs2 rm s
  | .fsgnj fmt rd rs1 rs2 rm => Sys2Proof.Machine.execFsgnj fmt rd rs1 rs2 rm s
  | .fsgnjn fmt rd rs1 rs2 rm => Sys2Proof.Machine.execFsgnjn fmt rd rs1 rs2 rm s
  | .fsgnjx fmt rd rs1 rs2 rm => Sys2Proof.Machine.execFsgnjx fmt rd rs1 rs2 rm s
  | .feq fmt rd rs1 rs2 rm => Sys2Proof.Machine.execFeq fmt rd rs1 rs2 rm s
  | .flt fmt rd rs1 rs2 rm => Sys2Proof.Machine.execFlt fmt rd rs1 rs2 rm s
  | .fle fmt rd rs1 rs2 rm => Sys2Proof.Machine.execFle fmt rd rs1 rs2 rm s
  | .fltq fmt rd rs1 rs2 rm => Sys2Proof.Machine.execFltq fmt rd rs1 rs2 rm s
  | .fleq fmt rd rs1 rs2 rm => Sys2Proof.Machine.execFleq fmt rd rs1 rs2 rm s
  | .fclass fmt rd rs1 rm => Sys2Proof.Machine.execFclass fmt rd rs1 rm s
  | .fcvtL fmt rd rs1 rm => Sys2Proof.Machine.execFcvtL fmt rd rs1 rm s
  | .fcvtLu fmt rd rs1 rm => Sys2Proof.Machine.execFcvtLu fmt rd rs1 rm s
  | .fcvtfL fmt rd rs1 rm => Sys2Proof.Machine.execFcvtfL fmt rd rs1 rm s
  | .fcvtfLu fmt rd rs1 rm => Sys2Proof.Machine.execFcvtfLu fmt rd rs1 rm s
  | .fcvtH fmt rd rs1 rm => Sys2Proof.Machine.execFcvtH fmt rd rs1 rm s
  | .fcvtS fmt rd rs1 rm => Sys2Proof.Machine.execFcvtS fmt rd rs1 rm s
  | .fcvtD fmt rd rs1 rm => Sys2Proof.Machine.execFcvtD fmt rd rs1 rm s
  | .frint fmt rd rs1 rm => Sys2Proof.Machine.execFrint fmt rd rs1 rm s
  | .frintx fmt rd rs1 rm => Sys2Proof.Machine.execFrintx fmt rd rs1 rm s
  | .frem fmt rd rs1 rs2 rm => Sys2Proof.Machine.execFrem fmt rd rs1 rs2 rm s
  | .fmvXf fmt rd rs1 rm => Sys2Proof.Machine.execFmvXf fmt rd rs1 rm s
  | .fmvFx fmt rd rs1 rm => Sys2Proof.Machine.execFmvFx fmt rd rs1 rm s
  | .fmadd fmt rd rs1 rs2 rs3 => Sys2Proof.Machine.execFmadd fmt rd rs1 rs2 rs3 s
  | .fmsub fmt rd rs1 rs2 rs3 => Sys2Proof.Machine.execFmsub fmt rd rs1 rs2 rs3 s
  | .fnmadd fmt rd rs1 rs2 rs3 => Sys2Proof.Machine.execFnmadd fmt rd rs1 rs2 rs3 s
  | .fnmsub fmt rd rs1 rs2 rs3 => Sys2Proof.Machine.execFnmsub fmt rd rs1 rs2 rs3 s
  | .evret => Sys2Proof.Machine.execEvret s
  | .gate n => Sys2Proof.Machine.execGate n s
  | .brk imm => Sys2Proof.Machine.execBrk imm s
  | .syncC => Sys2Proof.Machine.execSyncC s
  | .syncI => Sys2Proof.Machine.execSyncI s
  | .fence => Sys2Proof.Machine.execFence s
  | .fenceF => Sys2Proof.Machine.execFenceF s
  | .wspill => Sys2Proof.Machine.execWspill s
  | .wfill lv => Sys2Proof.Machine.execWfill lv s
  | .mfc rg creg => Sys2Proof.Machine.execMfc rg creg s
  | .mtc rg creg => Sys2Proof.Machine.execMtc rg creg s
  | .loopI rs1 len => Sys2Proof.Machine.execLoopI rs1 len s
  | .lbrk => Sys2Proof.Machine.execLbrk s
  | .eventEntry => Sys2Proof.Machine.execEventEntry s
  | .strandSwitch => Sys2Proof.Machine.execStrandSwitch s
  | .tld t rb rs fmt bs bsz bdir soff => Sys2Proof.Machine.execTld t rb rs fmt bs bsz bdir soff s
  | .tst t rb rs => Sys2Proof.Machine.execTst t rb rs s
  | .tldX t rb rs => Sys2Proof.Machine.execTldX t rb rs s
  | .tlda a rb rs int => Sys2Proof.Machine.execTlda a rb rs int s
  | .tsta a rb rs => Sys2Proof.Machine.execTsta a rb rs s
  | .tzero n acc => Sys2Proof.Machine.execTzero n acc s
  | .ttagw n acc rs1 => Sys2Proof.Machine.execTtagw n acc rs1 s
  | .ttagr rd n acc => Sys2Proof.Machine.execTtagr rd n acc s
  | .tsave lv => Sys2Proof.Machine.execTsave lv s
  | .tdet lv => Sys2Proof.Machine.execTdet lv s
  | .tatt lv rs1 => Sys2Proof.Machine.execTatt lv rs1 s
  | .trel => Sys2Proof.Machine.execTrel s
  | .tinfo rd lv => Sys2Proof.Machine.execTinfo rd lv s
  | .bankClaim => Sys2Proof.Machine.execBankClaim s
  | .lazySaveComplete => Sys2Proof.Machine.execLazySaveComplete s
  | .lazyRestoreComplete => Sys2Proof.Machine.execLazyRestoreComplete s
  | .tmma a ta tb ksel klen => Sys2Proof.Machine.execTmma a ta tb ksel klen s
  | .tmmaZ a ta tb ksel klen => Sys2Proof.Machine.execTmmaZ a ta tb ksel klen s
  | .tmmaR a ta tb ksel klen => Sys2Proof.Machine.execTmmaR a ta tb ksel klen s
  | .tmmaZr a ta tb ksel klen => Sys2Proof.Machine.execTmmaZr a ta tb ksel klen s
  | .tret a => Sys2Proof.Machine.execTret a s
  | .passStart => Sys2Proof.Machine.execPassStart s
  | .passComplete => Sys2Proof.Machine.execPassComplete s
  | .runnelRetirement => Sys2Proof.Machine.execRunnelRetirement s
  | .governorWindow => Sys2Proof.Machine.execGovernorWindow s
  | .tlend rs1 rs2 sz => Sys2Proof.Machine.execTlend rs1 rs2 sz s
  | .trecall => Sys2Proof.Machine.execTrecall s
  | .tgang sz => Sys2Proof.Machine.execTgang sz s
  | .gangFormed => Sys2Proof.Machine.execGangFormed s
  | .tungang => Sys2Proof.Machine.execTungang s
  | .tgld t rb rs fmt bs bsz bdir soff => Sys2Proof.Machine.execTgld t rb rs fmt bs bsz bdir soff s
  | .tglda a rb rs int => Sys2Proof.Machine.execTglda a rb rs int s
  | .tgsta a rb rs => Sys2Proof.Machine.execTgsta a rb rs s
  | .rillMov w => Sys2Proof.Machine.execRillMov w s
  | .rillAdd w => Sys2Proof.Machine.execRillAdd w s
  | .rillSub w => Sys2Proof.Machine.execRillSub w s
  | .rillMul w => Sys2Proof.Machine.execRillMul w s
  | .epi w => Sys2Proof.Machine.execEpi w s
  | .rillMin w => Sys2Proof.Machine.execRillMin w s
  | .rillMax w => Sys2Proof.Machine.execRillMax w s
  | .abs w => Sys2Proof.Machine.execAbs w s
  | .neg w => Sys2Proof.Machine.execNeg w s
  | .cmpeq w => Sys2Proof.Machine.execCmpeq w s
  | .cmplt w => Sys2Proof.Machine.execCmplt w s
  | .cmple w => Sys2Proof.Machine.execCmple w s
  | .selI w => Sys2Proof.Machine.execSelI w s
  | .rcp w => Sys2Proof.Machine.execRcp w s
  | .sqrt w => Sys2Proof.Machine.execSqrt w s
  | .rsqrt w => Sys2Proof.Machine.execRsqrt w s
  | .exp2 w => Sys2Proof.Machine.execExp2 w s
  | .log2 w => Sys2Proof.Machine.execLog2 w s
  | .exp w => Sys2Proof.Machine.execExp w s
  | .tanh w => Sys2Proof.Machine.execTanh w s
  | .sigm w => Sys2Proof.Machine.execSigm w s
  | .rillAnd w => Sys2Proof.Machine.execRillAnd w s
  | .rillOr w => Sys2Proof.Machine.execRillOr w s
  | .rillXor w => Sys2Proof.Machine.execRillXor w s
  | .rillAndn w => Sys2Proof.Machine.execRillAndn w s
  | .rillNot w => Sys2Proof.Machine.execRillNot w s
  | .shl w => Sys2Proof.Machine.execShl w s
  | .shrl w => Sys2Proof.Machine.execShrl w s
  | .shra w => Sys2Proof.Machine.execShra w s
  | .addw w => Sys2Proof.Machine.execAddw w s
  | .subw w => Sys2Proof.Machine.execSubw w s
  | .mulw w => Sys2Proof.Machine.execMulw w s
  | .perm w => Sys2Proof.Machine.execPerm w s
  | .rperm w => Sys2Proof.Machine.execRperm w s
  | .trn w => Sys2Proof.Machine.execTrn w s
  | .movc w => Sys2Proof.Machine.execMovc w s
  | .rred w => Sys2Proof.Machine.execRred w s
  | .credSum w => Sys2Proof.Machine.execCredSum w s
  | .credMax w => Sys2Proof.Machine.execCredMax w s
  | .credMin w => Sys2Proof.Machine.execCredMin w s
  | .credAmax w => Sys2Proof.Machine.execCredAmax w s
  | .credSsq w => Sys2Proof.Machine.execCredSsq w s
  | .credCnz w => Sys2Proof.Machine.execCredCnz w s
  | .cinit w => Sys2Proof.Machine.execCinit w s
  | .cdrain w => Sys2Proof.Machine.execCdrain w s
  | .rdrop => Sys2Proof.Machine.execRdrop s
  | .rsum rd sel => Sys2Proof.Machine.execRsum rd sel s
  | .rillOpComplete => Sys2Proof.Machine.execRillOpComplete s
  | .cisternOpComplete => Sys2Proof.Machine.execCisternOpComplete s
  | .runnelEntryFreed => Sys2Proof.Machine.execRunnelEntryFreed s
  | .dld d rs1 => Sys2Proof.Machine.execDld d rs1 s
  | .dst d rs1 => Sys2Proof.Machine.execDst d rs1 s
  | .dinv d => Sys2Proof.Machine.execDinv d s
  | .dsch rs1 nsm1 dbase dcntm1 => Sys2Proof.Machine.execDsch rs1 nsm1 dbase dcntm1 s
  | .dstat rd lv sel => Sys2Proof.Machine.execDstat rd lv sel s
  | .dkill lv => Sys2Proof.Machine.execDkill lv s
  | .chainStepIssue k lv => Sys2Proof.Machine.execChainStepIssue k lv s
  | .chainEnd k lv => Sys2Proof.Machine.execChainEnd k lv s
  | .vadd v => Sys2Proof.Machine.execVadd v s
  | .vsub v => Sys2Proof.Machine.execVsub v s
  | .vmul v => Sys2Proof.Machine.execVmul v s
  | .vfma v => Sys2Proof.Machine.execVfma v s
  | .vmin v => Sys2Proof.Machine.execVmin v s
  | .vmax v => Sys2Proof.Machine.execVmax v s
  | .vcvt v => Sys2Proof.Machine.execVcvt v s
  | .vrelu v => Sys2Proof.Machine.execVrelu v s
  | .wgo n rs1 => Sys2Proof.Machine.execWgo n rs1 s
  | .wstat rd n sel => Sys2Proof.Machine.execWstat rd n sel s
  | .wkill n => Sys2Proof.Machine.execWkill n s
  | .weevilPieceIssue n => Sys2Proof.Machine.execWeevilPieceIssue n s
  | .weevilPieceComplete n piece => Sys2Proof.Machine.execWeevilPieceComplete n piece s
  | .weevilDone n => Sys2Proof.Machine.execWeevilDone n s
  | .cflush rs1 imm => Sys2Proof.Machine.execCflush rs1 imm s
  | .cclean rs1 imm => Sys2Proof.Machine.execCclean rs1 imm s
  | .cinv rs1 imm => Sys2Proof.Machine.execCinv rs1 imm s
  | .cpre rs1 imm => Sys2Proof.Machine.execCpre rs1 imm s
  | .cfdrop => Sys2Proof.Machine.execCfdrop s
  | .l2Fill pa excl poison err data => Sys2Proof.Machine.execL2Fill pa excl poison err data s
  | .uncachedReadData k data err => Sys2Proof.Machine.execUncachedReadData k data err s
  | .snoop pa kind => Sys2Proof.Machine.execSnoop pa kind s
  | .writeAck pa => Sys2Proof.Machine.execWriteAck pa s
  | .prefetchRequest tr => Sys2Proof.Machine.execPrefetchRequest tr s
  | .streamRunTimeout tr => Sys2Proof.Machine.execStreamRunTimeout tr s
  | .wayCleanDone way => Sys2Proof.Machine.execWayCleanDone way s
  | .wayPowerUp way => Sys2Proof.Machine.execWayPowerUp way s
  | .errorCountWindow => Sys2Proof.Machine.execErrorCountWindow s
  | .cacheCmdClean => Sys2Proof.Machine.execCacheCmdClean s
  | .cacheCmdCleanInv => Sys2Proof.Machine.execCacheCmdCleanInv s
  | .cacheCmdDropFar => Sys2Proof.Machine.execCacheCmdDropFar s
  | .cacheCmdDone => Sys2Proof.Machine.execCacheCmdDone s
  | .l2pwrWrite v => Sys2Proof.Machine.execL2pwrWrite v s
  | .l2lockWrite v => Sys2Proof.Machine.execL2lockWrite v s
  | .ftlbw => Sys2Proof.Machine.execFtlbw s
  | .ftlbr => Sys2Proof.Machine.execFtlbr s
  | .ftlbi m rs1 => Sys2Proof.Machine.execFtlbi m rs1 s
  | .ntlbi m rs1 => Sys2Proof.Machine.execNtlbi m rs1 s
  | .ntlbiRequestReceived m asid va => Sys2Proof.Machine.execNtlbiRequestReceived m asid va s
  | .ntlbiCompletion => Sys2Proof.Machine.execNtlbiCompletion s
  | .fred rs1 rs2 rs3 => Sys2Proof.Machine.execFred rs1 rs2 rs3 s
  | .rwcfg w rs1 => Sys2Proof.Machine.execRwcfg w rs1 s
  | .rwstat rd w sel => Sys2Proof.Machine.execRwstat rd w sel s
  | .rwkill w => Sys2Proof.Machine.execRwkill w s
  | .qpush rs1 rs2 rs3 => Sys2Proof.Machine.execQpush rs1 rs2 rs3 s
  | .qpop rd rs1 => Sys2Proof.Machine.execQpop rd rs1 s
  | .qtry rd rs1 => Sys2Proof.Machine.execQtry rd rs1 s
  | .qrel rs1 => Sys2Proof.Machine.execQrel rs1 s
  | .qflush rs1 => Sys2Proof.Machine.execQflush rs1 s
  | .qcfg rs1 rs2 => Sys2Proof.Machine.execQcfg rs1 rs2 s
  | .qstat rd rs1 => Sys2Proof.Machine.execQstat rd rs1 s
  | .queueItemPoppable q => Sys2Proof.Machine.execQueueItemPoppable q s
  | .deferredChainStart q => Sys2Proof.Machine.execDeferredChainStart q s
  | .fwdResponse q code => Sys2Proof.Machine.execFwdResponse q code s
  | .descriptorFetch q => Sys2Proof.Machine.execDescriptorFetch q s
  | .dataFlitReceived f => Sys2Proof.Machine.execDataFlitReceived f s
  | .idleFlitReceived f => Sys2Proof.Machine.execIdleFlitReceived f s
  | .creditFlitReceived f => Sys2Proof.Machine.execCreditFlitReceived f s
  | .nackFlitReceived f => Sys2Proof.Machine.execNackFlitReceived f s
  | .initFlitReceived f => Sys2Proof.Machine.execInitFlitReceived f s
  | .idleSendTimer => Sys2Proof.Machine.execIdleSendTimer s
  | .replayTimeout => Sys2Proof.Machine.execReplayTimeout s
  | .nackResendTimer => Sys2Proof.Machine.execNackResendTimer s
  | .linkupRise ldly => Sys2Proof.Machine.execLinkupRise ldly s
  | .retrainTimeout => Sys2Proof.Machine.execRetrainTimeout s
  | .fldRequest m => Sys2Proof.Machine.execFldRequest m s
  | .fstRequest m => Sys2Proof.Machine.execFstRequest m s
  | .famoRequest m => Sys2Proof.Machine.execFamoRequest m s
  | .qpushRequest m => Sys2Proof.Machine.execQpushRequest m s
  | .redRequest m => Sys2Proof.Machine.execRedRequest m s
  | .sopen m => Sys2Proof.Machine.execSopen m s
  | .sclose m => Sys2Proof.Machine.execSclose m s
  | .sessionRecordFill sess => Sys2Proof.Machine.execSessionRecordFill sess s
  | .farResponse m => Sys2Proof.Machine.execFarResponse m s
  | .retransmitTimeout req => Sys2Proof.Machine.execRetransmitTimeout req s
  | .windowWatchdog w => Sys2Proof.Machine.execWindowWatchdog w s
  | .join m => Sys2Proof.Machine.execJoin m s
  | .joinrsp m => Sys2Proof.Machine.execJoinrsp m s
  | .joinRetryTimer => Sys2Proof.Machine.execJoinRetryTimer s
  | .tsyncSend => Sys2Proof.Machine.execTsyncSend s
  | .tsync m => Sys2Proof.Machine.execTsync m s
  | .abort m => Sys2Proof.Machine.execAbort m s
  | .jobAbortIn => Sys2Proof.Machine.execJobAbortIn s
  | .fireflyL2Step => Sys2Proof.Machine.execFireflyL2Step s
  | .fireflySpStep => Sys2Proof.Machine.execFireflySpStep s
  | .ckcmdGo banks => Sys2Proof.Machine.execCkcmdGo banks s
  | .checkpointDrainDone => Sys2Proof.Machine.execCheckpointDrainDone s
  | .checkpointBodyAcked => Sys2Proof.Machine.execCheckpointBodyAcked s
  | .checkpointDone => Sys2Proof.Machine.execCheckpointDone s
  | .eclrFatal => Sys2Proof.Machine.execEclrFatal s
  | .eclrCorr => Sys2Proof.Machine.execEclrCorr s
  | .abreq => Sys2Proof.Machine.execAbreq s
  | .dvfsWrite point => Sys2Proof.Machine.execDvfsWrite point s
  | .voltageSettled => Sys2Proof.Machine.execVoltageSettled s
  | .relock => Sys2Proof.Machine.execRelock s
  | .c1Entry => Sys2Proof.Machine.execC1Entry s
  | .c2Entry => Sys2Proof.Machine.execC2Entry s
  | .c2PowerUp => Sys2Proof.Machine.execC2PowerUp s
  | .creqC3 => Sys2Proof.Machine.execCreqC3 s
  | .creqC4 => Sys2Proof.Machine.execCreqC4 s
  | .creqWake => Sys2Proof.Machine.execCreqWake s
  | .c3Wake => Sys2Proof.Machine.execC3Wake s
  | .supplyWarning rail => Sys2Proof.Machine.execSupplyWarning rail s
  | .supplyRecovery => Sys2Proof.Machine.execSupplyRecovery s
  | .supplyResetThreshold rail => Sys2Proof.Machine.execSupplyResetThreshold rail s
  | .coldReset ser => Sys2Proof.Machine.execColdReset ser s
  | .warmReset => Sys2Proof.Machine.execWarmReset s
  | .jobReset => Sys2Proof.Machine.execJobReset s
  | .debugReset => Sys2Proof.Machine.execDebugReset s
  | .resetRequestInput kind => Sys2Proof.Machine.execResetRequestInput kind s
  | .rstreqWarm => Sys2Proof.Machine.execRstreqWarm s
  | .rstreqJob => Sys2Proof.Machine.execRstreqJob s
  | .rstreqDebug => Sys2Proof.Machine.execRstreqDebug s
  | .pfwFault => Sys2Proof.Machine.execPfwFault s
  | .defectWriteBack => Sys2Proof.Machine.execDefectWriteBack s
  | .wbNow => Sys2Proof.Machine.execWbNow s
  | .dieInterruptLine n level => Sys2Proof.Machine.execDieInterruptLine n level s
  | .strandTimer n => Sys2Proof.Machine.execStrandTimer n s
  | .swset vec => Sys2Proof.Machine.execSwset vec s
  | .tcmpWrite n hi v => Sys2Proof.Machine.execTcmpWrite n hi v s
  | .holdWrite v => Sys2Proof.Machine.execHoldWrite v s
  | .strdbgAccess req we hi v => Sys2Proof.Machine.execStrdbgAccess req we hi v s
  | .jreq req => Sys2Proof.Machine.execJreq req s
  | .semRead req n => Sys2Proof.Machine.execSemRead req n s
  | .semWrite req n v => Sys2Proof.Machine.execSemWrite req n v s
  | .dbin v => Sys2Proof.Machine.execDbin v s
  | .dbout v => Sys2Proof.Machine.execDbout v s
  | .cycloRead req => Sys2Proof.Machine.execCycloRead req s
  | .gtloRead req => Sys2Proof.Machine.execGtloRead req s
  | .telemetrySample => Sys2Proof.Machine.execTelemetrySample s
  | .mark req v => Sys2Proof.Machine.execMark req v s
  | .pop => Sys2Proof.Machine.execPop s
  | .registerWrite req off v => Sys2Proof.Machine.execRegisterWrite req off v s
  | .mgmtPortAccess port we off v => Sys2Proof.Machine.execMgmtPortAccess port we off v s
  | .regacc dr => Sys2Proof.Machine.execRegacc dr s
  | .dbgrst b => Sys2Proof.Machine.execDbgrst b s
  | .idcode => Sys2Proof.Machine.execIdcode s
  | .tstat => Sys2Proof.Machine.execTstat s
  | .bypass b => Sys2Proof.Machine.execBypass b s
  | .trstN => Sys2Proof.Machine.execTrstN s
  | .paLinkupFall => Sys2Proof.Machine.execPaLinkupFall s
  | .tileMoveComplete => Sys2Proof.Machine.execTileMoveComplete s
  | .bankZeroingDone => Sys2Proof.Machine.execBankZeroingDone s
  | .updateIr code => Sys2Proof.Machine.execUpdateIr code s
  | .gangStatusWord core st => Sys2Proof.Machine.execGangStatusWord core st s

end Sys2Proof.Machine
end

