-- ==== Sys2Proof/Machine/Fetch.lean ====
section
/-! DEFINITION. Instruction fetch: the words at the PC through the L1I, their decoding, and what an encoding that spells no instruction
raises (04, R84, R85, R90, R113; 13, R303, R310, R320, R321). -/

namespace Sys2Proof.Machine

open Sys2Proof

/-- How the fetch of a word ends: its value; nothing executes in this step. -/
abbrev Fetched := Except State (Nat × State)

/-- Put a 64-byte line with its data into the L1I; it holds no line while no way is usable. -/
def installL1I (s : State) (l64 : Nat) : State :=
  let set := l64 % 256
  match s.ms.l1i.pickWay 2 set s.l1iUsable with
  | none => s
  | some w =>
    (clearPlace s 1 set w).modArr .l1i (fun c =>
      c.put 2 { set := set, way := w, line := l64, far := false, st := .shared, data := s.near.getN (l64 * 64) 64 })

/-- A fetch that misses the L1I and the L2 takes one of the 4 L1I miss registers, or merges into the one of its line (R310). -/
def missL1I (s : State) (l64 : Nat) : Option State :=
  if s.ms.imiss.any (fun m => m.line == l64) then
    some (s.modMs (fun x => { x with imiss := x.imiss.map (fun q => if q.line == l64 then { q with n := q.n + 1 } else q) }))
  else if s.ms.imiss.length < 4 then
    (missL2 s (l64 / 2) false .demand false false []).map (fun s1 => s1.modMs (fun x => { x with imiss := x.imiss ++ [{ line := l64, n := 1 }] }))
  else none

/-- The L2 line moves into the L1I for a fetch of word `word` of the 64-byte line. -/
def fetchL2 (s : State) (k : StrandId) (l64 word : Nat) : Look :=
  match lookL2 s (l64 / 2) with
  | (none, s0) => .wait s0 none
  | (some l, s0) =>
    match meetWords s0 k l [l64 % 2 * 8 + word] with
    | .check s1 => .check s1
    | .again s1 => .wait (dropL1 s1 l.line) none
    | .ok s1 =>
      match lookPoison s1 k l.line with
      | some s2 => .check s2
      | none => .hit (moveMarks (installL1I ((mergeL1D s1 l.line).modArr .l2 (fun c => c.touch 4 l.set l.way)) l64) .l1i l l64)

/-- A fetch of a 64-byte Normal line (Table 13-2). -/
def fetchLine (s : State) (k : StrandId) (l64 word : Nat) : Look :=
  let line := l64 / 2
  match s.ms.l1i.find false l64 with
  | some q =>
    let s0 := meetTag s .l1i q.set q.way
    match s0.ms.l1i.find false l64 with
    | none => .wait s0 none
    | some l =>
      match meetData s0 k .l1i l word false (l64 * 64) with
      | .check s1 => .check s1
      | .again s1 => .wait s1 none
      | .ok s1 => .hit (s1.modArr .l1i (fun c => c.touch 2 l.set l.way))
  | none =>
    if (s.ms.l2.find false line).isSome then fetchL2 s k l64 word
    else if s.hasMerged k line then .wait s (some (.longMiss line))
    else
      match demandFind s line with
      | none => .wait s none
      | some (true, s1) => fetchL2 s1 k l64 word
      | some (false, s1) =>
        match missL1I s1 l64 with
        | none => .wait s1 none
        | some s2 => .wait (setMerged s2 k line) (some (.longMiss line))

/-- The word at a Normal address whose line has been looked up: an L1I line gives its own data, and while a store has changed the word since, it is
the old one or the new one (R113). [DESIGN CHOICE, log 31] -/
def fetchedWord (s : State) (pa : Nat) : Nat × State :=
  let new := leNat (s.near.getN pa 4)
  match (if pa % 4 = 0 then s.ms.l1i.find false (pa / 64) else none) with
  | none => (new, s)
  | some l =>
    let old := leNat ((l.data.drop (pa % 64)).take 4)
    if old = new then (new, s)
    else (if (Config.freeByte s.free 0).getLsbD 0 then new else old, { s with free := s.free + 1 })

/-- What the near port has answered the fetches of a strand is forgotten. -/
def endFetch (s : State) (k : StrandId) : State := dropReads s (.fetch k)

/-- The word of a Device or Uncached address is read at the near port, each time that it is fetched, and the strand waits for it; a Device word waits
for the strand's earlier near accesses (R305, R306, R466). [DESIGN CHOICE, log 140] -/
def fetchPort (s : State) (k : StrandId) (pa : Nat) (dev : Bool) : Fetched :=
  if dev && (nearBefore s k || devOpen s k) then .error s
  else
    match askPort s (.fetch k) pa 4 false true with
    | .wait s1 => .error (waitFor s1 k (some .device))
    | .got bad err s1 =>
      if bad || err then .error (consume30 (endFetch s1 k) k 0x15 (line128 pa) (some pa)) else .ok (leNat (s1.near.getN pa 4), s1)

/-- Fetch the word at an address of strand k (R325, R329). [DESIGN CHOICE, log 25] [DESIGN CHOICE, log 31] -/
def fetchWord (s : State) (k : StrandId) (va : Word) : Fetched :=
  if isWin va then .error (raise (endFetch s k) k (mkEv 0x04 va 0 .ul))
  else
    match translate s (s.xctx k) .fetch va with
    | .fault e s1 => .error (raise (endFetch s1 k) k e)
    | .check s1 => .error s1
    | .ok pa t s1 =>
      if t ≠ .normal then fetchPort s1 k pa (t == .device)
      else
        match fetchLine s1 k (pa / 64) (pa % 64 / 8) with
        | .wait s2 c => .error (waitFor s2 k c)
        | .check s2 => .error s2
        | .hit s2 => .ok (fetchedWord s2 pa)

/-- An encoding that spells no instruction raises 0x01 (R85). -/
def execIllegal (n : Nat) (s : State) : Out := .next (instr n false false s (fun _ s => illegal s))

/-- The instruction at the PC of the running strand is fetched, decoded and executed; what is to be taken first is taken (R481).
[DESIGN CHOICE, log 2] -/
def fetchRun (s : State) : Out :=
  match issuing s with
  | none => .next s
  | some k =>
    let pc := (s.str k).pc
    if (nextEvent s k).isSome || s.core.hold.getLsbD k.val then .next (boundary (endFetch s k) k)
    else
      match fetchWord s k pc with
      | .error s1 => .next s1
      | .ok (w, s0) =>
        if ! isExt w then
          let s1 := endFetch s0 k
          match decodeTableWord 32 w with | some i => exec i s1 | none => execIllegal 4 s1
        else
          match fetchWord s0 k (pc + 4) with
          | .error s2 => .next s2
          | .ok (b, s3) =>
            let s2 := endFetch s3 k
            match decodeTableWord 64 (w + b * 2 ^ 32) with | some i => exec i s2 | none => execIllegal 8 s2

/-- What a step does on an empty queue: one clock passes, an access that waits may be performed, and where the block fetches, the running strand's next instruction executes.
[DESIGN CHOICE, log 1] [DESIGN CHOICE, log 2] -/
def idleStep (s : State) : Out := if s.fetching then fetchRun (serveWait (tick s)) else .next (serveWait (tick s))

end Sys2Proof.Machine
end

