-- ==== Sys2Proof/Safety.lean ====
section
/-! DEFINITION. The vocabulary of the statements: frames, the shapes of instructions, what stands between the parts of a state,
and the invariants of a run. -/

namespace Sys2Proof.Machine

open Sys2Proof

/-! ### Frames -/

/-- Nothing but the strands differs. -/
def OnlyStrands (s t : State) : Prop := { t with strands := s.strands } = s

/-- Nothing but strand k differs: every memory, cache, queue, page and pin, and every other strand, is the same. -/
def OnlyStrand (k : StrandId) (s t : State) : Prop := OnlyStrands s t ∧ ∀ j : StrandId, j ≠ k → t.str j = s.str j

/-- What a register instruction leaves of a strand: STATUS, save sets, window position, numeric and translation registers, tile
contexts, chains, descriptor and chain slots, and what waits for the strand except a wait condition and a merged access of its own. -/
def SameControl (a b : Strand) : Prop :=
  b.status = a.status ∧ b.saves = a.saves ∧ b.win.wcur = a.win.wcur ∧ b.win.resw = a.win.resw ∧ b.num = a.num ∧ b.xl = a.xl
    ∧ b.ctx = a.ctx ∧ b.cslots = a.cslots ∧ b.dslots = a.dslots ∧ b.chains = a.chains
    ∧ { b.run with cond := a.run.cond, merged := a.run.merged } = a.run

/-- Every integer register but rd is the same: those that a specifier names, the copies of g15 of the other levels, and the registers and
the tag of every slot of the window ring. -/
def SameXBut (rd : RSpec) (a b : Strand) : Prop :=
  (∀ r : RSpec, xOk r = true → r ≠ rd → b.x r = a.x r)
    ∧ (∀ n : Fin 16, n.val ≠ rd.toNat → b.regs.g[n] = a.regs.g[n])
    ∧ (∀ j : Fin 3, ¬ (rd = 0x0F ∧ j = a.status.lvl.rank) → b.regs.g15[j] = a.regs.g15[j])
    ∧ ∀ w : Fin 12, (b.win.ring[w]).tag = (a.win.ring[w]).tag
      ∧ (∀ n : Fin 8, ¬ (w = a.win.wcur ∧ rd.toNat = 0x18 + n.val) → (b.win.ring[w]).l[n] = (a.win.ring[w]).l[n])
      ∧ ∀ n : Fin 8, ¬ (w = a.win.wcur ∧ rd.toNat = 0x20 + n.val) → ¬ (w = a.win.nextSlot ∧ rd.toNat = 0x10 + n.val) →
        (b.win.ring[w]).i[n] = (a.win.ring[w]).i[n]

/-- Every floating register but rd is the same. -/
def SameFBut (rd : RSpec) (a b : Strand) : Prop := ∀ r : RSpec, fOk r = true → r ≠ rd → b.f r = a.f r

/-- From s to t no strand differs but in the near-port read of an Uncached AMO, which a write to its location by the core itself makes start
again (R101). -/
def StrandsKept (s t : State) : Prop :=
  ∀ j : StrandId, { t.str j with run := { (t.str j).run with retBuf := (s.str j).run.retBuf, late := (s.str j).run.late } } = s.str j

/-! ### Answers -/

/-- The n-byte instruction of strand k completes with no other effect. -/
def completes (s : State) (k : StrandId) (n : Nat) : Out := .next (retire s k n)

/-- The n-byte instruction of strand k completes with integer rd := v. -/
def givesX (s : State) (k : StrandId) (n : Nat) (rd : RSpec) (v : Word) : Out := .next (retire (s.setX k rd v) k n)

/-- The 4-byte floating instruction of strand k completes with floating rd := r and its flags raised. -/
def givesF (s : State) (k : StrandId) (rd : RSpec) (r : FR) : Out := .next (retire ((s.setF k rd (w64 r.1)).raiseF k r.2) k 4)

/-- The instruction of strand k raises an event with a number, SVFA and INFO. -/
def raises (s : State) (k : StrandId) (num : BitVec 8) (fa : Word) (info : Nat) : Out := .next (raise s k (mkEv num fa info .ul))

/-- What an access of the register block by q leaves beside its effect (R445, R463): the port served last, and REGACC done. -/
def servedBy (q : Req) (s : State) : State :=
  let s1 := noteServed q s
  if q = .tap then { s1 with tap := { s1.tap with denied := false, dataDone := true } } else s1

/-! ### Shapes -/

/-- The instructions that write one integer register from integer operands: bytes, destination, sources. -/
def intShape : Instr → Option (Nat × RSpec × List RSpec)
  | .add rd a b | .sub rd a b | .and rd a b | .or rd a b | .xor rd a b | .andn rd a b | .sll rd a b | .srl rd a b | .sra rd a b
  | .slt rd a b | .sltu rd a b | .min rd a b | .max rd a b | .minu rd a b | .maxu rd a b | .mul rd a b | .mulxSs rd a b
  | .mulxUu rd a b | .mulxSu rd a b | .div rd a b | .divu rd a b | .rem rd a b | .remu rd a b | .permb rd a b _ =>
    some (4, rd, [a, b])
  | .clz rd a | .ctz rd a | .popc rd a | .addi rd a _ | .andi rd a _ | .ori rd a _ | .xori rd a _ | .slti rd a _ | .sltiu rd a _
  | .slli rd a _ | .srli rd a _ | .srai rd a _ | .bfext rd a _ _ | .bfextS rd a _ _ | .bfins rd a _ _ => some (4, rd, [a])
  | .lui rd _ | .auipc rd _ => some (4, rd, [])
  | .liw rd _ | .lih rd _ => some (8, rd, [])
  | .addix rd a _ => some (8, rd, [a])
  | _ => none

/-- The floating instructions with a rounding-mode field: destination, sources, rm. -/
def floatShape : Instr → Option (RSpec × List RSpec × BitVec 3)
  | .fadd _ rd a b m | .fsub _ rd a b m | .fmul _ rd a b m | .fdiv _ rd a b m => some (rd, [a, b], m)
  | .fsqrt _ rd a m | .frint _ rd a m | .frintx _ rd a m => some (rd, [a], m)
  | .fmin _ rd a b m | .fmax _ rd a b m | .fminm _ rd a b m | .fmaxm _ rd a b m | .fsgnj _ rd a b m | .fsgnjn _ rd a b m
  | .fsgnjx _ rd a b m | .frem _ rd a b m => some (rd, [a, b], m)
  | _ => none

/-- The instructions that may not stand at END of an active loop (R116). -/
def barredAtEnd : Instr → Bool
  | .jmp _ | .call _ | .jmpr _ _ _ | .callr _ _ | .br _ _ _ _ | .brz _ _ _ | .ret | .loopI _ _ | .lbrk | .evret | .gate _ | .brk _ => true
  | _ => false

/-! ### Places and entries -/

/-- An access of n bytes at ea by strand k at ML, with translation off, within one 8-byte word of near Normal memory that is neither
the window nor the core's own register block. -/
def NearMl (s : State) (k : StrandId) (ea : Word) (n : Nat) : Prop :=
  (s.str k).status.lvl = .ml ∧ (s.str k).xl.ptb.getLsbD 0 = false ∧ ea.toNat < 2 ^ 48 ∧ isWin ea = false ∧ winPart ea n = false
    ∧ s.mtype ea.toNat = .normal ∧ s.ownBlock ea.toNat = false ∧ ea.toNat % 8 + n ≤ 8 ∧ 1 ≤ n

/-- Nothing that strand k has in progress stands before its access of n bytes at address a of the scratchpad (sp) or of near memory, a
store when wr says so: no Device write that is still to be acknowledged (R305), no earlier tile move of its own over those bytes (R102), for
a window store no checkpoint (R409), and no save frame whose contents are unpredictable in those bytes (R150). -/
def AccessFree (s : State) (k : StrandId) (sp wr : Bool) (a n : Nat) : Prop :=
  devOpen s k = false ∧ moveHits s k sp wr a n = false ∧ (sp = true → wr = true → s.ckHold = false)
    ∧ s.framesHit k ((if sp then spw else 0) + a) n = false

/-- A read by strand k of n bytes of a table at pa, for virtual address va, is answered at once: its line is in the L2, or the near port has
answered the read of a table that does not go through the caches (R304, R332). -/
def TableHeld (s : State) (k : StrandId) (va : Word) (pa n : Nat) : Prop :=
  (s.mtype pa = .normal → (s.ms.l2.find false (pa / 128)).isSome = true)
    ∧ (s.mtype pa ≠ .normal → ∃ r : PRead, s.ms.preads.find? (fun r => r.who == .table k va && r.pa == pa && r.n == n) = some r
        ∧ r.done = true ∧ r.poison = false ∧ r.err = false)

/-- The bytes of a near gather piece are there: the L2 or the side buffer holds their line, or the near port has answered the piece's read
(R295, R314, R466). -/
def PieceHeld (s : State) (n : Fin 4) (p : Piece) : Prop :=
  (s.ms.l2.find false (p.pa / 128)).isSome = true
    ∨ (s.ms.l2.find false (p.pa / 128) = none ∧ s.ms.evbuf.any (fun q => q.line == p.pa / 128) = false
      ∧ (s.ms.side.contains (p.pa / 128) = true ∨ (s.ms.side.contains (p.pa / 128) = false
        ∧ ∃ r : PRead, s.ms.preads.find? (fun r => r.who == .piece n p.id && r.pa == p.pa && r.n == p.len) = some r
          ∧ r.done = true ∧ r.poison = false ∧ r.err = false)))

/-- An agent's read of n bytes at pa, within one line, is answered at once: no copy of the line leaves the L2, and the L2 or the side buffer
holds it, or the near port has answered that read (R295, R314, R376, R466). -/
def AgentHeld (s : State) (who : PWho) (pa n : Nat) : Prop :=
  s.ms.evbuf.any (fun q => q.line == pa / 128) = false
    ∧ ((s.ms.l2.find false (pa / 128)).isSome = true
      ∨ (s.ms.l2.find false (pa / 128) = none ∧ s.mshrOf (pa / 128) = none
        ∧ (s.ms.side.contains (pa / 128) = true ∨ (s.ms.side.contains (pa / 128) = false
          ∧ ∃ r : PRead, s.ms.preads.find? (fun r => r.who == who && r.pa == pa && r.n == n) = some r
            ∧ r.done = true ∧ r.poison = false ∧ r.err = false))))

/-- What event entry of a number at ML needs: no pending write, an EDT entry that is read at once, a free window, room on the machine save
stack, and no error waiting. -/
def MlEntryOk (s : State) (k : StrandId) (num : Nat) (d : EdtE) : Prop :=
  (s.str k).run.pend = Pend.none ∧ s.edt num = some d ∧ TableHeld s k (w64 (s.edtAddr num)) (s.edtAddr num) 32 ∧ 1 ≤ (s.str k).win.free ∧ (s.str k).mssFrames < 8
    ∧ s.marks = []

/-- A window has been opened for level y (R48, Table 2-7): WCUR and RESW go up by one, the slot made current takes the tag y, and every slot
keeps its l and i registers, every other slot its tag. -/
def WindowOpened (a b : Strand) (y : Lvl) : Prop :=
  b.win.wcur = a.win.wcur + 1 ∧ b.win.resw = a.win.resw + 1
    ∧ ∀ w : Fin 12, (b.win.ring[w]).l = (a.win.ring[w]).l ∧ (b.win.ring[w]).i = (a.win.ring[w]).i
      ∧ (b.win.ring[w]).tag = if w = a.win.wcur + 1 then y else (a.win.ring[w]).tag

/-- The FTLB staging registers after an entry with a number, for an address fa: an FTLB miss sets IDX to VICT, FTLO to 0 and the VPN of FTHI
(R342); any other event, but a gather fault, leaves them, and no event writes PTB or ASID. -/
def StagedFor (s : State) (a b : Strand) (num : Nat) (fa : Word) : Prop :=
  b.xl.ptb = a.xl.ptb ∧ b.xl.asid = a.xl.asid
    ∧ (num = 0x0B → b.xl.idx = s.ms.vict ∧ b.xl.ftlo = 0 ∧ bits b.xl.fthi.toNat 47 0 = bits fa.toNat 61 24)
    ∧ (num ≠ 0x0B → num ≠ 0x1D → b.xl = a.xl)

/-- What event entry at ML leaves (R66, R69, R342): the machine save set, a new window of tag ML, STATUS, no loops, the handler's PC, the
staging registers after an FTLB miss; the frame beneath, the other registers and all of memory as they were. -/
def EnteredMl (s t : State) (k : StrandId) (num : Nat) (fa : Word) (info : Nat) (rpc : Word) (d : EdtE) : Prop :=
  let a := s.str k
  let b := t.str k
  b.pc = d.handler &&& ~~~(3 : Word) ∧ b.saves.m.save.pc = rpc ∧ b.saves.m.save.st = statusWord k a ∧ b.saves.m.save.fa = fa
    ∧ bits b.saves.m.save.ca.toNat 7 0 = num % 256 ∧ bits b.saves.m.save.ca.toNat 31 16 = info % 65536
    ∧ tbit b.saves.m.save.ca.toNat 36 = ! a.loops.isEmpty ∧ tbit b.saves.m.save.ca.toNat 37 = false
    ∧ b.saves.m.loops = a.loops ∧ b.saves.mV = true ∧ b.mssFrames = a.mssFrames + 1
    ∧ (a.saves.mV = true → b.saves.mOld = a.saves.m :: a.saves.mOld)
    ∧ b.saves.u = a.saves.u ∧ b.saves.s = a.saves.s ∧ b.loops = []
    ∧ b.status = { a.status with lvl := .ml, ie := if d.kie then a.status.ie else false }
    ∧ WindowOpened a b .ml ∧ StagedFor s a b num fa
    ∧ b.regs = a.regs ∧ b.fctl = a.fctl ∧ b.num = a.num ∧ t.near = s.near ∧ t.spad = s.spad
    ∧ ∀ j : StrandId, j ≠ k → t.str j = s.str j

/-- What event entry of a number at SL needs when nothing is pushed: no pending write, an EDT entry that is read at once, two free windows,
no save set of SL and no loop, and no error waiting. -/
def SlEntryOk (s : State) (k : StrandId) (num : Nat) (d : EdtE) : Prop :=
  (s.str k).run.pend = Pend.none ∧ s.edt num = some d ∧ TableHeld s k (w64 (s.edtAddr num)) (s.edtAddr num) 32 ∧ 2 ≤ (s.str k).win.free ∧ s.marks = []
    ∧ (s.str k).svV .sl = false ∧ (s.str k).loops = []

/-- What event entry at SL leaves when nothing is pushed (R66, R342): the registers SVPC.S, SVST.S, SVCA.S and SVFA.S, a new window of tag
SL, STATUS, the handler's PC, the staging registers after an FTLB miss; the save sets of the other levels, the registers and all of memory as they were. -/
def EnteredSl (s t : State) (k : StrandId) (num : Nat) (fa : Word) (info : Nat) (rpc : Word) (d : EdtE) : Prop :=
  let a := s.str k
  let b := t.str k
  b.pc = d.handler &&& ~~~(3 : Word) ∧ b.saves.s.pc = rpc ∧ b.saves.s.st = statusWord k a ∧ b.saves.s.fa = fa ∧ b.svV .sl = true
    ∧ bits b.saves.s.ca.toNat 7 0 = num % 256 ∧ bits b.saves.s.ca.toNat 31 16 = info % 65536
    ∧ b.saves.u = a.saves.u ∧ b.saves.m = a.saves.m ∧ b.saves.mOld = a.saves.mOld
    ∧ b.status = { a.status with lvl := .sl, ie := if d.kie then a.status.ie else false }
    ∧ WindowOpened a b .sl ∧ StagedFor s a b num fa
    ∧ b.regs.g = a.regs.g ∧ b.regs.g15 = a.regs.g15 ∧ b.regs.f = a.regs.f ∧ b.fctl = a.fctl ∧ b.num = a.num
    ∧ t.near = s.near ∧ t.spad = s.spad ∧ ∀ j : StrandId, j ≠ k → t.str j = s.str j

/-! ### Tile work -/

/-- Strand k can dispatch a tile instruction of its own context c, which is RESIDENT, at once: no chain of the context, checkpoint, gang
or job abort stands in its way, no operation is in progress and no error waits. -/
def TileReady (s : State) (k : StrandId) (c : CtxId) : Prop :=
  Ready s k 8 ∧ c = { k := k, lv := (s.str k).status.lvl } ∧ s.rel.aborted = false ∧ (s.chainOf c).active = false
    ∧ s.ckHold = false ∧ s.tiles.tmu.gang.forming = none ∧ s.lentHold c = false ∧ (s.ctxOf c).st = .resident
    ∧ s.tiles.inflight = [] ∧ s.marks = []

/-- n rows of len bytes from rb, a stride apart, in the scratchpad window, with an aligned base and stride. -/
def SpadRows (s : State) (rb st : Word) (n len : Nat) : Prop :=
  rb.toNat % 16 = 0 ∧ st.toNat % 16 = 0 ∧ 0 < len ∧ ∀ r : Nat, r < n →
    spw ≤ (rb + st * w64 r).toNat ∧ (rb + st * w64 r).toNat + len ≤ spw + s.spadSize

/-- The scratchpad offset of row r. -/
def rowOff (rb st : Word) (r : Nat) : Nat := (rb + st * w64 r).toNat - spw

/-- The pieces of n rows of len bytes at scratchpad offsets. -/
def spadPieces (off : Nat → Nat) (n len : Nat) : List MvPiece := (List.range n).map (fun r => { pl := .sp, a := off r, n := len, va := spw + off r })

/-- The bytes of n rows of len bytes at scratchpad offsets. -/
def spadRows (s : State) (off : Nat → Nat) (n len : Nat) : List (List Byte) := (List.range n).map (fun r => s.spad.dense (off r) len)

/-- The stride of a whole move: rs, or the row length when rs is g0. -/
def strideOf (s : State) (k : StrandId) (rs : RSpec) (len : Nat) : Word := if rs = 0 then w64 len else (s.str k).x rs

/-- The save frame of context c lies in the scratchpad, from offset off on. -/
def FrameAt (s : State) (c : CtxId) (off : Nat) : Prop := (s.ctxOf c).fa.toNat = spw + off ∧ off + frameLen ≤ s.spadSize

/-- The registers of a bank lie in memory m as the frame at offset off lays them out (Table 6-8). -/
def FrameRegs (shape : BitVec 2) (m : Mem) (off : Nat) (b : Mem) : Prop :=
  ∀ n ∈ regNums shape, ∀ i : Nat, i < regLen shape n → m.get (off + regOff n + i) = b.get (regOff n + i)

/-- From s to u the one operation o has been dispatched: it is in progress, the banks, memories and registers are as they were, and only
the stamp of the tile context has moved. -/
def Dispatched (s u : State) (o : TOp) : Prop :=
  u.tiles.inflight = [o] ∧ o.id = s.tiles.stamp ∧ u.tiles.stamp = s.tiles.stamp + 1 ∧ u.tiles.banks = s.tiles.banks
    ∧ u.spad = s.spad ∧ u.near = s.near ∧ u.home = s.home ∧ u.far = s.far ∧ u.queues = s.queues
    ∧ ∀ j : StrandId, { u.str j with ctx := (s.str j).ctx } = s.str j

/-! ### The element engine -/

/-- The operations of group 0x3A with their xop (Table 10-4) and their words. -/
def rillXop : Instr → Option (Nat × RillWords)
  | .rillMov w => some (0x00, w)
  | .rillAdd w => some (0x01, w)
  | .rillSub w => some (0x02, w)
  | .rillMul w => some (0x03, w)
  | .epi w => some (0x04, w)
  | .rillMin w => some (0x05, w)
  | .rillMax w => some (0x06, w)
  | .abs w => some (0x07, w)
  | .neg w => some (0x08, w)
  | .cmpeq w => some (0x09, w)
  | .cmplt w => some (0x0A, w)
  | .cmple w => some (0x0B, w)
  | .selI w => some (0x0C, w)
  | .rcp w => some (0x10, w)
  | .sqrt w => some (0x11, w)
  | .rsqrt w => some (0x12, w)
  | .exp2 w => some (0x13, w)
  | .log2 w => some (0x14, w)
  | .exp w => some (0x15, w)
  | .tanh w => some (0x16, w)
  | .sigm w => some (0x17, w)
  | .rillAnd w => some (0x20, w)
  | .rillOr w => some (0x21, w)
  | .rillXor w => some (0x22, w)
  | .rillAndn w => some (0x23, w)
  | .rillNot w => some (0x24, w)
  | .shl w => some (0x25, w)
  | .shrl w => some (0x26, w)
  | .shra w => some (0x27, w)
  | .addw w => some (0x28, w)
  | .subw w => some (0x29, w)
  | .mulw w => some (0x2A, w)
  | .perm w => some (0x30, w)
  | .rperm w => some (0x31, w)
  | .trn w => some (0x32, w)
  | .movc w => some (0x33, w)
  | .rred w => some (0x40, w)
  | .credSum w => some (0x48, w)
  | .credMax w => some (0x49, w)
  | .credMin w => some (0x4A, w)
  | .credAmax w => some (0x4B, w)
  | .credSsq w => some (0x4C, w)
  | .credCnz w => some (0x4D, w)
  | .cinit w => some (0x4E, w)
  | .cdrain w => some (0x4F, w)
  | _ => none

/-- The source locators of words that name the Runnel; the third one of CRED.AMAX is a number. -/
def runnelLocs (s : State) (k : StrandId) (xop : Nat) (w : RillWords) : List Word :=
  ([(s.str k).x w.l1, (s.str k).x w.l2] ++ (if xop = 0x4B then [] else [(s.str k).x w.l3])).filter (fun l => locKind l == 3)

/-- The operation that words of xop dispatch from strand k: its locators, the tags of its TILE sources, and the entry at the head of its
context's Runnel queue when a source names the Runnel (R244). -/
def rillOpOf (s : State) (k : StrandId) (c : CtxId) (xop : Nat) (w : RillWords) : RillOp :=
  let x := fun (r : RSpec) => (s.str k).x r
  let tagOf := fun (l : Word) => if locKind l = 1 then w64 (tagIn (s.bank c) (locReg l)) else 0
  { xop := xop, ts := w.ts, modf := w.modf, n := w.lenm1.toNat + 1, shape := (s.str k).num.tshape, prof := s.core.prof,
    ld := x w.ld, s1 := x w.l1, s2 := x w.l2, s3 := x w.l3, tag1 := tagOf (x w.l1), tag2 := tagOf (x w.l2),
    tag3 := if xop = 0x4B then 0 else tagOf (x w.l3), entry := if (runnelLocs s k xop w).isEmpty then none else runnelHead s c,
    keep := (runnelLocs s k xop w).any locKeep, got := none }

/-- The four specifiers of the words are integer registers. -/
def wordsX (w : RillWords) : Bool := xOk w.ld && xOk w.l1 && xOk w.l2 && xOk w.l3

/-- The vector instructions of group 0x3F: the xop and MOD of the operation each stands for, whether it has a second and a third
source, whether it has a format of its own for the destination, and its words (R280). -/
def vecShape : Instr → Option (Nat × Nat × Bool × Bool × Bool × VecWords)
  | .vadd v => some (0x01, 0x00, true, false, false, v)
  | .vsub v => some (0x02, 0x00, true, false, false, v)
  | .vmul v => some (0x03, 0x00, true, false, false, v)
  | .vfma v => some (0x04, 0x00, true, true, false, v)
  | .vmin v => some (0x05, 0x00, true, false, false, v)
  | .vmax v => some (0x06, 0x00, true, false, false, v)
  | .vcvt v => some (0x00, 0x00, false, false, true, v)
  | .vrelu v => some (0x04, 0x20, false, false, false, v)
  | _ => none

/-- The words of a vector instruction keep to their fields: integer specifiers, admitted formats, and 0 where it has no field. -/
def vecWordsOk (v : VecWords) (three cvt : Bool) : Bool :=
  xOk v.rd && xOk v.rs1 && xOk v.rs2 && xOk v.rs3 && xOk v.rn && vecFmt v.fmt && vecFmt v.fmtd && (cvt || v.fmtd == 0)
    && (three || v.rs3 == 0)

/-- The operation that a vector instruction of n elements dispatches: linear scratchpad operands at the window addresses of its
registers. -/
def vecOpOf (s : State) (k : StrandId) (xop modf n : Nat) (two three cvt : Bool) (v : VecWords) : RillOp :=
  let x := fun (r : RSpec) => (s.str k).x r
  { xop := xop, ts := false, modf := BitVec.ofNat 8 modf, n := n, shape := (s.str k).num.tshape, prof := s.core.prof,
    ld := vecLoc (if cvt then v.fmtd else v.fmt) (x v.rd), s1 := vecLoc v.fmt (x v.rs1),
    s2 := if two then vecLoc v.fmt (x v.rs2) else 0, s3 := if three then vecLoc v.fmt (x v.rs3) else 0,
    tag1 := 0, tag2 := 0, tag3 := 0, entry := none, keep := false, got := none }

/-- A linear INT32 locator at a scratchpad offset. -/
def splI32 (off : Nat) : Word := w64 (fld 5 60 + fld 0xB 56 + off)

/-- A linear operation of n INT32 elements with scratchpad operands. -/
def linOp (xop n d a b : Nat) : RillOp :=
  { xop := xop, ts := false, modf := 0, n := n, shape := 0b11, prof := 0b11, ld := splI32 d, s1 := splI32 a, s2 := splI32 b, s3 := 0,
    tag1 := 0, tag2 := 0, tag3 := 0, entry := none, keep := false, got := none }

/-! ### Invariants -/

/-- The addressed memories of the block are in canonical form: near memory, what the die network holds, the scratchpad, the
banks and the Runnel. -/
def Canon (s : State) : Prop :=
  Memory.wf s.near = true ∧ Memory.wf s.home = true ∧ Memory.wf s.spad = true
    ∧ (∀ b ∈ s.tiles.banks.toList, Memory.wf b.cells = true) ∧ (∀ e ∈ s.tiles.runnel.toList, Memory.wf e.data = true)

/-- The bounds of R48 and R69: 1 to 11 resident windows, and at most 8 frames on the machine save stack. -/
def StrandOk (t : Strand) : Prop :=
  1 ≤ t.win.resw ∧ t.win.resw ≤ 11 ∧ t.saves.mOld.length ≤ 7 ∧ (t.saves.mV = false → t.saves.mOld = [])

/-- The requests of the far port have numbers below the next number. -/
def FreshReqs (s : State) : Prop := ∀ r ∈ s.far.reqs, r.id < s.far.nextReq

/-- Every strand is within its bounds, and the numbers of the far port's requests are below the next. -/
def Bounded (s : State) : Prop := (∀ k : StrandId, StrandOk (s.str k)) ∧ FreshReqs s

end Sys2Proof.Machine
end

