-- ==== Sys2Proof/Certificates/Slice0/Obligations.lean ====
section
/-! DEFINITION. The statements for the provers. Each docstring names the rules of spec/ that its statement formalises; what rests
on a choice of the model says so and names the log entry. -/

open Sys2Proof Sys2Proof.Machine

/-! ### The machine -/

/-- A step takes the command at the front of the queue, and no command changes the rest of it (the model's queue form). On an empty queue
one clock passes, and the waiting register access whose turn it is, if any, is performed (R445); where the block fetches, the words at the PC of the running strand are then read, through the L1I when it holds their
line, and the instruction that they spell executes; words that spell none raise 0x01 (R84, R85, R90).
That a step with no command is one clock, and that the block's own fetch runs only when asked for, is the model's form (DESIGN CHOICE,
notes/assumptions/1.md and 2.md). -/
def Obligations.StepRunsFrontCommand : Prop :=
  (∀ (c : Instr) (rest : List Instr) (s : State), step { s with pending := c :: rest } = exec c { s with pending := rest })
  ∧ (∀ (c : Instr) (s t : State), exec c s = .next t → t.pending = s.pending)
  ∧ (∀ s : State, s.pending = [] → s.fetching = false → step s = .next (serveWait (tick s)))
  ∧ ∀ (s : State) (k : StrandId), s.pending = [] → s.fetching = true →
    let u := serveWait (tick s)
    let pc := (u.str k).pc
    issuing u = some k → nextEvent u k = none → u.core.hold.getLsbD k.val = false →
      (∀ (w : Nat) (v : State), fetchWord u k pc = .ok (w, v) → isExt w = false →
        (∀ i : Instr, decodeTableWord 32 w = some i → step s = exec i (endFetch v k))
        ∧ (decodeTableWord 32 w = none → Ready (endFetch v k) k 4 → step s = raises (endFetch v k) k 0x01 0 0))
      ∧ (∀ (w b : Nat) (v y : State), fetchWord u k pc = .ok (w, v) → isExt w = true → fetchWord v k (pc + 4) = .ok (b, y) →
        (∀ i : Instr, decodeTableWord 64 (w + b * 2 ^ 32) = some i → step s = exec i (endFetch y k))
        ∧ (decodeTableWord 64 (w + b * 2 ^ 32) = none → Ready (endFetch y k) k 8 → step s = raises (endFetch y k) k 0x01 0 0))
      ∧ (isWin pc = true → step s = raises (endFetch u k) k 0x04 pc 0)
      ∧ (∀ l : Line, NearMl u k pc 4 → u.marks = [] → pc.toNat % 4 = 0 → u.ms.l1i.find false (pc.toNat / 64) = some l →
        leNat ((l.data.drop (pc.toNat % 64)).take 4) = leNat (u.near.getN pc.toNat 4) →
        ∃ v : State, fetchWord u k pc = .ok (leNat (u.near.getN pc.toNat 4), v) ∧ v.near = u.near ∧ v.strands = u.strands)

/-- Every step keeps the addressed memories in their canonical form. -/
def Obligations.MemoryStaysCanonical : Prop := ∀ s t : State, Canon s → step s = .next t → Canon t

/-- Every step keeps every strand within 1 to 11 resident windows (R48) and at most 8 frames on its machine save stack (R69), and the
model's numbers of far requests below the next number. -/
def Obligations.BoundsAreKept : Prop := ∀ s t : State, Bounded s → step s = .next t → Bounded t

/-- What the tables give for reset: strand 0 runs at ML and the others are stopped and held (R44); STATUS has IE, SAP and SEP 0,
WCUR 0 and RESW 1 (Table 2-11); no save set, loop or pending write stands; TSHAPE and NPROF are 0b11; queues, sessions and
requests are empty; the join state is UNJOINED and the link DOWN; no vector is enabled; no error record is held. Both invariants
hold. The boot vector 0 is the model's image (notes/assumptions/5.md). -/
def Obligations.ResetState : Prop :=
  let s := State.reset
  s.core.cur = some 0 ∧ s.core.hold = 0b1110 ∧ s.core.halted = false
    ∧ (s.str 0).run.st = .running ∧ (∀ k : StrandId, k ≠ 0 → (s.str k).run.st = .stopped)
    ∧ (∀ k : StrandId,
        (s.str k).status = { lvl := .ml, sap := false, sep := false, ie := false } ∧ (s.str k).win.wcur = 0
        ∧ (s.str k).win.resw = 1 ∧ (s.str k).saves.mV = false ∧ (s.str k).loops = [] ∧ (s.str k).run.pend = Pend.none
        ∧ (s.str k).num.tshape = 0b11 ∧ (∀ y : Lvl, (s.ctxOf { k := k, lv := y }).st = .none ∧ (s.chainOf { k := k, lv := y }).st = .idle)
        ∧ (∀ d : Fin 64, ((s.str k).dslots[d]).valid = false))
    ∧ s.core.edtb.getLsbD 0 = false ∧ s.core.prof = 0b11 ∧ (∀ n : Fin 4, (s.weevils[n]).st = .idle)
    ∧ s.far.regs.jstate = .unjoined ∧ s.far.regs.lstate = .down ∧ s.far.reqs = [] ∧ s.far.tgt = [] ∧ s.queues.hot = []
    ∧ (∀ v : Fin 192, (s.intu.vcfg[v]).en = false) ∧ s.rel.frozen = false ∧ s.rel.aborted = false ∧ s.pwr.point = 0b10
    ∧ s.pending = [] ∧ Canon s ∧ Bounded s

/-! ### Instructions in general -/

/-- The completion of an instruction (R115): with no loop active the PC moves past it; at END of the innermost loop COUNT goes
down by one and the PC returns to START, or the loop ends and, when it was the only one, the PC moves past the instruction;
elsewhere the loop is untouched. A control transfer leaves the loops as they are. -/
def Obligations.CompletionStepsTheLoop : Prop :=
  ∀ (s : State) (k : StrandId) (n : Nat), n = 4 ∨ n = 8 →
    let t := s.str k
    let u := (retire s k n).str k
    (t.loops = [] → u.pc = t.pc + w64 n ∧ u.loops = [])
    ∧ (∀ o : Loop, t.loops = [o] → holdsWord t.pc n o.last = true → o.count ≠ 1 →
        u.pc = o.start ∧ u.loops = [{ o with count := o.count - 1 }])
    ∧ (∀ o : Loop, t.loops = [o] → holdsWord t.pc n o.last = true → o.count = 1 → u.pc = t.pc + w64 n ∧ u.loops = [])
    ∧ (∀ o i : Loop, t.loops = [o, i] → holdsWord t.pc n i.last = true → i.count ≠ 1 →
        u.pc = i.start ∧ u.loops = [o, { i with count := i.count - 1 }])
    ∧ (∀ o i : Loop, t.loops = [o, i] → holdsWord t.pc n i.last = true → i.count = 1 → o.last ≠ i.last →
        u.pc = t.pc + w64 n ∧ u.loops = [o])
    ∧ (∀ o i : Loop, t.loops = [o, i] → holdsWord t.pc n i.last = true → i.count = 1 → o.last = i.last → o.count ≠ 1 →
        u.pc = o.start ∧ u.loops = [{ o with count := o.count - 1 }])
    ∧ (∀ o i : Loop, t.loops = [o, i] → holdsWord t.pc n i.last = true → i.count = 1 → o.last = i.last → o.count = 1 →
        u.pc = t.pc + w64 n ∧ u.loops = [])
    ∧ (∀ o : Loop, t.loops = [o] → holdsWord t.pc n o.last = false → u.pc = t.pc + w64 n ∧ u.loops = t.loops)
    ∧ (∀ o i : Loop, t.loops = [o, i] → holdsWord t.pc n i.last = false → u.pc = t.pc + w64 n ∧ u.loops = t.loops)
    ∧ (∀ target : Word, ((retireTo s k target).str k).loops = t.loops ∧ ((retireTo s k target).str k).pc = target)

/-- What raises 0x01 in an instruction's place and words: a control transfer, LOOP, LBRK, GATE, EVRET or BRK at END of an active loop,
whatever its operands (R116), and a reserved register specifier in every integer computation (R85, R88). -/
def Obligations.PlacesAndSpecifiersThatRaise01 : Prop :=
  ∀ (i : Instr) (s : State) (k : StrandId),
    (barredAtEnd i = true → Ready s k 4 → atEnd (s.str k) 4 = true → exec i s = raises s k 0x01 0 0)
    ∧ (∀ (n : Nat) (rd : RSpec) (src : List RSpec), intShape i = some (n, rd, src) → Ready s k n → (xOk rd && src.all xOk) = false →
        exec i s = raises s k 0x01 0 0)

/-- The encodings: each format of Table 4-1 with every operand at every value, one or more operations to a format, and each extended group
of Table 4-4 (R84, R86, R89, R90); a reserved major opcode, an unlisted sub-code or xop, and a nonzero bit of a field marked 0 spell no
instruction (R85). -/
def Obligations.InstructionEncodings : Prop :=
  (∀ (rd a b c : RSpec) (i14 : BitVec 14) (i12 : BitVec 12) (i11 : BitVec 11) (i10 : BitVec 10) (i17 : BitVec 17) (i20 : BitVec 20)
      (i26 : BitVec 26) (m cc : BitVec 3) (f2 : BitVec 2) (d aq rl : Bool),
    let hi := fun (op : Nat) => op * 2 ^ 26 + rd.toNat * 2 ^ 20
    let two := fun (op : Nat) => hi op + a.toNat * 2 ^ 14
    let three := fun (op : Nat) => two op + b.toNat * 2 ^ 8
    let reads := fun (w : Nat) (i : Instr) => decodeTableWord 32 w = some i
    reads (three 0x01 + 0x00) (.add rd a b) ∧ reads (three 0x01 + 0x01) (.sub rd a b) ∧ reads (three 0x01 + 0x09) (.slt rd a b)
    ∧ reads (three 0x01 + 0x14) (.div rd a b) ∧ reads (three 0x01 + 0x28 + m.toNat) (.permb rd a b m) ∧ reads (two 0x01 + 0x22) (.popc rd a)
    ∧ reads (two 0x02 + i14.toNat) (.addi rd a i14) ∧ reads (two 0x07 + i14.toNat) (.sltiu rd a i14)
    ∧ reads (two 0x08 + 1 * 2 ^ 12 + a.toNat) (.srli rd a a) ∧ reads (two 0x0D + i14.toNat) (.jmpr rd a i14)
    ∧ reads (0x0E * 2 ^ 26 + a.toNat * 2 ^ 14 + i14.toNat) (.callr a i14)
    ∧ reads (two 0x11 + i14.toNat) (.lb rd a i14) ∧ reads (two 0x17 + i14.toNat) (.ld rd a i14) ∧ reads (two 0x1B + i14.toNat) (.sd rd a i14)
    ∧ reads (two 0x1E + i14.toNat) (.flw rd a i14) ∧ reads (two 0x22 + i14.toNat) (.fsd rd a i14)
    ∧ reads (hi 0x09 + i20.toNat) (.lui rd i20) ∧ reads (hi 0x0A + i20.toNat) (.auipc rd i20)
    ∧ reads (0x0B * 2 ^ 26 + i26.toNat) (.jmp i26) ∧ reads (0x0C * 2 ^ 26 + i26.toNat) (.call i26)
    ∧ reads (two 0x0F + cc.toNat * 2 ^ 11 + i11.toNat) (.br rd a cc i11) ∧ reads (hi 0x10 + cc.toNat * 2 ^ 17 + i17.toNat) (.brz rd cc i17)
    ∧ reads (three 0x1C + (if d then 2 ^ 7 else 0) + (if aq then 2 ^ 6 else 0) + (if rl then 2 ^ 5 else 0) + 0x9) (.amoCas rd a b d aq rl)
    ∧ reads (three 0x23 + m.toNat * 2 ^ 5 + 0x00) (.fadd .h rd a b m) ∧ reads (three 0x25 + m.toNat * 2 ^ 5 + 0x0E) (.fle .d rd a b m)
    ∧ reads (two 0x24 + m.toNat * 2 ^ 5 + 0x12) (.fcvtL .s rd a m)
    ∧ reads (three 0x26 + c.toNat * 2 ^ 2 + f2.toNat) (.fmadd f2 rd a b c) ∧ reads (three 0x29 + c.toNat * 2 ^ 2 + f2.toNat) (.fnmsub f2 rd a b c)
    ∧ reads (three 0x2A + c.toNat * 2 ^ 2 + 1) (.bfextS rd a b c) ∧ reads (three 0x2A + c.toNat * 2 ^ 2 + 2) (.bfins rd a b c)
    ∧ reads (0x2B * 2 ^ 26) .evret ∧ reads (0x2B * 2 ^ 26 + 2 * 2 ^ 10 + i10.toNat) (.gate i10)
    ∧ reads (0x2B * 2 ^ 26 + 3 * 2 ^ 10 + i10.toNat) (.brk i10) ∧ reads (0x2B * 2 ^ 26 + 9 * 2 ^ 10 + f2.toNat) (.wfill f2)
    ∧ reads (hi 0x2C + i12.toNat * 2 ^ 8) (.mfc rd i12) ∧ reads (hi 0x2C + i12.toNat * 2 ^ 8 + 1) (.mtc rd i12)
    ∧ reads (hi 0x2D + i12.toNat * 2 ^ 8) (.loopI rd i12) ∧ reads (0x2D * 2 ^ 26 + 1) .lbrk)
  ∧ (∀ (r s t u v : RSpec) (i32 : BitVec 32) (i16 : BitVec 16) (i9 : BitVec 9) (m8 : BitVec 8) (ta tb f4 g4 : BitVec 4) (aa ks : BitVec 2) (bs dir : Bool),
    let bit' := fun (y : Bool) (n : Nat) => if y then 2 ^ n else 0
    let reads := fun (op xop fa fb : Nat) (i : Instr) => decodeTableWord 64 (op * 2 ^ 26 + xop * 2 ^ 18 + fa + fb * 2 ^ 32) = some i
    reads 0x38 0x00 (r.toNat * 2 ^ 12) i32.toNat (.liw r i32) ∧ reads 0x38 0x02 (r.toNat * 2 ^ 12 + s.toNat * 2 ^ 6) i32.toNat (.addix r s i32)
    ∧ reads 0x39 0x00 (r.toNat * 2 ^ 12 + s.toNat * 2 ^ 6 + ta.toNat * 2 ^ 2)
        (f4.toNat * 2 ^ 28 + bit' bs 27 + aa.toNat * 2 ^ 25 + bit' dir 24 + i16.toNat) (.tld ta r s f4 bs aa dir i16)
    ∧ reads 0x39 0x01 (r.toNat * 2 ^ 12 + s.toNat * 2 ^ 6 + ta.toNat * 2 ^ 2) 0 (.tst ta r s)
    ∧ reads 0x39 0x11 (aa.toNat * 2 ^ 16 + ta.toNat * 2 ^ 12 + tb.toNat * 2 ^ 8) (ks.toNat * 2 ^ 9 + i9.toNat) (.tmmaZ aa ta tb ks i9)
    ∧ reads 0x39 0x14 (aa.toNat * 2 ^ 16) 0 (.tret aa) ∧ reads 0x39 0x1A aa.toNat 0 (.tgang aa)
    ∧ reads 0x3A 0x04 (r.toNat * 2 ^ 12 + s.toNat * 2 ^ 6 + t.toNat) (u.toNat * 2 ^ 26 + bit' bs 24 + m8.toNat * 2 ^ 16 + i16.toNat)
        (.epi { ld := r, l1 := s, l2 := t, l3 := u, ts := bs, modf := m8, lenm1 := i16 })
    ∧ reads 0x3A 0x50 0 0 .rdrop ∧ reads 0x3B 0x00 (r.toNat * 2 ^ 12 + s.toNat) 0 (.dld s r)
    ∧ reads 0x3B 0x03 (r.toNat * 2 ^ 12) (s.toNat * 2 ^ 24 + t.toNat * 2 ^ 16 + u.toNat) (.dsch r s t u)
    ∧ reads 0x3C 0x00 (r.toNat * 2 ^ 12 + aa.toNat) 0 (.wgo aa r)
    ∧ reads 0x3D 0x00 (r.toNat * 2 ^ 12 + s.toNat * 2 ^ 6 + t.toNat) 0 (.fred r s t)
    ∧ reads 0x3D 0x10 (r.toNat * 2 ^ 12 + s.toNat * 2 ^ 6 + t.toNat) 0 (.qpush r s t)
    ∧ reads 0x3E 0x10 (r.toNat * 2 ^ 12) i32.toNat (.cflush r i32) ∧ reads 0x3E 0x03 (r.toNat * 2 ^ 12 + aa.toNat) 0 (.ntlbi aa r)
    ∧ reads 0x3F 0x06 (r.toNat * 2 ^ 12 + s.toNat * 2 ^ 6 + t.toNat) (u.toNat * 2 ^ 26 + v.toNat * 2 ^ 20 + f4.toNat * 2 ^ 16 + g4.toNat * 2 ^ 12)
        (.vcvt { rd := r, rs1 := s, rs2 := t, rs3 := u, rn := v, fmt := f4, fmtd := g4 }))
  ∧ (∀ w : Nat, let op := bits w 31 26
      (op = 0 ∨ (0x2E ≤ op ∧ op ≤ 0x37)) ∨ (op = 0x01 ∧ (bits w 7 0 = 0x0F ∨ (0x18 ≤ bits w 7 0 ∧ bits w 7 0 < 0x20) ∨ (0x23 ≤ bits w 7 0 ∧ bits w 7 0 < 0x28)
          ∨ 0x30 ≤ bits w 7 0))
        ∨ (op = 0x08 ∧ (bits w 13 12 = 3 ∨ bits w 11 6 ≠ 0)) ∨ (op = 0x0E ∧ bits w 25 20 ≠ 0) ∨ (op = 0x1C ∧ 0x0B ≤ bits w 4 0)
        ∨ (op = 0x2A ∧ bits w 1 0 = 3) ∨ (op = 0x2B ∧ (bits w 25 14 ≠ 0 ∨ 0xA ≤ bits w 13 10)) ∨ (op = 0x2C ∧ 2 ≤ bits w 7 0)
        ∨ (op = 0x2D ∧ 2 ≤ bits w 7 0) → decodeTableWord 32 w = none)
  ∧ (∀ w b : Nat, w < 2 ^ 32 → b < 2 ^ 32 → let op := bits w 31 26
      let xop := bits w 25 18
      (op = 0x38 ∧ (3 ≤ xop ∨ bits w 5 0 ≠ 0)) ∨ (op = 0x39 ∧ (xop = 0x0D ∨ (0x15 ≤ xop ∧ xop < 0x18) ∨ 0x1F ≤ xop)) ∨ (op = 0x3A ∧ (tbit b 25 = true ∨ 0x52 ≤ xop))
        ∨ (op = 0x3B ∧ 6 ≤ xop) ∨ (op = 0x3C ∧ (3 ≤ xop ∨ b ≠ 0)) ∨ (op = 0x3D ∧ (b ≠ 0 ∨ 0x17 ≤ xop)) ∨ (op = 0x3E ∧ 0x15 ≤ xop)
        ∨ (op = 0x3F ∧ (8 ≤ xop ∨ bits b 11 0 ≠ 0)) → decodeTableWord 64 (w + b * 2 ^ 32) = none)

/-! ### Integer computation -/

/-- Table 4-5: what each instruction of op 0x01 writes to rd; a write to g0 is discarded, shift amounts are rs2[5:0], and no
instruction of the table raises an event (R92). Division by zero and of −2^63 by −1 follow R93. -/
def Obligations.IntegerRegisterRegister : Prop :=
  ∀ (s : State) (k : StrandId) (rd rs1 rs2 : RSpec), Ready s k 4 → xOk rd = true → xOk rs1 = true → xOk rs2 = true →
    let a := (s.str k).x rs1
    let b := (s.str k).x rs2
    let r := fun (v : Word) => givesX s k 4 rd v
    exec (.add rd rs1 rs2) s = r (a + b)
    ∧ exec (.sub rd rs1 rs2) s = r (a - b)
    ∧ exec (.and rd rs1 rs2) s = r (a &&& b)
    ∧ exec (.or rd rs1 rs2) s = r (a ||| b)
    ∧ exec (.xor rd rs1 rs2) s = r (a ^^^ b)
    ∧ exec (.andn rd rs1 rs2) s = r (a &&& ~~~b)
    ∧ exec (.sll rd rs1 rs2) s = r (a <<< (b.extractLsb' 0 6).toNat)
    ∧ exec (.srl rd rs1 rs2) s = r (a >>> (b.extractLsb' 0 6).toNat)
    ∧ exec (.sra rd rs1 rs2) s = r (a.sshiftRight (b.extractLsb' 0 6).toNat)
    ∧ exec (.slt rd rs1 rs2) s = r (if a.toInt < b.toInt then 1 else 0)
    ∧ exec (.sltu rd rs1 rs2) s = r (if a.toNat < b.toNat then 1 else 0)
    ∧ exec (.min rd rs1 rs2) s = r (BitVec.ofInt 64 (min a.toInt b.toInt))
    ∧ exec (.max rd rs1 rs2) s = r (BitVec.ofInt 64 (max a.toInt b.toInt))
    ∧ exec (.minu rd rs1 rs2) s = r (w64 (min a.toNat b.toNat))
    ∧ exec (.maxu rd rs1 rs2) s = r (w64 (max a.toNat b.toNat))
    ∧ exec (.mul rd rs1 rs2) s = r (w64 (a.toNat * b.toNat))
    ∧ exec (.mulxSs rd rs1 rs2) s = r (BitVec.ofInt 64 (a.toInt * b.toInt / 2 ^ 64))
    ∧ exec (.mulxUu rd rs1 rs2) s = r (w64 (a.toNat * b.toNat / 2 ^ 64))
    ∧ exec (.mulxSu rd rs1 rs2) s = r (BitVec.ofInt 64 (a.toInt * (b.toNat : Int) / 2 ^ 64))
    ∧ exec (.div rd rs1 rs2) s = r (if b = 0 then 0xFFFFFFFFFFFFFFFF else BitVec.ofInt 64 (a.toInt.tdiv b.toInt))
    ∧ exec (.divu rd rs1 rs2) s = r (if b = 0 then 0xFFFFFFFFFFFFFFFF else w64 (a.toNat / b.toNat))
    ∧ exec (.rem rd rs1 rs2) s = r (if b = 0 then a else BitVec.ofInt 64 (a.toInt.tmod b.toInt))
    ∧ exec (.remu rd rs1 rs2) s = r (if b = 0 then a else w64 (a.toNat % b.toNat))
    ∧ (∃ n : Nat, exec (.clz rd rs1) s = r (w64 n) ∧ n ≤ 64 ∧ a.toNat < 2 ^ (64 - n) ∧ (n < 64 → 2 ^ (63 - n) ≤ a.toNat))
    ∧ (∃ n : Nat, exec (.ctz rd rs1) s = r (w64 n) ∧ n ≤ 64 ∧ (∀ i : Nat, i < n → a.getLsbD i = false)
        ∧ (n < 64 → a.getLsbD n = true))
    ∧ (∃ l : List (Fin 64), l.Nodup ∧ (∀ i : Fin 64, i ∈ l ↔ a.getLsbD i.val = true) ∧ exec (.popc rd rs1) s = r (w64 l.length))
    ∧ (∀ len : BitVec 3, ∃ v : Word, exec (.permb rd rs1 rs2 len) s = r v
        ∧ ∀ j : Fin 8, byteOf v j.val = (if (byteOf b j.val).toNat < len.toNat + 1 then byteOf a (byteOf b j.val).toNat else 0))
    ∧ (∀ v : Word, s.setX k 0 v = s)

/-- The immediate forms of Table 4-3 and Table 4-5, the extended constants of R91, and the bit fields of R94. -/
def Obligations.IntegerImmediate : Prop :=
  ∀ (s : State) (k : StrandId) (rd rs1 : RSpec), xOk rd = true → xOk rs1 = true →
    let a := (s.str k).x rs1
    let d := (s.str k).x rd
    (Ready s k 4 →
      (∀ imm : BitVec 14,
        exec (.addi rd rs1 imm) s = givesX s k 4 rd (a + imm.signExtend 64)
        ∧ exec (.andi rd rs1 imm) s = givesX s k 4 rd (a &&& imm.signExtend 64)
        ∧ exec (.ori rd rs1 imm) s = givesX s k 4 rd (a ||| imm.signExtend 64)
        ∧ exec (.xori rd rs1 imm) s = givesX s k 4 rd (a ^^^ imm.signExtend 64)
        ∧ exec (.slti rd rs1 imm) s = givesX s k 4 rd (if a.toInt < imm.toInt then 1 else 0)
        ∧ exec (.sltiu rd rs1 imm) s = givesX s k 4 rd (if a.toNat < (imm.signExtend 64).toNat then 1 else 0))
      ∧ (∀ n : BitVec 6,
        exec (.slli rd rs1 n) s = givesX s k 4 rd (a <<< n.toNat)
        ∧ exec (.srli rd rs1 n) s = givesX s k 4 rd (a >>> n.toNat)
        ∧ exec (.srai rd rs1 n) s = givesX s k 4 rd (a.sshiftRight n.toNat))
      ∧ (∀ imm : BitVec 20,
        exec (.lui rd imm) s = givesX s k 4 rd (BitVec.ofInt 64 (imm.toInt * 4096))
        ∧ exec (.auipc rd imm) s = givesX s k 4 rd ((s.str k).pc + BitVec.ofInt 64 (imm.toInt * 4096)))
      ∧ (∀ pos lenm1 : BitVec 6,
        let w := if pos.toNat + (lenm1.toNat + 1) > 64 then 64 - pos.toNat else lenm1.toNat + 1
        let m : Word := w64 ((2 ^ w - 1) * 2 ^ pos.toNat)
        exec (.bfext rd rs1 pos lenm1) s = givesX s k 4 rd ((a &&& m) >>> pos.toNat)
        ∧ exec (.bfextS rd rs1 pos lenm1) s = givesX s k 4 rd ((((a &&& m) >>> pos.toNat).setWidth w).signExtend 64)
        ∧ exec (.bfins rd rs1 pos lenm1) s = givesX s k 4 rd ((d &&& ~~~m) ||| ((a <<< pos.toNat) &&& m))))
    ∧ (Ready s k 8 → ∀ imm : BitVec 32,
      exec (.liw rd imm) s = givesX s k 8 rd (imm.signExtend 64)
      ∧ exec (.lih rd imm) s = givesX s k 8 rd (imm ++ d.extractLsb' 0 32)
      ∧ exec (.addix rd rs1 imm) s = givesX s k 8 rd (a + imm.signExtend 64))

/-- The frame of every integer computation: it completes, and nothing but rd, the PC, the loops and a wait condition of its own
strand changes; the copies of g15 of the other levels and the windows of the ring that rd does not name stay too. -/
def Obligations.IntegerFrame : Prop :=
  ∀ (i : Instr) (n : Nat) (rd : RSpec) (src : List RSpec) (s : State) (k : StrandId), intShape i = some (n, rd, src) → Ready s k n →
    (xOk rd && src.all xOk) = true → ∃ t : State, exec i s = .next t ∧ OnlyStrand k s t ∧ SameControl (s.str k) (t.str k)
      ∧ SameXBut rd (s.str k) (t.str k) ∧ (t.str k).regs.f = (s.str k).regs.f ∧ (t.str k).fctl = (s.str k).fctl
      ∧ (t.str k).x 0 = 0

/-! ### Control transfer and loops -/

/-- The transfers that need no window (R96, R97, R87, Table 4-6): JMP, JMPR, BR and BRZ; a misaligned target raises 0x0D with SVFA
holding it, and a reserved condition raises 0x01. -/
def Obligations.JumpsAndBranches : Prop :=
  ∀ (s : State) (k : StrandId), Ready s k 4 → atEnd (s.str k) 4 = false →
    let pc := (s.str k).pc
    (∀ off : BitVec 26, exec (.jmp off) s = .next (retireTo s k (pc + 4 * off.signExtend 64)))
    ∧ (∀ (rd rs1 : RSpec) (imm : BitVec 14), xOk rd = true → xOk rs1 = true →
        let t := (s.str k).x rs1 + imm.signExtend 64
        exec (.jmpr rd rs1 imm) s = if t.toNat % 4 = 0 then .next (retireTo (s.setX k rd (pc + 4)) k t) else raises s k 0x0D t 0)
    ∧ (∀ (rs1 rs2 : RSpec) (off : BitVec 11), xOk rs1 = true → xOk rs2 = true →
        let a := (s.str k).x rs1
        let b := (s.str k).x rs2
        let go := fun (p : Prop) [Decidable p] => if p then Host.Outcome.next (retireTo s k (pc + 4 * off.signExtend 64)) else completes s k 4
        exec (.br rs1 rs2 0 off) s = go (a = b) ∧ exec (.br rs1 rs2 1 off) s = go (a ≠ b)
        ∧ exec (.br rs1 rs2 2 off) s = go (a.toInt < b.toInt) ∧ exec (.br rs1 rs2 3 off) s = go (b.toInt ≤ a.toInt)
        ∧ exec (.br rs1 rs2 4 off) s = go (a.toNat < b.toNat) ∧ exec (.br rs1 rs2 5 off) s = go (b.toNat ≤ a.toNat)
        ∧ exec (.br rs1 rs2 6 off) s = raises s k 0x01 0 0 ∧ exec (.br rs1 rs2 7 off) s = raises s k 0x01 0 0)
    ∧ (∀ (rs1 : RSpec) (off : BitVec 17), xOk rs1 = true →
        let a := (s.str k).x rs1
        let go := fun (p : Prop) [Decidable p] => if p then Host.Outcome.next (retireTo s k (pc + 4 * off.signExtend 64)) else completes s k 4
        exec (.brz rs1 0 off) s = go (a = 0) ∧ exec (.brz rs1 1 off) s = go (a ≠ 0)
        ∧ exec (.brz rs1 2 off) s = go (a.toInt < 0) ∧ exec (.brz rs1 3 off) s = go (0 ≤ a.toInt)
        ∧ exec (.brz rs1 4 off) s = go (0 < a.toInt) ∧ exec (.brz rs1 5 off) s = go (a.toInt ≤ 0)
        ∧ exec (.brz rs1 6 off) s = raises s k 0x01 0 0 ∧ exec (.brz rs1 7 off) s = raises s k 0x01 0 0)

/-- CALL, CALLR and RET (R96, R97, Table 2-7): a call needs four free windows and else overflows, makes the next window current with
its tag LVL and its l7 the return address; RET goes back to l7 and needs two resident windows. Neither touches memory. -/
def Obligations.CallsAndReturns : Prop :=
  ∀ (s : State) (k : StrandId), Ready s k 4 → atEnd (s.str k) 4 = false →
    let t := s.str k
    let called := fun (target : Word) (o : Out) => ∃ u : State, o = .next u ∧ OnlyStrand k s u
      ∧ (u.str k).pc = target ∧ (u.str k).win.wcur = t.win.wcur + 1 ∧ (u.str k).win.resw = t.win.resw + 1
      ∧ ((u.str k).win.ring[(u.str k).win.wcur]).tag = t.status.lvl ∧ (u.str k).x 0x1F = t.pc + 4
      ∧ (∀ i : Fin 8, (u.str k).x (BitVec.ofNat 6 (0x20 + i.val)) = t.x (BitVec.ofNat 6 (0x10 + i.val)))
      ∧ (u.str k).regs = t.regs ∧ (u.str k).status = t.status ∧ (u.str k).saves = t.saves
    (∀ off : BitVec 26,
      (4 ≤ t.win.free → called (t.pc + 4 * off.signExtend 64) (exec (.call off) s))
      ∧ (t.win.free < 4 → exec (.call off) s = raises s k 0x0E 0 0))
    ∧ (∀ (rs1 : RSpec) (imm : BitVec 14), xOk rs1 = true →
      let target := t.x rs1 + imm.signExtend 64
      (target.toNat % 4 = 0 → 4 ≤ t.win.free → called target (exec (.callr rs1 imm) s))
      ∧ (target.toNat % 4 = 0 → t.win.free < 4 → exec (.callr rs1 imm) s = raises s k 0x0E 0 0)
      ∧ (target.toNat % 4 ≠ 0 → exec (.callr rs1 imm) s = raises s k 0x0D target 0))
    ∧ (∀ (rd rs1 : RSpec) (imm : BitVec 14), xOk rd = true → xOk rs1 = true → (t.x rs1 + imm.signExtend 64).toNat % 4 ≠ 0 →
        exec (.jmpr rd rs1 imm) s = raises s k 0x0D (t.x rs1 + imm.signExtend 64) 0)
    ∧ ((t.x 0x1F).toNat % 4 = 0 → 2 ≤ t.win.resw → ∃ u : State, exec .ret s = .next u ∧ OnlyStrand k s u
        ∧ (u.str k).pc = t.x 0x1F ∧ (u.str k).win.ring = t.win.ring ∧ (u.str k).win.wcur = t.win.wcur - 1
        ∧ (u.str k).win.resw = t.win.resw - 1 ∧ (u.str k).regs = t.regs ∧ (u.str k).status = t.status)
    ∧ ((t.x 0x1F).toNat % 4 = 0 → t.win.resw < 2 → exec .ret s = raises s k 0x0F 0 0)
    ∧ ((t.x 0x1F).toNat % 4 ≠ 0 → exec .ret s = raises s k 0x0D (t.x 0x1F) 0)

/-- LOOP and LBRK (R114, R116). -/
def Obligations.HardwareLoops : Prop :=
  ∀ (s : State) (k : StrandId), Ready s k 4 → atEnd (s.str k) 4 = false →
    let t := s.str k
    (∀ (rs1 : RSpec) (len : BitVec 12), xOk rs1 = true →
      let l : Loop := { start := t.pc + 4, len := len, count := (t.x rs1).extractLsb' 0 32 }
      let bad := 2 ≤ t.loops.length ∨ len = 0
        ∨ ∃ o ∈ t.loops, ¬ (o.start.toNat ≤ l.start.toNat ∧ l.last.toNat ≤ o.last.toNat)
      (bad → exec (.loopI rs1 len) s = raises s k 0x01 0 0)
      ∧ (¬ bad → l.count = 0 → exec (.loopI rs1 len) s = .next (retireTo s k (l.start + 4 * (w64 len.toNat - 1) + 4)))
      ∧ (¬ bad → l.count ≠ 0 → exec (.loopI rs1 len) s
          = .next (retire (s.modStr k (fun u => { u with loops := u.loops ++ [l] })) k 4)))
    ∧ (t.loops = [] → exec .lbrk s = completes s k 4)
    ∧ (∀ o i : Loop, t.loops = [o, i] → exec .lbrk s = .next (retire (s.modStr k (fun u => { u with loops := [o] })) k 4))
    ∧ (∀ o : Loop, t.loops = [o] → exec .lbrk s = .next (retire (s.modStr k (fun u => { u with loops := [] })) k 4))

/-! ### Loads, stores and atomics -/

/-- Loads from the scratchpad window (R98): B, H and W sign-extend, the U forms zero-extend, the floating forms leave 0 above. -/
def Obligations.LoadsFromTheScratchpad : Prop :=
  ∀ (s : State) (k : StrandId) (rd rs1 : RSpec) (imm : BitVec 14), Ready s k 4 → s.marks = [] → xOk rs1 = true →
    let ea := (s.str k).x rs1 + imm.signExtend 64
    let fits := fun (n : Nat) => spw ≤ ea.toNat ∧ ea.toNat + n ≤ spw + s.spadSize ∧ AccessFree s k true false (ea.toNat - spw) n
    let v := fun (n : Nat) => s.spad.getLE (ea.toNat - spw) n
    (xOk rd = true →
      (fits 1 → exec (.lb rd rs1 imm) s = givesX s k 4 rd ((BitVec.ofNat 8 (v 1)).signExtend 64)
        ∧ exec (.lbu rd rs1 imm) s = givesX s k 4 rd (w64 (v 1)))
      ∧ (fits 2 → exec (.lh rd rs1 imm) s = givesX s k 4 rd ((BitVec.ofNat 16 (v 2)).signExtend 64)
        ∧ exec (.lhu rd rs1 imm) s = givesX s k 4 rd (w64 (v 2)))
      ∧ (fits 4 → exec (.lw rd rs1 imm) s = givesX s k 4 rd ((BitVec.ofNat 32 (v 4)).signExtend 64)
        ∧ exec (.lwu rd rs1 imm) s = givesX s k 4 rd (w64 (v 4)))
      ∧ (fits 8 → exec (.ld rd rs1 imm) s = givesX s k 4 rd (w64 (v 8))))
    ∧ (fOk rd = true →
      (fits 2 → exec (.flh rd rs1 imm) s = .next (retire (s.setF k rd (w64 (v 2))) k 4))
      ∧ (fits 4 → exec (.flw rd rs1 imm) s = .next (retire (s.setF k rd (w64 (v 4))) k 4))
      ∧ (fits 8 → exec (.fld rd rs1 imm) s = .next (retire (s.setF k rd (w64 (v 8))) k 4)))

/-- Loads of near Normal memory that the L1D holds, at ML with translation off (R98, R305), outside a save frame whose bytes are
unpredictable (R150): the value of the bytes, and nothing but rd, the PC and the caches' replacement state changes. -/
def Obligations.LoadsFromNearMemory : Prop :=
  ∀ (s : State) (k : StrandId) (rd rs1 : RSpec) (imm : BitVec 14) (n : Nat) (l : Line), Ready s k 4 → s.marks = [] → xOk rs1 = true →
    NearMl s k ((s.str k).x rs1 + imm.signExtend 64) n → AccessFree s k false false ((s.str k).x rs1 + imm.signExtend 64).toNat n →
    s.ms.l1d.find false (((s.str k).x rs1 + imm.signExtend 64).toNat / 64) = some l →
    let v := s.near.getLE ((s.str k).x rs1 + imm.signExtend 64).toNat n
    let gives := fun (o : Out) (f : State → State) => ∃ c : State, { c with ms := s.ms } = s ∧ o = .next (retire (f c) k 4)
    (xOk rd = true →
      (n = 1 → gives (exec (.lb rd rs1 imm) s) (fun c => c.setX k rd ((BitVec.ofNat 8 v).signExtend 64))
        ∧ gives (exec (.lbu rd rs1 imm) s) (fun c => c.setX k rd (w64 v)))
      ∧ (n = 2 → gives (exec (.lh rd rs1 imm) s) (fun c => c.setX k rd ((BitVec.ofNat 16 v).signExtend 64))
        ∧ gives (exec (.lhu rd rs1 imm) s) (fun c => c.setX k rd (w64 v)))
      ∧ (n = 4 → gives (exec (.lw rd rs1 imm) s) (fun c => c.setX k rd ((BitVec.ofNat 32 v).signExtend 64))
        ∧ gives (exec (.lwu rd rs1 imm) s) (fun c => c.setX k rd (w64 v)))
      ∧ (n = 8 → gives (exec (.ld rd rs1 imm) s) (fun c => c.setX k rd (w64 v))))
    ∧ (fOk rd = true →
      (n = 2 → gives (exec (.flh rd rs1 imm) s) (fun c => c.setF k rd (w64 v)))
      ∧ (n = 4 → gives (exec (.flw rd rs1 imm) s) (fun c => c.setF k rd (w64 v)))
      ∧ (n = 8 → gives (exec (.fld rd rs1 imm) s) (fun c => c.setF k rd (w64 v))))

/-- Stores (R98, R99): to the scratchpad window and, at ML with translation off, to a near Normal line that the L2 owns. The stored
bytes lie at the effective address, every other byte reads as before, and the registers are as they were.
A store reaches the block's view of memory when it retires (DEDUCED, notes/assumptions/28.md). -/
def Obligations.StoresWriteTheirBytes : Prop :=
  ∀ (s : State) (k : StrandId) (rs2 rs1 : RSpec) (imm : BitVec 14) (i : Instr) (n : Nat) (v : Word), Ready s k 4 → s.marks = [] →
    xOk rs1 = true →
    (xOk rs2 = true ∧ v = (s.str k).x rs2
        ∧ ((i = .sb rs2 rs1 imm ∧ n = 1) ∨ (i = .sh rs2 rs1 imm ∧ n = 2) ∨ (i = .sw rs2 rs1 imm ∧ n = 4) ∨ (i = .sd rs2 rs1 imm ∧ n = 8)))
      ∨ (fOk rs2 = true ∧ v = (s.str k).f rs2
        ∧ ((i = .fsh rs2 rs1 imm ∧ n = 2) ∨ (i = .fsw rs2 rs1 imm ∧ n = 4) ∨ (i = .fsd rs2 rs1 imm ∧ n = 8))) →
    let ea := (s.str k).x rs1 + imm.signExtend 64
    (spw ≤ ea.toNat → ea.toNat + n ≤ spw + s.spadSize → AccessFree s k true true (ea.toNat - spw) n → Memory.wf s.spad = true →
      ∃ t : State, exec i s = .next (retire t k 4) ∧ { t with spad := s.spad } = s
        ∧ t.spad.getLE (ea.toNat - spw) n = v.toNat % 2 ^ (8 * n)
        ∧ ∀ a : Nat, a < ea.toNat - spw ∨ ea.toNat - spw + n ≤ a → t.spad.get a = s.spad.get a)
    ∧ (NearMl s k ea n → AccessFree s k false true ea.toNat n → s.owned (ea.toNat / 128) = true → Memory.wf s.near = true →
      ∃ t : State, exec i s = .next (retire t k 4) ∧ { t with near := s.near, ms := s.ms } = s
        ∧ t.near.getLE ea.toNat n = v.toNat % 2 ^ (8 * n)
        ∧ ∀ a : Nat, a < ea.toNat ∨ ea.toNat + n ≤ a → t.near.get a = s.near.get a)

/-- Scalar accesses that raise an event (R99, R285, R325): one that lies partly in the window, or beyond the scratchpad, raises 0x0D; a
near address from 2^48 up to bit 63 raises a page fault. The instruction changes nothing else. No Device write of the strand is open: a
later near access waits for its acknowledgement. -/
def Obligations.AccessesThatFault : Prop :=
  ∀ (s : State) (k : StrandId) (rd rs2 rs1 : RSpec) (imm : BitVec 14), Ready s k 4 → devOpen s k = false → xOk rs1 = true → xOk rd = true →
    xOk rs2 = true →
    let ea := (s.str k).x rs1 + imm.signExtend 64
    (winPart ea 8 = true → exec (.ld rd rs1 imm) s = raises s k 0x0D ea 0 ∧ exec (.sd rs2 rs1 imm) s = raises s k 0x0D ea 0)
    ∧ (isWin ea = true → winPart ea 8 = false → spw + s.spadSize < ea.toNat + 8 →
        exec (.ld rd rs1 imm) s = raises s k 0x0D ea 0 ∧ exec (.sd rs2 rs1 imm) s = raises s k 0x0D ea 0)
    ∧ (2 ^ 48 ≤ ea.toNat → ea.toNat + 8 < 2 ^ 63 →
        exec (.ld rd rs1 imm) s = raises s k 0x05 ea 0 ∧ exec (.sd rs2 rs1 imm) s = raises s k 0x06 ea 0)

/-- Atomics on the scratchpad window (R101, Table 4-7): rd takes the old value (a word sign-extended), memory the new one; an FADD.S
of doublewords and every operation that is not permitted on a far address raise 0x01, and a misaligned address raises 0x0D. With RL the
strand's earlier accesses have been performed (R103). -/
def Obligations.AtomicsOnTheScratchpad : Prop :=
  ∀ (s : State) (k : StrandId) (rd rs1 rs2 : RSpec) (d aq rl : Bool), Ready s k 4 → s.marks = [] →
    (rl = true → nearOpen s k = false ∧ farOpen s k = false) →
    xOk rd = true → xOk rs1 = true → xOk rs2 = true →
    let a := (s.str k).x rs1
    let n := if d then 8 else 4
    let o := a.toNat - spw
    let old := s.spad.getLE o n
    let x := ((s.str k).x rs2).toNat % 2 ^ (8 * n)
    let c := ((s.str k).x rd).toNat % 2 ^ (8 * n)
    let r : Word := if d then w64 old else (BitVec.ofNat 32 old).signExtend 64
    let gives := fun (new : Nat) => Host.Outcome.next (retire (({ s with spad := s.spad.putLE o n new } : State).setX k rd r) k 4)
    (spw ≤ a.toNat → a.toNat + n ≤ spw + s.spadSize → a.toNat % n = 0 → AccessFree s k true true o n →
      exec (.amoSwap rd rs1 rs2 d aq rl) s = gives x
      ∧ exec (.amoAdd rd rs1 rs2 d aq rl) s = gives ((old + x) % 2 ^ (8 * n))
      ∧ exec (.amoAnd rd rs1 rs2 d aq rl) s = gives (old &&& x)
      ∧ exec (.amoOr rd rs1 rs2 d aq rl) s = gives (old ||| x)
      ∧ exec (.amoXor rd rs1 rs2 d aq rl) s = gives (old ^^^ x)
      ∧ exec (.amoMin rd rs1 rs2 d aq rl) s = gives (if sInt (8 * n) x < sInt (8 * n) old then x else old)
      ∧ exec (.amoMax rd rs1 rs2 d aq rl) s = gives (if sInt (8 * n) old < sInt (8 * n) x then x else old)
      ∧ exec (.amoMinu rd rs1 rs2 d aq rl) s = gives (min old x)
      ∧ exec (.amoMaxu rd rs1 rs2 d aq rl) s = gives (max old x)
      ∧ exec (.amoCas rd rs1 rs2 d aq rl) s = gives (if old = c then x else old)
      ∧ (d = false → exec (.amoFaddS rd rs1 rs2 d aq rl) s = gives ((fmtS.add 0 (fmtS.dec old) (fmtS.dec x)).1)))
    ∧ (d = true → exec (.amoFaddS rd rs1 rs2 d aq rl) s = raises s k 0x01 0 0)
    ∧ (a.getLsbD 63 = true → ∀ i ∈ [Instr.amoAnd rd rs1 rs2 d aq rl, .amoOr rd rs1 rs2 d aq rl, .amoXor rd rs1 rs2 d aq rl,
        .amoMinu rd rs1 rs2 d aq rl, .amoMaxu rd rs1 rs2 d aq rl], exec i s = raises s k 0x01 0 0)
    ∧ (a.getLsbD 63 = false → a.toNat % n ≠ 0 → exec (.amoAdd rd rs1 rs2 d aq rl) s = raises s k 0x0D a 0)

/-! ### Scalar floating point -/

/-- FADD to FREM (R105 to R107, Table 4-9): the result of the format's operation with the rounding attribute of rm, or of FCTL.RM when
rm is 0b111; flags accrue in FCTL. -/
def Obligations.FloatArithmetic : Prop :=
  ∀ (s : State) (k : StrandId) (fmt : FFmt) (rd rs1 rs2 : RSpec) (rm : BitVec 3) (m : Nat), Ready s k 4 → fOk rd = true →
    fOk rs1 = true → fOk rs2 = true →
    let q := fmtOf fmt
    let x := ((s.str k).f rs1).toNat % 2 ^ q.width
    let y := ((s.str k).f rs2).toNat % 2 ^ q.width
    (rmOf (s.str k) rm = some m →
      exec (.fadd fmt rd rs1 rs2 rm) s = givesF s k rd (q.add m (q.dec x) (q.dec y))
      ∧ exec (.fsub fmt rd rs1 rs2 rm) s = givesF s k rd (q.add m (q.dec x) (q.dec y).neg)
      ∧ exec (.fmul fmt rd rs1 rs2 rm) s = givesF s k rd (q.mul m (q.dec x) (q.dec y))
      ∧ exec (.fdiv fmt rd rs1 rs2 rm) s = givesF s k rd (q.div m (q.dec x) (q.dec y))
      ∧ exec (.fsqrt fmt rd rs1 rm) s = givesF s k rd (q.sqrt m (q.dec x))
      ∧ exec (.frint fmt rd rs1 rm) s = givesF s k rd (q.rint m false x)
      ∧ exec (.frintx fmt rd rs1 rm) s = givesF s k rd (q.rint m true x))
    ∧ exec (.fmin fmt rd rs1 rs2 0) s = givesF s k rd (q.minNum false x y)
    ∧ exec (.fmax fmt rd rs1 rs2 0) s = givesF s k rd (q.minNum true x y)
    ∧ exec (.fminm fmt rd rs1 rs2 0) s = givesF s k rd (q.minM false x y)
    ∧ exec (.fmaxm fmt rd rs1 rs2 0) s = givesF s k rd (q.minM true x y)
    ∧ exec (.frem fmt rd rs1 rs2 0) s = givesF s k rd (q.rem (q.dec x) (q.dec y))
    ∧ exec (.fsgnj fmt rd rs1 rs2 0) s = givesF s k rd (x % 2 ^ (q.width - 1) + y / 2 ^ (q.width - 1) * 2 ^ (q.width - 1), 0)
    ∧ exec (.fsgnjn fmt rd rs1 rs2 0) s = givesF s k rd (x % 2 ^ (q.width - 1) + (1 - y / 2 ^ (q.width - 1)) * 2 ^ (q.width - 1), 0)
    ∧ exec (.fsgnjx fmt rd rs1 rs2 0) s
        = givesF s k rd (x % 2 ^ (q.width - 1) + (x / 2 ^ (q.width - 1) + y / 2 ^ (q.width - 1)) % 2 * 2 ^ (q.width - 1), 0)

/-- Comparisons, conversions and moves of Table 4-9 (R106, R107): comparisons with a NaN give 0; a conversion to an integer saturates and
raises NV; FCVT to the opcode's own format raises 0x01. -/
def Obligations.FloatComparesAndConversions : Prop :=
  ∀ (s : State) (k : StrandId) (fmt : FFmt) (rd rs1 rs2 : RSpec) (rm : BitVec 3) (m : Nat), Ready s k 4 →
    let q := fmtOf fmt
    let x := ((s.str k).f rs1).toNat % 2 ^ q.width
    let y := ((s.str k).f rs2).toNat % 2 ^ q.width
    let givesI := fun (r : FR) => Host.Outcome.next (retire ((s.setX k rd (w64 r.1)).raiseF k r.2) k 4)
    (xOk rd = true → fOk rs1 = true → fOk rs2 = true →
      exec (.feq fmt rd rs1 rs2 0) s = givesI (q.cmp false fvEq (q.dec x) (q.dec y))
      ∧ exec (.flt fmt rd rs1 rs2 0) s = givesI (q.cmp true fvLt (q.dec x) (q.dec y))
      ∧ exec (.fle fmt rd rs1 rs2 0) s = givesI (q.cmp true (fun a b => fvLt a b || fvEq a b) (q.dec x) (q.dec y))
      ∧ exec (.fltq fmt rd rs1 rs2 0) s = givesI (q.cmp false fvLt (q.dec x) (q.dec y))
      ∧ exec (.fleq fmt rd rs1 rs2 0) s = givesI (q.cmp false (fun a b => fvLt a b || fvEq a b) (q.dec x) (q.dec y))
      ∧ exec (.fclass fmt rd rs1 0) s = givesI (q.cls x, 0)
      ∧ exec (.fmvXf fmt rd rs1 0) s = givesI (x, 0)
      ∧ (rmOf (s.str k) rm = some m →
          exec (.fcvtL fmt rd rs1 rm) s = givesI (q.toInt m true x) ∧ exec (.fcvtLu fmt rd rs1 rm) s = givesI (q.toInt m false x)))
    ∧ (fOk rd = true → xOk rs1 = true →
      exec (.fmvFx fmt rd rs1 0) s = .next (retire (s.setF k rd (w64 (((s.str k).x rs1).toNat % 2 ^ q.width))) k 4)
      ∧ (rmOf (s.str k) rm = some m →
          exec (.fcvtfL fmt rd rs1 rm) s = givesF s k rd (q.ofInt m ((s.str k).x rs1).toInt)
          ∧ exec (.fcvtfLu fmt rd rs1 rm) s = givesF s k rd (q.ofInt m (((s.str k).x rs1).toNat : Int))))
    ∧ (fOk rd = true → fOk rs1 = true → rmOf (s.str k) rm = some m →
      (fmt ≠ .h → exec (.fcvtH fmt rd rs1 rm) s = givesF s k rd (q.conv fmtH m x))
      ∧ (fmt ≠ .s → exec (.fcvtS fmt rd rs1 rm) s = givesF s k rd (q.conv fmtS m x))
      ∧ (fmt ≠ .d → exec (.fcvtD fmt rd rs1 rm) s = givesF s k rd (q.conv fmtD m x)))
    ∧ exec (.fcvtH .h rd rs1 rm) s = raises s k 0x01 0 0 ∧ exec (.fcvtS .s rd rs1 rm) s = raises s k 0x01 0 0
    ∧ exec (.fcvtD .d rd rs1 rm) s = raises s k 0x01 0 0

/-- The fused forms (R108): one rounding by FCTL.RM of ±(rs1 × rs2) ± rs3. Where IEEE 754 leaves NV open (0 × ∞ + a quiet NaN) the
result is the NaN and NV is a free value (notes/assumptions/12.md). A format of 0b11 raises 0x01. -/
def Obligations.FusedMultiplyAdd : Prop :=
  ∀ (s : State) (k : StrandId) (fmt : BitVec 2) (q : FpFmt) (rd rs1 rs2 rs3 : RSpec) (m : Nat), Ready s k 4 → fOk rd = true →
    fOk rs1 = true → fOk rs2 = true → fOk rs3 = true → (s.str k).fctl.rm.toNat = m → m ≤ 4 →
    (fmt = 0 ∧ q = fmtH ∨ fmt = 1 ∧ q = fmtS ∨ fmt = 2 ∧ q = fmtD) →
    let a := q.dec (((s.str k).f rs1).toNat % 2 ^ q.width)
    let b := q.dec (((s.str k).f rs2).toNat % 2 ^ q.width)
    let c := q.dec (((s.str k).f rs3).toNat % 2 ^ q.width)
    (q.fmaOpen a b c = false →
      exec (.fmadd fmt rd rs1 rs2 rs3) s = givesF s k rd (q.fma m a b c)
      ∧ exec (.fmsub fmt rd rs1 rs2 rs3) s = givesF s k rd (q.fma m a b c.neg)
      ∧ exec (.fnmadd fmt rd rs1 rs2 rs3) s = givesF s k rd (q.fma m a.neg b c.neg)
      ∧ exec (.fnmsub fmt rd rs1 rs2 rs3) s = givesF s k rd (q.fma m a.neg b c))
    ∧ (q.fmaOpen a b c = true → ∃ t : State, exec (.fmadd fmt rd rs1 rs2 rs3) s = .next t
        ∧ (t.str k).f rd = w64 (q.fma m a b c).1 ∧ (t.str k).pc = (retire s k 4 |>.str k).pc)
    ∧ exec (.fmadd 3 rd rs1 rs2 rs3) s = raises s k 0x01 0 0

/-- The frame of the floating instructions: only rd, the flags of FCTL, the PC, the loops and a wait condition change; flags are only
ever raised. A reserved specifier or rounding mode raises 0x01. -/
def Obligations.FloatFrame : Prop :=
  ∀ (i : Instr) (rd : RSpec) (src : List RSpec) (rm : BitVec 3) (s : State) (k : StrandId), floatShape i = some (rd, src, rm) →
    Ready s k 4 →
    ((fOk rd && src.all fOk) = true → rm = 0 →
      ∃ t : State, exec i s = .next t ∧ OnlyStrand k s t ∧ SameControl (s.str k) (t.str k) ∧ SameFBut rd (s.str k) (t.str k)
        ∧ (t.str k).regs.g = (s.str k).regs.g ∧ (t.str k).regs.g15 = (s.str k).regs.g15 ∧ (t.str k).win = (s.str k).win
        ∧ (t.str k).fctl.rm = (s.str k).fctl.rm
        ∧ (t.str k).fctl.flags &&& (s.str k).fctl.flags = (s.str k).fctl.flags)
    ∧ ((fOk rd && src.all fOk) = false ∨ rm = 5 ∨ rm = 6 → exec i s = raises s k 0x01 0 0)

/-! ### Control registers -/

/-- MFC (R109, R110, Table 4-11): an unassigned number raises 0x01, one whose read level is above LVL raises 0x02, and every other
read gives the value in effect. -/
def Obligations.ControlRegisterReads : Prop :=
  ∀ (s : State) (k : StrandId) (rd : RSpec) (n : BitVec 12), Ready s k 4 → xOk rd = true →
    let t := s.str k
    (ctlLevels n.toNat = none → exec (.mfc rd n) s = raises s k 0x01 0 0)
    ∧ (∀ (r : Lvl) (w : Option Lvl), ctlLevels n.toNat = some (r, w) → t.status.lvl.below r = true →
        exec (.mfc rd n) s = raises s k 0x02 0 0)
    ∧ (t.status.lvl = .ml → countPending s k = false → sumPending s k = false →
        ∀ p ∈ ([((0x000 : BitVec 12), statusWord k t), ((0x001 : BitVec 12), s.core.edtb), ((0x002 : BitVec 12), s.core.gdtb),
          ((0x003 : BitVec 12), w64 (t.fctl.rm.toNat * 32 + t.fctl.flags.toNat)), ((0x010 : BitVec 12), t.saves.u.pc), ((0x011 : BitVec 12), t.saves.u.st),
          ((0x012 : BitVec 12), t.saves.u.ca), ((0x013 : BitVec 12), t.saves.u.fa), ((0x014 : BitVec 12), t.saves.stkU), ((0x018 : BitVec 12), t.saves.s.pc), ((0x019 : BitVec 12), t.saves.s.st),
          ((0x01A : BitVec 12), t.saves.s.ca), ((0x01B : BitVec 12), t.saves.s.fa), ((0x01C : BitVec 12), t.saves.stkS), ((0x020 : BitVec 12), t.saves.m.save.pc),
          ((0x021 : BitVec 12), t.saves.m.save.st), ((0x023 : BitVec 12), t.saves.m.save.fa), ((0x024 : BitVec 12), t.saves.stkM), ((0x030 : BitVec 12), w64 t.num.tshape.toNat),
          ((0x031 : BitVec 12), w64 (bit s.core.jl * 256 + s.core.prof.toNat)), ((0x032 : BitVec 12), w64 t.num.xpass.toNat), ((0x033 : BitVec 12), t.num.numcnt),
          ((0x034 : BitVec 12), t.num.numev), ((0x040 : BitVec 12), t.xl.ptb), ((0x041 : BitVec 12), w64 t.xl.asid.toNat),
          ((0x042 : BitVec 12), w64 (s.ms.vict.toNat * 256 + t.xl.idx.toNat)), ((0x043 : BitVec 12), t.xl.ftlo), ((0x044 : BitVec 12), t.xl.fthi), ((0x050 : BitVec 12), s.core.cyc),
          ((0x051 : BitVec 12), s.core.gtime), ((0x060 : BitVec 12), t.num.sumr), ((0x070 : BitVec 12), s.feat[0]), ((0x077 : BitVec 12), s.feat[7])]),
          exec (.mfc rd p.1) s = givesX s k 4 rd p.2)

/-- MTC (R109, R110): a register that needs SYNC.C keeps its value and the write waits; the others change at once, in their writable
bits; a register whose write level is none is not written and raises nothing; the reserved codes of TSHAPE, NPROF and XPASS are
ignored; NPROF under the join lock raises 0x19 (R24). -/
def Obligations.ControlRegisterWrites : Prop :=
  ∀ (s : State) (k : StrandId) (rs : RSpec) (n : BitVec 12), Ready s k 4 → xOk rs = true →
    let t := s.str k
    let v := t.x rs
    let now := fun (c : BitVec 12) (f : Strand → Strand) => exec (.mtc rs c) s = .next (retire (s.modStr k f) k 4)
    let later := fun (c : BitVec 12) (f : Pend → Pend) =>
      exec (.mtc rs c) s = .next (retire (s.modRun k (fun r => { r with pend := f r.pend })) k 4)
    (ctlLevels n.toNat = none → exec (.mtc rs n) s = raises s k 0x01 0 0)
    ∧ (∀ (r w : Lvl), ctlLevels n.toNat = some (r, some w) → t.status.lvl.below w = true → exec (.mtc rs n) s = raises s k 0x02 0 0)
    ∧ (∀ r : Lvl, ctlLevels n.toNat = some (r, none) → exec (.mtc rs n) s = completes s k 4)
    ∧ (t.status.lvl = .ml → countPending s k = false → sumPending s k = false →
        now 0x003 (fun u => { u with fctl := { rm := v.extractLsb' 5 3, flags := v.extractLsb' 0 5 } })
        ∧ now 0x010 (fun u => { u with saves := { u.saves with u := { u.saves.u with pc := v } } })
        ∧ now 0x01B (fun u => { u with saves := { u.saves with s := { u.saves.s with fa := v } } })
        ∧ now 0x020 (fun u => { u with saves := { u.saves with m := { u.saves.m with save := { u.saves.m.save with pc := v } } } })
        ∧ now 0x024 (fun u => { u with saves := { u.saves with stkM := v &&& ~~~(0xF : Word) } })
        ∧ now 0x033 (fun u => { u with num := { u.num with numcnt := v } })
        ∧ now 0x042 (fun u => { u with xl := { u.xl with idx := v.extractLsb' 0 8 } })
        ∧ later 0x001 (fun p => { p with edtb := some (v &&& 0x000FFFFFFFFFE001) })
        ∧ later 0x040 (fun p => { p with ptb := some (v &&& 0x000FFFFFFFFFF001) })
        ∧ later 0x041 (fun p => { p with asid := some (v.extractLsb' 0 16) })
        ∧ (v.extractLsb' 0 2 = 0 → exec (.mtc rs 0x030) s = completes s k 4 ∧ exec (.mtc rs 0x031) s = completes s k 4
            ∧ exec (.mtc rs 0x032) s = completes s k 4)
        ∧ (v.extractLsb' 0 2 ≠ 0 → later 0x030 (fun p => { p with tshape := some (v.extractLsb' 0 2) })
            ∧ now 0x032 (fun u => { u with num := { u.num with xpass := v.extractLsb' 0 2 } })
            ∧ (s.core.jl = false → later 0x031 (fun p => { p with nprof := some (v.extractLsb' 0 2) }))
            ∧ (s.core.jl = true → v.extractLsb' 0 2 ≠ s.core.prof →
                exec (.mtc rs 0x031) s = .next (raise s k (mkEv 0x19 0 0 .ml)))))

/-! ### SYNC, fences, window spills and fills -/

/-- SYNC.C, SYNC.I, FENCE and FENCE.F (R111, R112, R103, R104). The pending writes of EDTB, GDTB, PTB, ASID, SAP, SEP and of a level that
needs no spill take effect and wait no more, the current window takes a lowered level's tag (R53), and nothing else changes. A lowered level
first spills the windows that R53 names, the oldest first; a misaligned save area raises 0x11 and drops the level write alone (R52). A new
TSHAPE waits for the strand's tile work, entries and saves, and then clears its contexts (R20, R153); a new NPROF waits for the TMMA, Rill and
Cistern work of the core, and holds that of the others (R25). In job abort SYNC.C does not leave ML (R406). SYNC.I and the fences wait,
changing nothing, until what they order is performed. -/
def Obligations.SyncAndFences : Prop :=
  ∀ (s : State) (k : StrandId), Ready s k 4 →
    let p := (s.str k).run.pend
    let w := (s.str k).win
    let lv := (s.str k).status.lvl
    let settled := fun (u : State) => u.modRun k (fun r => { r with pend := Pend.none })
    let waits := fun (u : State) => (u.str k).pc = (s.str k).pc ∧ ∀ j : StrandId, j ≠ k → u.str j = s.str j
    (p.tshape = none → p.nprof = none → (s.rel.aborted = true → lv = .ml → p.lvl.getD .ml = .ml) →
        (∀ y : Lvl, p.lvl = some y → y = lv ∨ (y.below lv = true ∧ needSpill w y 1 = false)) →
        exec .syncC s = .next (retire (settled ((s.modCore (fun c =>
            { c with edtb := p.edtb.getD c.edtb, gdtb := p.gdtb.getD c.gdtb })).modStr k (fun u =>
            { u with
              xl := { u.xl with ptb := p.ptb.getD u.xl.ptb, asid := p.asid.getD u.xl.asid }
              status := { u.status with lvl := p.lvl.getD lv, sap := p.sap.getD u.status.sap, sep := p.sep.getD u.status.sep }
              win := match p.lvl with
                | some y => if y = lv then u.win else u.win.modSlot u.win.wcur (fun q => { q with tag := y })
                | none => u.win }))) k 4))
    ∧ (∀ y : Lvl, p = { Pend.none with lvl := some y } → y.below lv = true → s.rel.aborted = false →
        (∀ n : Nat, w.resw ≤ 11 → needSpill { w with resw := w.resw - n } y 1 = false →
          (∀ j : Nat, j < n → needSpill { w with resw := w.resw - j } y 1 = true) →
          (∀ j : Nat, j < n → let a := ((w.ring[w.nth (j + 1)]).i[0]).toNat
            a % 16 = 0 ∧ spw ≤ a ∧ a + 128 ≤ spw + s.spadSize ∧ AccessFree s k true true (a - spw) 128) → s.marks = [] →
          exec .syncC s = .next (retire (settled (({ s with spad := (List.range n).foldl (fun (m : Mem) j =>
              m.putN (((w.ring[w.nth (j + 1)]).i[0]).toNat - spw) (slotBytes (w.ring[w.nth j]))) s.spad } : State).modStr k (fun u =>
              { u with
                win := ({ u.win with resw := u.win.resw - n } : Win).modSlot u.win.wcur (fun q => { q with tag := y })
                status := { u.status with lvl := y } }))) k 4))
        ∧ (needSpill w y 1 = true → ((w.ring[w.nth 1]).i[0]).toNat % 16 ≠ 0 →
          exec .syncC s = raises (settled s) k 0x11 ((w.ring[w.nth 1]).i[0]) 0))
    ∧ (∀ y : Lvl, s.rel.aborted = true → lv = .ml → p.lvl = some y → y ≠ .ml → exec .syncC s = .next s)
    ∧ (∀ v : BitVec 2, p = { Pend.none with tshape := some v } →
        (v = (s.str k).num.tshape → exec .syncC s = .next (retire (settled s) k 4))
        ∧ (v ≠ (s.str k).num.tshape → s.tiles.tmu.gang.st = .own ∨ s.tiles.tmu.gang.ctx.k ≠ k →
          (((∃ o ∈ s.tiles.inflight, o.ctx.k = k) ∨ (∃ e ∈ s.tiles.runnel.toList, e.st ≠ .free ∧ e.drop = false ∧ e.owner.k = k)
              ∨ (∃ c : Claim, s.tiles.claim = some c ∧ ∃ x : CtxId, c.ph = .saving x ∧ x.k = k)) →
            ∃ t : State, exec .syncC s = .next t ∧ waits t ∧ (t.str k).num = (s.str k).num ∧ (t.str k).ctx = (s.str k).ctx
              ∧ t.tiles = s.tiles ∧ (t.str k).run.pend = p)
          ∧ (((∀ o ∈ s.tiles.inflight, o.ctx.k ≠ k) ∧ (∀ e ∈ s.tiles.runnel.toList, e.st = .free ∨ e.owner.k ≠ k)
              ∧ s.tiles.claim = none) →
            ∃ t : State, exec .syncC s = .next (retire t k 4) ∧ waits t ∧ (t.str k).num = { (s.str k).num with tshape := v }
              ∧ (∀ y : Lvl, (t.ctxOf { k := k, lv := y }).st = if (s.ctxOf { k := k, lv := y }).st = .none then .none else .cleared)
              ∧ (∀ b ∈ t.tiles.banks.toList, ∀ c : CtxId, b.owner = some c → c.k ≠ k)
              ∧ (∀ i : Fin 2, (∀ c : CtxId, (s.tiles.banks[i]).owner = some c → c.k ≠ k) → t.tiles.banks[i] = s.tiles.banks[i])
              ∧ (t.str k).run.pend = Pend.none ∧ t.near = s.near ∧ t.spad = s.spad)))
    ∧ (∀ v : BitVec 2, p = { Pend.none with nprof := some v } →
        let open' := ∃ o ∈ s.tiles.inflight, o.unit = .tmu ∨ o.unit = .rill ∨ o.unit = .cistern
        (v ≠ s.core.prof → open' → exec .syncC s = .next (s.modRun k (fun r => { r with profWait := true }))
          ∧ ∀ j : StrandId, j ≠ k → profHold (s.modRun k (fun r => { r with profWait := true })) j = true)
        ∧ (v = s.core.prof ∨ ¬ open' → exec .syncC s = .next (retire ((s.modCore (fun c => { c with prof := v })).modRun k
            (fun r => { r with pend := Pend.none, profWait := false })) k 4)))
    ∧ (nearBefore s k = false → exec .syncI s = .next (retire (s.modArr .l1i (fun c => { c with lines := [] })) k 4))
    ∧ (nearBefore s k = true → exec .syncI s = .next s)
    ∧ (nearOpen s k = false → exec .fence s = completes s k 4) ∧ (nearOpen s k = true → exec .fence s = .next s)
    ∧ (nearOpen s k = false → farOpen s k = false → exec .fenceF s = completes s k 4)
    ∧ ((nearOpen s k || farOpen s k) = true → exec .fenceF s = .next s)

/-- Where SYNC.C, SYNC.I, FENCE and FENCE.F complete (R111, R112, R103, R104): SYNC.C when nothing that it applies has anything to wait for,
the others when the strand's older near accesses (and for FENCE.F its far accesses) have been performed. -/
def Obligations.SyncAndFencesComplete : Prop :=
  ∀ (s : State) (k : StrandId), Ready s k 4 →
    let p := (s.str k).run.pend
    let next := fun (t : State) => (∀ j : StrandId, j ≠ k → t.str j = s.str j) ∧ (t.str k).regs = (s.str k).regs
      ∧ ((s.str k).loops = [] → (t.str k).pc = (s.str k).pc + 4) ∧ t.near = s.near ∧ t.spad = s.spad
    (p.tshape = none → p.nprof = none → p.lvl = none → ∃ t : State, exec .syncC s = .next t ∧ next t ∧ (t.str k).run.pend = Pend.none)
    ∧ (nearBefore s k = false → ∃ t : State, exec .syncI s = .next t ∧ next t ∧ t.ms.l1i.lines = [])
    ∧ (nearOpen s k = false → ∃ t : State, exec .fence s = .next t ∧ next t)
    ∧ (nearOpen s k = false → farOpen s k = false → ∃ t : State, exec .fenceF s = .next t ∧ next t)

/-- WSPILL and WFILL with a save area in the scratchpad (R51, R52, Table 2-7): WSPILL stores the 128 bytes of the oldest window at i0 of
the window after it and lowers RESW; WFILL reads the window below the oldest from the oldest's i0 with its tag the level named, and
raises RESW. Each checks its requirements first; a misaligned address raises 0x11 or 0x12. -/
def Obligations.WindowSpillsAndFills : Prop :=
  ∀ (s : State) (k : StrandId) (lv : BitVec 2), Ready s k 4 → s.marks = [] →
    let t := s.str k
    let w := t.win
    let area := fun (wr : Bool) (a : Word) => a.toNat % 16 = 0 ∧ spw ≤ a.toNat ∧ a.toNat + 128 ≤ spw + s.spadSize
      ∧ AccessFree s k true wr (a.toNat - spw) 128
    (w.resw < 2 → exec .wspill s = raises s k 0x01 0 0)
    ∧ (2 ≤ w.resw → t.status.lvl.below (w.ring[w.oldest]).tag = true → exec .wspill s = raises s k 0x02 0 0)
    ∧ (2 ≤ w.resw → t.status.lvl.below (w.ring[w.oldest]).tag = false →
        let a := (w.ring[w.nth 1]).i[0]
        (area true a → exec .wspill s = .next (retire
          (({ s with spad := s.spad.putN (a.toNat - spw) (slotBytes (w.ring[w.oldest])) } : State).modStr k
            (fun u => { u with win := { u.win with resw := u.win.resw - 1 } })) k 4))
        ∧ (a.toNat % 16 ≠ 0 → exec .wspill s = raises s k 0x11 a 0))
    ∧ (lv = 0b10 ∨ w.free = 0 → exec (.wfill lv) s = raises s k 0x01 0 0)
    ∧ (lv ≠ 0b10 → w.free ≠ 0 → t.status.lvl.below (lvlOf lv.toNat) = true → exec (.wfill lv) s = raises s k 0x02 0 0)
    ∧ (lv ≠ 0b10 → w.free ≠ 0 → t.status.lvl.below (lvlOf lv.toNat) = false →
        let a := (w.ring[w.oldest]).i[0]
        (area false a → ∃ u : State, exec (.wfill lv) s = .next (retire u k 4) ∧ OnlyStrand k s u ∧ (u.str k).win.resw = w.resw + 1
          ∧ (u.str k).win.wcur = w.wcur ∧ (u.str k).regs = t.regs
          ∧ slotBytes ((u.str k).win.ring[w.oldest - 1]) = s.spad.getN (a.toNat - spw) 128
          ∧ ((u.str k).win.ring[w.oldest - 1]).tag = lvlOf lv.toNat)
        ∧ (a.toNat % 16 ≠ 0 → exec (.wfill lv) s = raises s k 0x12 a 0))

/-! ### Events, gates and returns -/

/-- Event entry at ML and at SL (R65, R66, R69, R342): what is saved, and where the handler starts. At ML a frame is pushed on the machine save
stack; at SL, from a level below with no save set and no loop to push, the registers SVPC.S, SVST.S, SVCA.S and SVFA.S are written, and no
memory is. After an FTLB miss FTHI.TAG is the ASID of the strand. -/
def Obligations.EventEntry : Prop :=
  ∀ (s : State) (k : StrandId) (e : Ev) (rpc : Word) (d : EdtE), e.num.toNat < 0x30 → e.src = .instr →
    let y := entryLevel e.num.toNat (s.str k).status.lvl d.tlvl
    let tag := fun (t : State) => e.num = 0x0B → bits (t.str k).xl.fthi.toNat 63 48 = e.asid.toNat
    (MlEntryOk s k e.num.toNat d → y = .ml →
      ∃ t : State, takeEvent s k e rpc false id = .taken t ∧ EnteredMl s t k e.num.toNat e.fa e.info.toNat rpc d ∧ tag t)
    ∧ (SlEntryOk s k e.num.toNat d → y = .sl →
      ∃ t : State, takeEvent s k e rpc false id = .taken t ∧ EnteredSl s t k e.num.toNat e.fa e.info.toNat rpc d ∧ tag t)

/-- What ends the core (R61, R62, R66, R69): an event while EDTB.V is 0, one whose EDT entry's line is poisoned or was answered with an
error, and an entry at ML without a free window or with 8 frames held, halt the core. -/
def Obligations.EntriesThatHalt : Prop :=
  ∀ (s : State) (k : StrandId) (e : Ev) (rpc : Word), (s.str k).run.pend = Pend.none →
    let halts := ∃ t : State, takeEvent s k e rpc false id = .taken t ∧ t.core.halted = true
    (s.core.edtb.getLsbD 0 = false → halts)
    ∧ ((∀ m ∈ s.marks, m.code = 0x15 ∨ m.code = 0x16) → TableHeld s k (w64 (s.edtAddr e.num.toNat)) (s.edtAddr e.num.toNat) 32 → s.badLine (s.edtAddr e.num.toNat) = true → halts)
    ∧ (∀ d : EdtE, s.marks = [] → TableHeld s k (w64 (s.edtAddr e.num.toNat)) (s.edtAddr e.num.toNat) 32 → s.edt e.num.toNat = some d → e.num.toNat < 0x40 → entryLevel e.num.toNat (s.str k).status.lvl d.tlvl = .ml →
        e.src = .instr → (s.str k).win.free = 0 ∨ (s.str k).mssFrames = 8 → halts)

/-- EVENT_ENTRY and BRK (R481, R73, R76). At a boundary what comes first is entered: a machine check, an event whose entry has begun, a
pending synchronous event, the best vector that the strand can take; and it is no longer pending. With nothing to take the boundary changes
nothing, or holds a strand whose HOLD bit is set (R44). BRK in every place but the end of a loop raises 0x03 with its immediate in INFO:
at ML and at SL it is entered with its own address in SVPC. That the event of a begun entry comes right after a machine check, and that a
hold waits for what is to be taken first, are the model's (notes/assumptions/21.md). -/
def Obligations.BoundaryEntriesAndBreakpoints : Prop :=
  ∀ (s : State) (k : StrandId),
    let lvl := (s.str k).status.lvl
    let pc := (s.str k).pc
    (issuing s = none → exec .eventEntry s = .next s)
    ∧ (issuing s = some k → nextEvent s k = none →
        exec .eventEntry s = .next (if s.core.hold.getLsbD k.val then holdStrand s k else s))
    ∧ (∀ (e : Ev) (d : EdtE), issuing s = some k → s.core.hold.getLsbD k.val = false → MlEntryOk s k e.num.toNat d →
        (nextEvent s k = some (.mchk e) → 0x30 ≤ e.num.toNat → e.num.toNat < 0x40 →
          ∃ t : State, exec .eventEntry s = .next t ∧ (t.str k).pc = d.handler &&& ~~~(3 : Word) ∧ (t.str k).status.lvl = .ml
            ∧ (t.str k).saves.m.save.pc = pc ∧ (t.str k).saves.m.save.fa = e.fa
            ∧ bits (t.str k).saves.m.save.ca.toNat 7 0 = e.num.toNat ∧ (t.str k).run.mchk = (s.str k).run.mchk.erase e)
        ∧ (nextEvent s k = some (.own e) → e.num.toNat < 0x30 → (∀ c : CtxId, e.src = .chain c → c.k = k) → entryLevel e.num.toNat lvl d.tlvl = .ml →
          ∃ t : State, exec .eventEntry s = .next t ∧ EnteredMl s t k e.num.toNat e.fa e.info.toNat pc d)
        ∧ (∀ i : Nat, nextEvent s k = some (.pend i e) → e.num.toNat < 0x30 → e.src ≠ .save → (∀ c : CtxId, e.src = .chain c → c.k = k) → entryLevel e.num.toNat e.rel d.tlvl = .ml →
          ∃ t : State, exec .eventEntry s = .next t ∧ EnteredMl s t k e.num.toNat e.fa e.info.toNat pc d
            ∧ (t.str k).run.pendEv = (s.str k).run.pendEv.erase e))
    ∧ (∀ (v : Nat) (d : EdtE), issuing s = some k → s.core.hold.getLsbD k.val = false → nextEvent s k = some (.irq v) → 0x40 ≤ v → v < 0x100 →
        (d.tlvl = .ml → MlEntryOk s k v d → ∃ t : State, exec .eventEntry s = .next t ∧ EnteredMl s t k v 0 0 pc d
          ∧ ∀ h : v - 0x40 < 192, (t.intu.vcfg[v - 0x40]).pend = false)
        ∧ (d.tlvl = .sl → SlEntryOk s k v d → ∃ t : State, exec .eventEntry s = .next t ∧ EnteredSl s t k v 0 0 pc d
          ∧ ∀ h : v - 0x40 < 192, (t.intu.vcfg[v - 0x40]).pend = false))
    ∧ (∀ imm : BitVec 10, Ready s k 4 → atEnd (s.str k) 4 = false →
        exec (.brk imm) s = raises s k 0x03 0 imm.toNat
        ∧ (∀ d : EdtE, MlEntryOk s k 0x03 d → entryLevel 0x03 lvl d.tlvl = .ml →
            ∃ t : State, exec (.brk imm) s = .next t ∧ EnteredMl s t k 0x03 0 imm.toNat pc d)
        ∧ (∀ d : EdtE, SlEntryOk s k 0x03 d → entryLevel 0x03 lvl d.tlvl = .sl →
            ∃ t : State, exec (.brk imm) s = .next t ∧ EnteredSl s t k 0x03 0 imm.toNat pc d))

/-- GATE n (R77, R79, Table 3-13): the checks that fail first, with their reasons; and a gate of ML without arguments and without a
stack of its own, which is entered with number 0x17, the address after the GATE in SVPC and n in INFO. -/
def Obligations.GateChecksAndEntry : Prop :=
  ∀ (s : State) (k : StrandId) (n : BitVec 10), Ready s k 4 → atEnd (s.str k) 4 = false → s.marks = [] →
    let a := bits s.core.gdtb.toNat 51 12 * 4096 + 32 * n.toNat
    let faults := fun (reason : Nat) => ∃ c : State, { c with ms := s.ms } = s
      ∧ exec (.gate n) s = raises c k 0x16 0 (reason * 0x1000 + n.toNat)
    TableHeld s k (w64 a) a 32 →
    let w := s.near.getLE (a + 16) 8
    let lv := (s.str k).status.lvl
    (bits s.core.gdtb.toNat 10 0 ≤ n.toNat → exec (.gate n) s = raises s k 0x16 0 (0x1000 + n.toNat))
    ∧ (n.toNat < bits s.core.gdtb.toNat 10 0 → tbit w 63 = false ∨ bits w 57 56 = 2 →
        faults 2)
    ∧ (n.toNat < bits s.core.gdtb.toNat 10 0 → tbit w 63 = true → bits w 57 56 ≠ 2 → tbit w (52 + lv.rank.val) = false →
        faults 3)
    ∧ (n.toNat < bits s.core.gdtb.toNat 10 0 → tbit w 63 = true → bits w 57 56 ≠ 2 → tbit w (52 + lv.rank.val) = true →
        (lvlOf (bits w 57 56)).below lv = true → faults 4)
    ∧ (n.toNat < bits s.core.gdtb.toNat 10 0 → tbit w 63 = true → bits w 57 56 = 3 → tbit w (52 + lv.rank.val) = true →
        bits w 23 0 = 0 → bits (s.near.getLE (a + 8) 8) 63 4 = 0 → (s.str k).run.pend = Pend.none → 1 ≤ (s.str k).win.free →
        (s.str k).mssFrames < 8 →
        ∃ t : State, exec (.gate n) s = .next t
          ∧ EnteredMl s t k 0x17 0 n.toNat ((s.str k).pc + 4)
              { handler := w64 (s.near.getLE a 8), kie := tbit w 55, tlvl := .ml })

/-- EVRET (R71, R49): without a save set 0x01, with fewer than two windows 0x0F. From ML it goes back to SVPC.M at the level of SVST.M
with its IE, SAP and SEP, pops the frame, restores its loops when LP says so, and rotates the window back; no memory is touched when
no window must be spilled. -/
def Obligations.EventReturn : Prop :=
  ∀ (s : State) (k : StrandId), Ready s k 4 → atEnd (s.str k) 4 = false →
    let a := s.str k
    let sv := a.saves.m.save
    let t := Lvl.least (lvlOf (bits sv.st.toNat 9 8)) .ml
    (a.svV a.status.lvl = false → exec .evret s = raises s k 0x01 0 0)
    ∧ (a.svV a.status.lvl = true → a.win.resw < 2 → exec .evret s = raises s k 0x0F 0 0)
    ∧ (a.status.lvl = .ml → a.saves.mV = true → 2 ≤ a.win.resw → s.marks = [] → s.rel.aborted = false →
        needSpill a.win t 2 = false → s.trace.en = false →
        ∃ u : State, exec .evret s = .next u
          ∧ (u.str k).pc = sv.pc ∧ (u.str k).status = { lvl := t, ie := tbit sv.st.toNat 0, sap := tbit sv.st.toNat 10, sep := tbit sv.st.toNat 11 }
          ∧ (u.str k).loops = (if tbit sv.ca.toNat 36 then a.saves.m.loops else [])
          ∧ (u.str k).mssFrames = a.mssFrames - 1 ∧ (∀ (f : MFrame) (r : List MFrame), a.saves.mOld = f :: r → (u.str k).saves.m = f)
          ∧ (u.str k).win.wcur = a.win.wcur - 1 ∧ (u.str k).win.resw = a.win.resw - 1
          ∧ ((u.str k).win.ring[(u.str k).win.wcur]).tag = t ∧ (u.str k).regs = a.regs ∧ (u.str k).saves.u = a.saves.u
          ∧ (u.str k).saves.s = a.saves.s ∧ u.near = s.near ∧ u.spad = s.spad ∧ ∀ j : StrandId, j ≠ k → u.str j = s.str j)

/-- STRAND_SWITCH (R36 to R39, Table 2-2): a strand that waits, or has called a gate, gives the core to the first ready strand after it
in round-robin order; with no ready strand, with nothing to wait for, or with an event of its own to take, it goes on. A strand with a
machine event to take comes in first, also where no strand runs. No register of any strand changes. That a machine event elsewhere comes
before the strand's own wait is the model's choice (notes/assumptions/132.md). -/
def Obligations.StrandSwitches : Prop :=
  ∀ (s : State) (k j : StrandId) (c : Cond),
    let only := fun (t : State) => (∀ i : StrandId, { t.str i with run := (s.str i).run } = s.str i) ∧ t.near = s.near ∧ t.tiles = s.tiles
      ∧ t.far = s.far
    (issuing s = some k →
      ((nextEvent s k).isSome = true → exec .strandSwitch s = .next s)
      ∧ (nextEvent s k = none → machineNext s k = none → (s.str k).run.cond = none → exec .strandSwitch s = .next s)
      ∧ (nextEvent s k = none → machineNext s k = none → nextReady s k = none → exec .strandSwitch s = .next s)
      ∧ (nextEvent s k = none → machineNext s k = none → (s.str k).run.cond = some c → nextReady s k = some j → j ≠ k →
          ∃ t : State, exec .strandSwitch s = .next t ∧ t.core.cur = some j ∧ t.core.last = k
            ∧ (t.str k).run.st = (if c = .gate then StState.ready else StState.waiting) ∧ (t.str j).run.st = .running ∧ only t)
      ∧ (nextEvent s k = none → machineNext s k = some j → j ≠ k →
          ∃ t : State, exec .strandSwitch s = .next t ∧ t.core.cur = some j ∧ (t.str k).run.st = .ready ∧ (t.str j).run.st = .running
            ∧ only t))
    ∧ (s.core.halted = false → s.pwr.pstate = .c0 → s.pwr.bstate = 2 → s.pwr.warmDue = none → s.core.cur = none → s.core.last = k →
      let comes := ∃ t : State, exec .strandSwitch s = .next t ∧ t.core.cur = some j ∧ (t.str j).run.st = .running ∧ only t
      (machineNext s k = some j → comes)
      ∧ (machineNext s k = none → machineEvent s k = false → nextReady s k = some j → comes)
      ∧ (machineNext s k = none → machineEvent s k = false → nextReady s k = none → (s.str k).run.st ≠ .ready →
          exec .strandSwitch s = .next s))

/-! ### Tile registers -/

/-- TLD, TLD.X, TLDA, TST and TSTA with their rows in the scratchpad (R140 to R142, R170): what is dispatched to the load-store unit, with
its registers, tags, format and rows; and TILE_MOVE_COMPLETE (R482), which fills the register and its tag with the bytes that its rows then
hold, counts the flushes of TLD.X, or stores the rows of the register in memory form. No Device write of the strand is open (R305), and no row
touches a save frame whose bytes are unpredictable (R150). Where in its execution a move reads and writes is the
model's (notes/assumptions/49.md). -/
def Obligations.TileMoves : Prop :=
  ∀ (s : State) (k : StrandId) (c : CtxId),
    let shape := (s.str k).num.tshape
    let n := nRows shape
    (∀ (rb rs : RSpec), TileReady s k c → xOk rb = true → xOk rs = true →
      let b := (s.str k).x rb
      let rows := fun (len : Nat) => spadPieces (rowOff b (strideOf s k rs len)) n len
      let fits := fun (len : Nat) => SpadRows s b (strideOf s k rs len) n len
      let loads := fun (i : Instr) (w : MvWords) (wr : List Nat) (tags : List (Nat × Word)) => ∃ (u : State) (o : TOp),
        exec i s = .next (retire u k 8) ∧ Dispatched s u o ∧ o.ctx = c ∧ o.unit = .move ∧ o.rd = [] ∧ o.wr = wr ∧ o.tags = tags
          ∧ o.spRd = true ∧ o.spWr = false ∧ o.body = .load { w := w, todo := w.pieces, got := [] }
      let stores := fun (i : Instr) (w : MvWords) => ∃ (u : State) (o : TOp),
        exec i s = .next (retire u k 8) ∧ Dispatched s u o ∧ o.ctx = c ∧ o.unit = .move ∧ o.rd = [w.reg] ∧ o.wr = [] ∧ o.tags = []
          ∧ o.spRd = false ∧ o.spWr = true ∧ o.body = .store { w := w, todo := w.pieces, data := none, scales := [] }
      (∀ (t fmt : BitVec 4) (bs : Bool) (bsz : BitVec 2) (bdir : Bool) (soff : BitVec 16) (f : TFmt), t.toNat < nTiles shape → fmt ≠ 4 →
        tfmtOf fmt.toNat = some f → tagBad s shape fmt.toNat bs bsz.toNat bdir soff.toNat = false → fits (f.memRow (rowLen shape)) →
        let tag := mkTtag fmt.toNat bs bsz.toNat bdir soff.toNat
        loads (.tld t rb rs fmt bs bsz bdir soff)
          { gang := false, store := false, kind := .tile, reg := t.toNat, tag := tag, fmt := fmt.toNat, shape := shape, els := f.perRow (rowLen shape),
            rows := n, fill := 0, pieces := rows (f.memRow (rowLen shape)) } [t.toNat] [(t.toNat, tag)])
      ∧ (∀ t : BitVec 4, t.toNat < nTiles shape → t.toNat % 2 = 0 → fits (2 * rowLen shape) →
        loads (.tldX t rb rs)
          { gang := false, store := false, kind := .split, reg := t.toNat, tag := 0, fmt := 4, shape := shape, els := rowLen shape / 2, rows := n, fill := 0,
            pieces := rows (2 * rowLen shape) } [t.toNat, t.toNat + 1] [(t.toNat, 0x04), (t.toNat + 1, 0x14)])
      ∧ (∀ (a : BitVec 2) (int : Bool), a.toNat < nAccs shape → fits (4 * accCols shape) →
        loads (.tlda a rb rs int)
          { gang := false, store := false, kind := .acc, reg := 16 + a.toNat, tag := w64 (bit int), fmt := 0, shape := shape, els := accCols shape, rows := n,
            fill := 0, pieces := rows (4 * accCols shape) } [16 + a.toNat] [(16 + a.toNat, w64 (bit int))])
      ∧ (∀ (t : BitVec 4) (f : TFmt), t.toNat < nTiles shape → tfmtOf (tagFmt (tagIn (s.bank c) t.toNat)) = some f →
        fits (f.memRow (rowLen shape)) →
        stores (.tst t rb rs)
          { gang := false, store := true, kind := .tile, reg := t.toNat, tag := 0, fmt := tagFmt (tagIn (s.bank c) t.toNat), shape := shape,
            els := f.perRow (rowLen shape), rows := n, fill := 0, pieces := rows (f.memRow (rowLen shape)) })
      ∧ (∀ a : BitVec 2, a.toNat < nAccs shape → fits (4 * accCols shape) →
        stores (.tsta a rb rs)
          { gang := false, store := true, kind := .acc, reg := 16 + a.toNat, tag := 0, fmt := 0, shape := shape, els := accCols shape, rows := n, fill := 0,
            pieces := rows (4 * accCols shape) }))
    ∧ (∀ (o : TOp) (w : MvWords) (off : Nat → Nat), s.tiles.inflight = [o] → o.unit = .move → s.marks = [] →
      (o.chain = false → devOpen s o.ctx.k = false) →
      (∀ i : Nat, i < w.rows → s.framesHit o.ctx.k (spw + off i) (rowBytes w.kind w.fmt w.els) = false) →
      let len := rowBytes w.kind w.fmt w.els
      let rows := spadRows s off w.rows len
      let r := nRows w.shape
      let b := s.bank o.ctx
      let filled := fun (u : State) (cells : List (Nat × List Byte)) =>
        exec .tileMoveComplete s = .next u ∧ u.tiles.inflight = [] ∧ u.spad = s.spad ∧ u.near = s.near
          ∧ u.bank o.ctx = o.tags.foldl (fun b t => b.putLE (tagOff t.1) 8 t.2.toNat) (cells.foldl (fun b x => b.splice x.1 x.2) b)
      let stored := fun (bytes : Nat → List Byte) => ∃ u : State, exec .tileMoveComplete s = .next u ∧ u.tiles.inflight = []
        ∧ u.tiles.banks = s.tiles.banks ∧ u.near = s.near ∧ u.strands = s.strands
        ∧ u.spad = (List.range w.rows).foldl (fun m i => m.splice (off i) (bytes i)) s.spad
      0 < len →
      (o.body = .load { w := w, todo := spadPieces off w.rows len, got := [] } → (s.ctxOf o.ctx).st = .resident →
        (∀ f : TFmt, w.kind = .tile → tfmtOf w.fmt = some f → ∃ u : State,
          filled u [(regOff w.reg, (fillRows f (f.perRow (rowLen w.shape)) r w.els w.fill rows).flatMap (packRow f))] ∧ u.strands = s.strands)
        ∧ (w.kind = .acc → ∃ u : State,
          filled u [(regOff w.reg, (fillRows .i32 (accCols w.shape) r w.els w.fill rows).flatMap (fun x => x.flatMap (toLE 4)))]
            ∧ u.strands = s.strands)
        ∧ (w.kind = .split →
          let sp := (fillRows .f32 (rowLen w.shape / 2) r w.els w.fill rows).flatten.map splitX
          let nf := ((rows.flatMap (unpackMem .f32 w.els)).map (fun x => (splitX x).2.2)).sum
          let old := (s.str o.ctx.k).num.numcnt.toNat
          ∃ u : State, filled u [(regOff w.reg, sp.flatMap (fun p => toLE 2 p.1)), (regOff (w.reg + 1), sp.flatMap (fun p => toLE 2 p.2.1))]
            ∧ (u.str o.ctx.k).num = { (s.str o.ctx.k).num with
                numcnt := w64 (fld (min nf 0xFFFF) 32 + fld (bits old 31 16) 16 + min (bits old 15 0 + nf) 0xFFFF) }
            ∧ ∀ j : StrandId, { u.str j with num := (s.str j).num } = s.str j))
      ∧ (o.body = .store { w := w, todo := spadPieces off w.rows len, data := none, scales := [] } → Memory.wf b = true → w.rows ≤ r →
        (∀ f : TFmt, w.kind = .tile → tfmtOf w.fmt = some f →
          (w.els = f.perRow (rowLen w.shape) → f.bits ≠ 6 → stored (fun i => rowIn b w.shape w.reg i))
          ∧ (w.els < f.perRow (rowLen w.shape) ∨ w.els = f.perRow (rowLen w.shape) ∧ f.bits = 6 →
            stored (fun i => packMem f ((unpackRow f (rowIn b w.shape w.reg i)).take w.els))))
        ∧ (w.kind = .acc → w.els ≤ accCols w.shape →
          stored (fun i => b.dense (regOff w.reg + i * (4 * accCols w.shape)) (4 * w.els)))))

/-- TZERO, TTAGW, TTAGR and TINFO (R136, R137, R144, R159): the register and its tag become 0; the tag is written in its defined fields,
or 0x01 is raised when R137 refuses it; the tag and the state of a context are read. -/
def Obligations.TileTagsAndState : Prop :=
  ∀ (s : State) (k : StrandId) (c : CtxId) (n : BitVec 4) (acc : Bool) (r : RSpec), TileReady s k c → xOk r = true →
    Memory.wf (s.bank c) = true →
    let shape := (s.str k).num.tshape
    let reg := regNo n acc
    (if acc then n.toNat < nAccs shape else n.toNat < nTiles shape) →
    (∃ u : State, exec (.tzero n acc) s = .next (retire u k 8) ∧ u.tiles.inflight = [] ∧ u.spad = s.spad ∧ u.near = s.near
        ∧ (∀ i : Nat, i < regLen shape reg → (u.bank c).get (regOff reg + i) = 0) ∧ tagIn (u.bank c) reg = 0
        ∧ ∀ a : Nat, (a < regOff reg ∨ regOff reg + regLen shape reg ≤ a) → (a < tagOff reg ∨ tagOff reg + 8 ≤ a) →
            (u.bank c).get a = (s.bank c).get a)
    ∧ (acc = false → tagBad s shape (tagFmt ((s.str k).x r).toNat) (tagBs ((s.str k).x r).toNat) (bits ((s.str k).x r).toNat 10 9)
          (tbit ((s.str k).x r).toNat 11) (bits ((s.str k).x r).toNat 37 22) = true →
        ∃ u : State, exec (.ttagw n acc r) s = .next u ∧ u = raise s k (mkEv 0x01 0 0 .ul))
    ∧ (acc = true ∨ tagBad s shape (tagFmt ((s.str k).x r).toNat) (tagBs ((s.str k).x r).toNat) (bits ((s.str k).x r).toNat 10 9)
          (tbit ((s.str k).x r).toNat 11) (bits ((s.str k).x r).toNat 37 22) = false →
        ∃ u : State, exec (.ttagw n acc r) s = .next (retire u k 8) ∧ u.tiles.inflight = [] ∧ u.spad = s.spad
          ∧ tagIn (u.bank c) reg = (if acc then ((s.str k).x r).toNat % 2 else restoreTag 0 ((s.str k).x r).toNat)
          ∧ ∀ a : Nat, (a < tagOff reg ∨ tagOff reg + 8 ≤ a) → (u.bank c).get a = (s.bank c).get a)
    ∧ (∃ u : State, exec (.ttagr r n acc) s = .next (retire (u.setX k r (w64 (tagIn (s.bank c) reg))) k 8) ∧ u.tiles.banks = s.tiles.banks
        ∧ ∀ j : StrandId, { u.str j with ctx := (s.str j).ctx } = s.str j)
    ∧ exec (.tinfo r (BitVec.ofNat 2 c.lv.code)) s
        = givesX s k 8 r (((s.ctxOf c).fa &&& ~~~(0x3F : Word)) ||| w64 (bit (s.ctxOf c).att * 32 + (s.ctxOf c).bank.val * 8 + 2))

/-- TSAVE, TDET, TATT and TREL (R155 to R158, Table 6-8): a context that no gang pins and whose work is done is saved into its frame and
leaves its bank, is detached, is attached to a frame that can be written, and gives its stack frame back; each has its checks. A frame in the
scratchpad holds the header, the tags and the registers, and nothing outside it changes; a fault of the save is raised with the context
RESIDENT. -/
def Obligations.TileContexts : Prop :=
  ∀ (s : State) (k : StrandId) (c : CtxId) (r : RSpec), Ready s k 8 → c.k = k → s.rel.aborted = false → s.ckHold = false → s.marks = [] →
    xOk r = true →
    let lv := BitVec.ofNat 2 c.lv.code
    let x := s.ctxOf c
    let shape := (s.str k).num.tshape
    let left := fun (u : State) (st : CtxSt) => (u.ctxOf c).st = st ∧ (∀ b ∈ u.tiles.banks.toList, b.owner ≠ some c)
    let done := chainBusy s c = false ∧ (stopChain s c).ctxIdle c = true ∧ s.claiming c = false
    ((s.str k).status.lvl.below c.lv = true → ∀ i ∈ [Instr.tsave lv, .tdet lv, .tatt lv r], exec i s = raises s k 0x02 0 0)
    ∧ ((s.str k).status.lvl.below c.lv = false → s.pinned c = true →
        ∀ i ∈ [Instr.tsave lv, .tdet lv, .tatt lv r], exec i s = .next (raise s k (mkEv 0x1E 0 0x9 .ul)))
    ∧ ((s.str k).status.lvl.below c.lv = false → s.pinned c = false →
      (x.st = .resident → s.ctxIdle c = true →
        (∀ off : Nat, FrameAt s c off → x.pos = 0 → Canon s → ∃ u : State, exec (.tsave lv) s = .next (retire u k 8) ∧ left u .saved
          ∧ FrameRegs shape u.spad off (s.bank c) ∧ (∀ n : Nat, n < 20 → u.spad.getLE (off + tagOff n) 8 = tagIn (s.bank c) n)
          ∧ u.spad.getLE off 8 = 2 ^ 56 + shape.toNat * 2 ^ 48 + c.lv.code * 2 ^ 40 + k.val * 2 ^ 32
          ∧ (∀ a : Nat, a < off ∨ off + frameLen ≤ a → u.spad.get a = s.spad.get a) ∧ u.near = s.near)
        ∧ (∀ (b : List Byte) (s1 : State), saveCtx s c = .ok b s1 → exec (.tsave lv) s = .next (retire (leaveBank s1 c .saved) k 8))
        ∧ (∀ (e : Ev) (s1 : State), saveCtx s c = .fault e s1 → (s1.ctxOf c).st = .resident →
          ∃ s2 : State, exec (.tsave lv) s = .next (raise s2 k e) ∧ (s2.ctxOf c).st = .resident))
      ∧ (x.st ≠ .resident → exec (.tsave lv) s = completes s k 8)
      ∧ (done → ∃ u : State, exec (.tdet lv) s = .next (retire u k 8) ∧ left u .none ∧ c ∉ u.tiles.claims ∧ (u.chainOf c).st = .idle
          ∧ u.spad = s.spad ∧ u.near = s.near)
      ∧ (x.st ≠ .none → exec (.tatt lv r) s = raises s k 0x01 0 0)
      ∧ (x.st = .none → ((s.str k).x r).toNat % 64 ≠ 0 → exec (.tatt lv r) s = raises s k 0x0D ((s.str k).x r) 0)
      ∧ (x.st = .none → ((s.str k).x r).toNat % 64 = 0 → spw ≤ ((s.str k).x r).toNat →
          ((s.str k).x r).toNat + frameLen ≤ spw + s.spadSize →
        exec (.tatt lv r) s
          = .next (retire (s.modCtx c (fun q => { q with st := .saved, fa := (s.str k).x r, pad := 0, att := true, pos := 0 })) k 8)))
    ∧ (c.lv = (s.str k).status.lvl →
      (s.pinned c = true → exec .trel s = .next (raise s k (mkEv 0x1E 0 0x9 .ul)))
      ∧ (s.pinned c = false →
        (x.st = .none → exec .trel s = completes s k 8)
        ∧ (x.st ≠ .none → x.att = true ∨ (s.str k).g15 c.lv ≠ x.fa → exec .trel s = raises s k 0x01 0 0)
        ∧ (x.st ≠ .none → x.att = false → (s.str k).g15 c.lv = x.fa → done →
          ∃ u : State, exec .trel s = .next (retire u k 8) ∧ left u .none ∧ (u.str k).g15 c.lv = x.fa + w64 (frameLen + x.pad.toNat)
            ∧ u.spad = s.spad ∧ u.near = s.near)))

/-- The claim of a bank (R147 to R149): the oldest claim takes a free bank, or waits for its victim's work and then begins to save it, and no
other victim; the saved victim gives its bank up, and one whose save faults stays RESIDENT; a CLEARED claimant's bank and tags are zeroed and a SAVED one's are read from its frame, and
it is then RESIDENT. -/
def Obligations.BankClaims : Prop :=
  ∀ (s : State) (c : CtxId) (rest : List CtxId) (b : Fin 2),
    let shape := (s.str c.k).num.tshape
    (s.tiles.claim = none → s.ckHold = false → s.tiles.claims = c :: rest → pickBank s c = some (b, none) → (s.ctxOf c).st = .cleared →
      ∃ u : State, exec .bankClaim s = .next u ∧ u.tiles.claims = rest ∧ u.tiles.claim = some { ctx := c, bank := b, ph := .zeroing }
        ∧ u.strands = s.strands ∧ u.spad = s.spad ∧ u.near = s.near)
    ∧ (s.tiles.claim = none → s.ckHold = false → s.tiles.claims = c :: rest → pickBank s c = some (b, none) → (s.ctxOf c).st = .saved →
      ∃ u : State, exec .bankClaim s = .next u ∧ u.tiles.claims = rest ∧ u.tiles.claim = some { ctx := c, bank := b, ph := .restoring }
        ∧ (u.ctxOf c).st = .restoring ∧ (u.ctxOf c).pos = 0 ∧ (u.tiles.banks[b]).owner = some c)
    ∧ (∀ v : CtxId, v ≠ c → s.tiles.claim = none → s.ckHold = false → s.tiles.claims = c :: rest → pickBank s c = some (b, some v) →
        (s.ctxOf c).st = .cleared ∨ (s.ctxOf c).st = .saved →
      (s.ctxIdle v = true → ∃ u : State, exec .bankClaim s = .next u ∧ u.tiles.claims = rest ∧ (u.ctxOf v).st = .saving
        ∧ u.tiles.claim = some { ctx := c, bank := b, ph := .saving v })
      ∧ (s.ctxIdle v = false → ∃ u : State, exec .bankClaim s = .next u ∧ u.tiles.claims = rest ∧ u.strands = s.strands
        ∧ u.tiles.claim = some { ctx := c, bank := b, ph := .waiting v }))
    ∧ (∀ v : CtxId, s.tiles.claim = some { ctx := c, bank := b, ph := .waiting v } → s.ckHold = false → (s.tiles.banks[b]).owner = some v →
        s.pinned v = false → (s.ctxOf c).st = .cleared ∨ (s.ctxOf c).st = .saved →
      (s.ctxIdle v = false → exec .bankClaim s = .next s)
      ∧ (s.ctxIdle v = true → ∃ u : State, exec .bankClaim s = .next u ∧ u.tiles.claims = s.tiles.claims ∧ (u.ctxOf v).st = .saving
        ∧ u.tiles.claim = some { ctx := c, bank := b, ph := .saving v }))
    ∧ (∀ (v : CtxId) (s1 : State), s.tiles.claim = some { ctx := c, bank := b, ph := .saving v } → v ≠ c →
        let s0 := s.modCtx v (fun x => { x with st := .resident })
        (∀ d : List Byte, saveCtx s0 v = .ok d s1 → (s1.ctxOf c).st = .cleared ∨ (s1.ctxOf c).st = .saved →
          ∃ u : State, exec .lazySaveComplete s = .next u ∧ (u.ctxOf v).st = .saved
            ∧ u.tiles.claim = some { ctx := c, bank := b, ph := if (s1.ctxOf c).st = .saved then .restoring else .zeroing })
        ∧ (∀ e : Ev, saveCtx s0 v = .fault e s1 →
          ∃ u : State, exec .lazySaveComplete s = .next u ∧ u.tiles.claim = none ∧ (u.ctxOf v).st = .resident
            ∧ { e with rel := v.lv, src := .save } ∈ (u.str v.k).run.pendEv))
    ∧ (s.tiles.claim = some { ctx := c, bank := b, ph := .zeroing } →
      ∃ u : State, exec .bankZeroingDone s = .next u ∧ u.tiles.claim = none ∧ (u.ctxOf c).st = .resident ∧ (u.ctxOf c).bank = b
        ∧ (u.tiles.banks[b]).owner = some c ∧ u.bank c = [] ∧ u.spad = s.spad ∧ u.near = s.near)
    ∧ (∀ off : Nat, s.tiles.claim = some { ctx := c, bank := b, ph := .restoring } → FrameAt s c off → (s.ctxOf c).pos = 0 → s.marks = [] →
        Canon s →
      ∃ u : State, exec .lazyRestoreComplete s = .next u ∧ u.tiles.claim = none ∧ (u.ctxOf c).st = .resident ∧ (u.ctxOf c).bank = b
        ∧ (u.tiles.banks[b]).owner = some c ∧ FrameRegs shape s.spad off (u.bank c)
        ∧ (∀ n : Nat, n < 20 → tagIn (u.bank c) n = restoreTag n (s.spad.getLE (off + tagOff n) 8)) ∧ u.spad = s.spad ∧ u.near = s.near)

/-! ### The matrix unit -/

/-- TMMA in its four forms and TRET (R165 to R174): the operation that is dispatched, with what its dispatch fixes; a retiring form
reserves a Runnel entry, and TRET's copy begins at once when nothing holds its accumulator; with no entry to be had a TRET waits. No NPROF
change of another strand is waiting (R25). -/
def Obligations.MatrixDispatch : Prop :=
  ∀ (s : State) (k : StrandId) (c : CtxId) (a : BitVec 2) (ta tb : BitVec 4) (ksel : BitVec 2) (klen : BitVec 9), TileReady s k c →
    gangStands s = false → profHold s k = false →
    let shape := (s.str k).num.tshape
    let b := s.bank c
    let tagA := tagIn b ta.toNat
    let tagB := tagIn b tb.toNat
    let legal := fun (zero : Bool) => a.toNat < nAccs shape ∧ ta.toNat < nTiles shape ∧ tb.toNat < nTiles shape
      ∧ tmmaIllegal shape zero ta.toNat tb.toNat tagA tagB (tbit (tagIn b (16 + a.toNat)) 0) ksel.toNat klen.toNat = false
      ∧ profRefuses s.core.prof.toNat tagA tagB (s.str k).num.xpass.toNat ksel.toNat klen.toNat = false
    let gives := fun (i : Instr) (zero : Bool) (entry : Option (Fin 8)) => ∃ (u : State) (o : TOp) (p : TmmaOp),
      exec i s = .next (retire u k 8) ∧ Dispatched s u o ∧ o.ctx = c ∧ o.unit = .tmu ∧ o.body = .tmma p ∧ p.zero = zero ∧ p.noPass = false
        ∧ p.a.val = a.toNat ∧ p.ta.val = ta.toNat ∧ p.tb.val = tb.toNat ∧ p.tagA = w64 tagA ∧ p.tagB = w64 tagB ∧ p.shape = shape ∧ p.gang = false ∧ p.rowsA = none
        ∧ p.scA = scaleBytes s shape tagA ∧ p.scB = scaleBytes s shape tagB
        ∧ p.prof = s.core.prof ∧ p.passes = (if isSplit tagA && isSplit tagB then (s.str k).num.xpass.toNat else 1)
        ∧ p.n = (if klen = 0 then kOf shape (wideOf tagA tagB) else klen.toNat) ∧ p.started = 0 ∧ p.finished = 0 ∧ p.entry = entry
        ∧ (16 + a.toNat) ∈ o.wr ∧ ta.toNat ∈ o.rd ∧ tb.toNat ∈ o.rd
        ∧ (∀ e : Fin 8, entry = some e → (u.tiles.runnel[e]).st = .reserved ∧ (u.tiles.runnel[e]).owner = c)
    (legal false → gives (.tmma a ta tb ksel klen) false none)
    ∧ (legal true → gives (.tmmaZ a ta tb ksel klen) true none)
    ∧ (mayReserve s k = true → ∃ e : Fin 8, (s.tiles.runnel[e]).st = .free
        ∧ (legal false → gives (.tmmaR a ta tb ksel klen) false (some e)) ∧ (legal true → gives (.tmmaZr a ta tb ksel klen) true (some e))
        ∧ (a.toNat < nAccs shape → ∃ u : State, exec (.tret a) s = .next (retire u k 8) ∧ u.tiles.inflight = []
            ∧ (u.tiles.runnel[e]).st = .filling ∧ (u.tiles.runnel[e]).owner = c
            ∧ (u.tiles.runnel[e]).data = b.slice (regOff (16 + a.toNat)) (regLen shape (16 + a.toNat))))
    ∧ (mayReserve s k = false → a.toNat < nAccs shape → exec (.tret a) s = .next s)
    ∧ (a.toNat < nAccs shape → ta.toNat < nTiles shape → tb.toNat < nTiles shape →
        tmmaIllegal shape false ta.toNat tb.toNat tagA tagB (tbit (tagIn b (16 + a.toNat)) 0) ksel.toNat klen.toNat = true →
        exec (.tmma a ta tb ksel klen) s = raises s k 0x01 0 0)

/-- The passes of the matrix unit and the governor (R163, R172, R176 to R178): a pass starts under the cap and counts its occupancy;
without one the state stays; the last array pass of a TMMA of one pass, a gang member's too, writes its accumulator as the pass computes it; a
copy that ends is READY; each window sets the cap, from no occupancy after a relock or power gating. -/
def Obligations.MatrixPasses : Prop :=
  ∀ (s : State) (o : TOp) (p : TmmaOp),
    (nextStart s = none → exec .passStart s = .next s)
    ∧ (nextStart s = some (o, p) → operandsReady s o = true → s.tiles.tmu.gated = false → s.pwr.dv = none → s.pwr.pstate = .c0 →
        p.gang = false → (s.tiles.tmu.gov.any = false ∨ s.tiles.tmu.gov.occ + passOcc s.hw.lean p.shape ≤ s.tiles.tmu.gov.cap) →
      ∃ u : State, exec .passStart s = .next u ∧ u.tiles.tmu.gov.occ = s.tiles.tmu.gov.occ + passOcc s.hw.lean p.shape
        ∧ u.tiles.inflight = s.tiles.inflight.map (fun q => if q.id == o.id then { q with body := .tmma { p with started := p.started + 1 } } else q)
        ∧ u.tiles.banks = s.tiles.banks ∧ u.strands = s.strands)
    ∧ (nextStart s = some (o, p) → s.tiles.tmu.gov.any = true → s.tiles.tmu.gov.cap < s.tiles.tmu.gov.occ + passOcc s.hw.lean p.shape →
        exec .passStart s = .next s)
    ∧ (s.tiles.inflight = [o] → o.body = .tmma p → p.noPass = false → s.hw.lean = false → p.shape = 0b11 → p.passes = 1 →
        p.started = 1 → p.finished = 0 → p.gang = false ∧ p.rowsA = none ∨ p.rowsA.isSome = true → p.entry = none → s.marks = [] →
        (s.ctxOf o.ctx).st = .resident →
      ∃ u : State, exec .passComplete s = .next u ∧ u.tiles.inflight = [] ∧ u.bank o.ctx = (passBank (s.bank o.ctx) p 1).1
        ∧ u.tiles.tmu.opcnt = s.tiles.tmu.opcnt + 1 ∧ u.spad = s.spad ∧ u.near = s.near)
    ∧ (∀ j : Fin 8, (∀ i : Fin 8, (s.tiles.runnel[i]).st = .filling ↔ i = j) → (s.tiles.runnel[j]).drop = false →
        exec .runnelRetirement s = .next (s.modTiles (fun t => { t with runnel := vmod t.runnel j (fun e => { e with st := .ready }) })))
    ∧ (∃ u : State, exec .governorWindow s = .next u
        ∧ u.tiles.tmu.gov.cap = min (if s.tiles.tmu.gov.hold then 16 else 64)
            (max s.tiles.tmu.gov.floor ((if s.tiles.tmu.gated || s.tiles.tmu.gov.still then 0 else s.tiles.tmu.gov.occ) + s.tiles.tmu.gov.step))
        ∧ u.tiles.tmu.gov.occ = 0 ∧ u.tiles.tmu.gov.still = false ∧ u.tiles.banks = s.tiles.banks ∧ u.strands = s.strands)

/-- Gangs (R181 to R188): a lender offers its context, a master forms the gang once its members offer theirs, either may leave once the gang
operations have completed; what the gang bus reports lends, ends or breaks it, and brings a LENT core the operations of its master, of a TMMA
first what it is and then its A registers; TUNGANG of a lent context is in the tile wait (R186); a gang
move acts on this core as the whole move once every core's rows pass, and each member is handed its own. -/
def Obligations.Gangs : Prop :=
  ∀ (s : State) (k : StrandId) (c : CtxId) (rs1 rs2 : RSpec) (sz : BitVec 2),
    let g := s.tiles.tmu.gang
    let n := gangSize sz
    let base := groupBase s n
    (TileReady s k c → (s.str k).status.lvl ≠ .ul → xOk rs1 = true → xOk rs2 = true → sz = 1 ∨ sz = 2 → s.hw.lean = false →
        base + n ≤ s.hw.csize.toNat → (s.str k).num.tshape = 0b11 → tmuIdle s = true →
      (g.st = .own → s.hw.cidx.toNat ≠ base → ((s.str k).x rs1).toNat % 16 = 0 → ((s.str k).x rs2).toNat % 16 = 0 →
        ∃ u : State, exec (.tlend rs1 rs2 sz) s = .next (retire u k 8) ∧ u.tiles.tmu.gang = { g with
          st := .offered, size := n, master := base, ctx := c, dispB := (s.str k).x rs1, dispA := (s.str k).x rs2 })
      ∧ (g.st = .own → s.hw.cidx.toNat = base →
          (otherMembers s base n).all (fun m => (partner s m).st == .offered && (partner s m).size.toNat == n
            && (partner s m).point == s.pwr.point) = true →
        ∃ u : State, exec (.tgang sz) s = .next (retire u k 8) ∧ u.tiles.tmu.gang = { g with forming := some (n, c) })
      ∧ (g.st = .own → s.hw.cidx.toNat = base →
          (otherMembers s base n).any (fun m => (partner s m).st != .offered) = true →
        exec (.tgang sz) s = raises s k 0x1E 0 0x3)
      ∧ (g.st = .master → g.ctx = c → gangQuiet s = true → ∃ u : State, exec .tungang s = .next (retire u k 8) ∧ u.tiles.tmu.gang.st = .own)
      ∧ (g.st = .own → exec .tungang s = raises s k 0x1E 0 0x8 ∧ exec .trecall s = raises s k 0x1E 0 0x8)
      ∧ (g.st = .offered → g.ctx = c → ∃ u : State, exec .trecall s = .next (retire u k 8) ∧ u.tiles.tmu.gang.st = .own))
    ∧ (Ready s k 8 → c = { k := k, lv := (s.str k).status.lvl } → (s.str k).status.lvl ≠ .ul → s.rel.aborted = false →
        (s.chainOf c).active = false → s.ckHold = false → g.forming = none → (s.ctxOf c).st = .resident → g.st = .lent → g.ctx = c →
      (gangQuiet s = true → ∃ u : State, exec .trecall s = .next (retire u k 8) ∧ u.tiles.tmu.gang.st = .own)
      ∧ (gangQuiet s = false → exec .trecall s = .next s)
      ∧ exec .tungang s = .next (s.modRun k (fun r => { r with cond := some .tile })))
    ∧ (∀ m : Nat, g.forming = some (m, c) → ∃ u : State, exec .gangFormed s = .next u ∧ u.tiles.tmu.gang.st = .master
        ∧ u.tiles.tmu.gang.size = m ∧ u.tiles.tmu.gang.ctx = c ∧ u.tiles.tmu.gang.forming = none ∧ u.strands = s.strands)
    ∧ (∀ (core : BitVec 3) (w : PartnerWord), core.toNat ≠ s.hw.cidx.toNat → w.reset = false →
      (g.st = .offered → core.toNat = g.master → w.st = .master → w.size.toNat = g.size →
        ∃ u : State, exec (.gangStatusWord core w) s = .next u ∧ u.tiles.tmu.gang.st = .lent
          ∧ u.tiles.tmu.gang.partners.getD core.toNat w = { w with op := none, rep := none })
      ∧ (g.st = .lent → core.toNat = g.master → w.st ≠ .own → s.tiles.inflight = [] →
        (∀ x : MvWords, w.op = some (.move x) → ∃ (u : State) (o : TOp), exec (.gangStatusWord core w) s = .next u ∧ u.tiles.inflight = [o]
          ∧ o.ctx = g.ctx ∧ o.unit = .move ∧ (x.store = false → o.wr = moveRegs x ∧ o.body = .load { w := x, todo := x.pieces, got := [] })
          ∧ (x.store = true → o.rd = moveRegs x ∧ o.body = .store { w := x, todo := x.pieces, data := none, scales := [] }))
        ∧ (∀ x : GangTmma, w.op = some (.tmma x) → x.noPass = false → s.marks = [] → (x.retire = true → mayReserve s g.ctx.k = true) →
          ∃ (u : State) (o : TOp) (p : TmmaOp),
          exec (.gangStatusWord core w) s = .next u ∧ u.tiles.inflight = [o] ∧ o.ctx = g.ctx ∧ o.unit = .tmu ∧ o.body = .tmma p
            ∧ p.zero = x.zero ∧ p.a = x.a ∧ p.tb = x.tb ∧ p.ksel = x.ksel ∧ p.n = x.n ∧ p.tagA = x.tagA ∧ p.rowsA = some [] ∧ p.scA = x.scA
            ∧ p.tagB = w64 (tagIn (s.bank g.ctx) x.tb.val) ∧ p.scB = scaleBytes s (s.str g.ctx.k).num.tshape (tagIn (s.bank g.ctx) x.tb.val)
            ∧ (x.retire = false → p.entry = none)
            ∧ (x.retire = true → ∃ e : Fin 8, p.entry = some e ∧ (u.tiles.runnel[e]).st = .reserved ∧ (u.tiles.runnel[e]).owner = g.ctx)
            ∧ (16 + x.a.val) ∈ o.wr ∧ x.tb.val ∈ o.rd ∧ u.tiles.banks = s.tiles.banks))
      ∧ (∀ (o : TOp) (p : TmmaOp) (a : List (List (List Byte))), g.st = .lent → core.toNat = g.master → w.st ≠ .own → w.op = some (.rows a) →
          s.tiles.inflight = [o] → o.body = .tmma p → p.rowsA = some [] →
        ∃ u : State, exec (.gangStatusWord core w) s = .next u ∧ u.tiles.inflight = [{ o with body := .tmma { p with rowsA := some a } }]
          ∧ u.strands = s.strands ∧ u.tiles.banks = s.tiles.banks)
      ∧ (g.st = .lent → core.toNat = g.master → w.st = .own →
        ∃ u : State, exec (.gangStatusWord core w) s = .next u ∧ u.tiles.tmu.gang.st = .own)
      ∧ (g.st = .master → g.master ≤ core.toNat → core.toNat < g.master + g.size → w.st = .own →
        ∃ u : State, exec (.gangStatusWord core w) s = .next u ∧ u.tiles.tmu.gang.st = .broken))
    ∧ (TileReady s k c → xOk rs1 = true → xOk rs2 = true → s.hw.lean = false → (s.str k).num.tshape = 0b11 → g.st = .master → g.ctx = c →
      let handed := fun (u : State) (ps : List (Nat × List MvPiece)) (w : List MvPiece → MvWords) =>
        ∀ q ∈ ps, q.1 ≠ s.hw.cidx.toNat →
          OutMsg.gangMove q.1 (.move { w (q.2.map (fun y => { y with va := 2 ^ 64 + 2 ^ 32 })) with gang := true }) ∈ u.out
      let both := fun (i j : Instr) (ps : List (Nat × List MvPiece)) (w : List MvPiece → MvWords) => ∃ (u : State) (o : TOp),
        exec i s = .next (retire u k 8) ∧ exec j s = .next (retire { u with out := s.out } k 8) ∧ Dispatched s u o ∧ handed u ps w
      (∀ (a : BitVec 2) (int : Bool) (ps : List (Nat × List MvPiece)),
        let m := wholeMove s c rs1 rs2 64 256
        SpadRows s ((s.str k).x rs1) (strideOf s k rs2 256) 64 256 →
        (gangRows s c .load m 256 (fun w => w.dispA) = .ok (ps, s) →
          both (.tglda a rs1 rs2 int) (.tlda a rs1 rs2 int) ps (mvWords s m false .acc (16 + a.toNat) 0 (w64 (bit int))))
        ∧ (gangRows s c .store m 256 (fun w => w.dispA) = .ok (ps, s) →
          both (.tgsta a rs1 rs2) (.tsta a rs1 rs2) ps (mvWords s m true .acc (16 + a.toNat) 0 0)))
      ∧ (∀ (t fmt : BitVec 4) (bs : Bool) (bsz : BitVec 2) (bdir : Bool) (soff : BitVec 16) (f : TFmt) (ps : List (Nat × List MvPiece)),
        let m := wholeMove s c rs1 rs2 (f.perRow 128) (f.memRow 128)
        fmt ≠ 4 → tfmtOf fmt.toNat = some f → tagBad s 0b11 fmt.toNat bs bsz.toNat bdir soff.toNat = false →
        SpadRows s ((s.str k).x rs1) (strideOf s k rs2 (f.memRow 128)) 64 (f.memRow 128) →
        gangRows s c .load m (f.memRow 128) (fun w => w.dispB) = .ok (ps, s) →
        both (.tgld t rs1 rs2 fmt bs bsz bdir soff) (.tld t rs1 rs2 fmt bs bsz bdir soff) ps
          (mvWords s m false .tile t.toNat fmt.toNat (mkTtag fmt.toNat bs bsz.toNat bdir soff.toNat))))
/-! ### The element engine -/

/-- Every operation of group 0x3A (R230, R244, R256, Table 10-4): a reserved specifier or an illegal word raises 0x01; an operation that its
checks pass is dispatched to the Rill or the Cistern with its locators and, for a Runnel source, the entry at the head of its queue, which a
consuming operation takes off the queue; a refused combination, or a Runnel source with an empty queue, raises 0x01, a refused profile 0x18,
and a scratchpad operand that is misaligned or out of range 0x0D. While an NPROF change of another strand waits, it waits (R25). -/
def Obligations.ElementEngineDispatch : Prop :=
  ∀ (i : Instr) (xop : Nat) (w : RillWords) (s : State) (k : StrandId) (c : CtxId), rillXop i = some (xop, w) → TileReady s k c →
    let r := rillOpOf s k c xop w
    let words := wordsX w && rillWordsOk xop w.ts w.modf.toNat r.n w.l3.toNat
    let ok := opOk (intOf s c r) (s.str k) r && ((runnelLocs s k xop w).isEmpty || r.entry.isSome)
    let refused := credRefused s.core.prof xop (srcFmtOf (intOf s c r) r.s1 r.tag1.toNat)
    (words = false → exec i s = raises s k 0x01 0 0)
    ∧ (words = true →
      (ok = false → exec i s = raises s k 0x01 0 0)
      ∧ (ok = true → refused = true → exec i s = raises s k 0x18 0 0)
      ∧ (ok = true → refused = false → ∀ a : Nat, spOffence s r = some a → exec i s = raises s k 0x0D (w64 a) 0)
      ∧ (ok = true → refused = false → spOffence s r = none → profHold s k = true → exec i s = .next s)
      ∧ (ok = true → refused = false → spOffence s r = none → profHold s k = false →
          ∃ (u : State) (o : TOp), exec i s = .next (retire u k 8) ∧ Dispatched s u o ∧ o.ctx = c ∧ o.body = .rill r
            ∧ o.unit = (if 0x48 ≤ xop ∧ xop ≤ 0x4F then TUnit.cistern else TUnit.rill)
            ∧ o.spWr = (isSpLoc r.ld || (locKind r.ld != 0 && locBs r.ld))
            ∧ (∀ e : Fin 8, r.entry = some e → 32 + e.val ∈ o.rd ∧ (u.tiles.runnel[e]).bound = (! r.keep || (s.tiles.runnel[e]).bound))))

/-- Completion in the Rill and the Cistern (R238, R245, R251, R253, R258): the head operation applies and leaves, and a consuming one frees its
Runnel entry; ADDW, SUBW, MULW and the logical operations on INT32 elements write their 32-bit results in place, element by element, and no
other byte; CINIT and CDRAIN copy slots from and to the scratchpad; RSUM reads the summary once it is settled; RDROP frees the head of the
Runnel queue. -/
def Obligations.ElementEngineCompletion : Prop :=
  ∀ (s : State) (o : TOp) (r : RillOp), s.marks = [] →
    let el := fun (m : Mem) (off i : Nat) => m.getLE (off + 4 * i) 4
    (s.tiles.inflight = [o] → o.body = .rill r → r.entry = none → o.unit = .rill → isCistern r.xop = false →
      let v := rillApply s o.ctx o.id r false
      ∃ u : State, exec .rillOpComplete s = .next u ∧ u.tiles.inflight = [] ∧ u.spad = v.spad ∧ u.tiles.banks = v.tiles.banks
        ∧ (∀ j : StrandId, { u.str j with num := (v.str j).num } = v.str j) ∧ u.near = s.near)
    ∧ (∀ e : Fin 8, s.tiles.inflight = [o] → o.body = .rill r → r.entry = some e → r.keep = false → r.got = none →
        (s.tiles.runnel[e]).st = .ready →
      (o.unit = .rill → isCistern r.xop = false →
        ∃ u : State, exec .rillOpComplete s = .next u ∧ u.tiles.inflight = [] ∧ u.tiles.runnel[e] = RnEntry.zero ∧ u.near = s.near)
      ∧ (o.unit = .cistern → isCistern r.xop = true →
        ∃ u : State, exec .cisternOpComplete s = .next u ∧ u.tiles.inflight = [] ∧ u.tiles.runnel[e] = RnEntry.zero ∧ u.near = s.near))
    ∧ (∀ n d a b : Nat, 1 ≤ n → n ≤ 65536 → d + 4 * n ≤ 2 ^ 22 → a + 4 * n ≤ 2 ^ 22 → b + 4 * n ≤ 2 ^ 22 → Memory.wf s.spad = true →
        (d = a ∨ d + 4 * n ≤ a ∨ a + 4 * n ≤ d) → (d = b ∨ d + 4 * n ≤ b ∨ b + 4 * n ≤ d) →
      ∀ p ∈ ([(0x28, fun x y => (x + y) % 2 ^ 32), (0x29, fun x y => (x + 2 ^ 32 - y) % 2 ^ 32), (0x2A, fun x y => x * y % 2 ^ 32),
          (0x20, fun x y => x &&& y), (0x21, fun x y => x ||| y), (0x22, fun x y => x ^^^ y)] : List (Nat × (Nat → Nat → Nat))),
        let t := (rillApply s o.ctx o.id (linOp p.1 n d a b) false).spad
        (∀ i : Nat, i < n → el t d i = p.2 (el s.spad a i) (el s.spad b i))
        ∧ ∀ x : Nat, x < d ∨ d + 4 * n ≤ x → t.get x = s.spad.get x)
    ∧ (s.tiles.inflight = [o] → o.body = .rill r → r.entry = none → o.unit = .cistern → r.xop = 0x4E → r.base + r.n ≤ 64 →
      ∃ u : State, exec .cisternOpComplete s = .next u ∧ u.tiles.inflight = [] ∧ u.spad = s.spad ∧ u.tiles.banks = s.tiles.banks
        ∧ (∀ i : Nat, i < r.n → (u.str o.ctx.k).cslots.getD (r.base + i) 0
            = if locKind r.s1 = 5 then w64 (s.spad.getLE (locOff r.s1 + 8 * i) 8) else 0)
        ∧ ∀ j : Nat, j < r.base ∨ r.base + r.n ≤ j → (u.str o.ctx.k).cslots.getD j 0 = (s.str o.ctx.k).cslots.getD j 0)
    ∧ (s.tiles.inflight = [o] → o.body = .rill r → r.entry = none → o.unit = .cistern → r.xop = 0x4F → r.base + r.n ≤ 64 →
        Memory.wf s.spad = true →
      ∃ u : State, exec .cisternOpComplete s = .next u ∧ u.tiles.inflight = [] ∧ u.strands = s.strands
        ∧ (∀ i : Nat, i < r.n → w64 (u.spad.getLE (locOff r.ld + 8 * i) 8) = (s.str o.ctx.k).cslots.getD (r.base + i) 0)
        ∧ ∀ x : Nat, x < locOff r.ld ∨ locOff r.ld + 8 * r.n ≤ x → u.spad.get x = s.spad.get x)
    ∧ (∀ e : Fin 8, s.tiles.inflight = [o] → o.body = .rill r → o.unit = .rill → r.entry = some e → r.keep = false → r.got = none →
        (s.tiles.runnel[e]).st = .ready →
      ∃ u : State, exec .runnelEntryFreed s = .next u ∧ u.tiles.runnel[e] = RnEntry.zero
        ∧ u.tiles.inflight = [{ o with body := .rill { r with got := some ((s.tiles.runnel[e]).data, (s.tiles.runnel[e]).int) } }])
    ∧ (∀ (k : StrandId) (rd : RSpec), Ready s k 8 → s.rel.aborted = false → xOk rd = true → s.ckHold = false →
        (s.chainOf { k := k, lv := (s.str k).status.lvl }).active = false →
      let c : CtxId := { k := k, lv := (s.str k).status.lvl }
      (sumPending s k = false → exec (.rsum rd false) s = givesX s k 8 rd (s.str k).num.sumr
        ∧ exec (.rsum rd true) s = givesX s k 8 rd (s.str k).num.rowf)
      ∧ (sumPending s k = true → exec (.rsum rd false) s = .next s)
      ∧ (runnelHead s c = none → exec .rdrop s = completes s k 8)
      ∧ (∀ e : Fin 8, runnelHead s c = some e →
        ((s.tiles.runnel[e]).st = .ready → (∀ q ∈ s.tiles.inflight, ∃ v : RillOp, q.body = .rill v) → ∃ u : State, exec .rdrop s = .next (retire u k 8) ∧ u.tiles.runnel[e] = RnEntry.zero
          ∧ u.strands = s.strands)
        ∧ ((s.tiles.runnel[e]).st ≠ .ready → ∃ u : State, exec .rdrop s = .next (retire u k 8) ∧ (u.tiles.runnel[e]).drop = true
          ∧ u.strands = s.strands)))

/-! ### Descriptors, chains, vectors -/

/-- DLD, DST and DINV with a descriptor in the scratchpad (R260, R261, R263, Table 11-1): the 64 bytes are checked and held with their address
and the level, stored back with every reserved field 0 (R11), or dropped; a slot of a more privileged level raises 0x1C with reason 0x02, a
pinned one 0x03, bad content 0x01. -/
def Obligations.DescriptorSlots : Prop :=
  ∀ (s : State) (k : StrandId) (d : BitVec 6) (rs1 : RSpec), Ready s k 8 → s.marks = [] → xOk rs1 = true →
    (s.chainOf { k := k, lv := (s.str k).status.lvl }).active = false →
    let a := (s.str k).x rs1
    let q := s.dslot k d.toNat
    let b := s.spad.getN (a.toNat - spw) 64
    let others := fun (u : State) => ∀ j : Nat, j ≠ d.toNat → u.dslot k j = s.dslot k j
    let priv := (q.valid && (s.str k).status.lvl.below q.tag)
    let fields : List Nat := if dType q.dw = 1 then [0xC000000000000000, 2 ^ 64 - 1] else
      [0xFEFFFFFFFFFFFFFF, 0x03FF000000000000 + (if dBs q.dw then 2 ^ 48 - 1 else 0), 2 ^ 48 - 1, 2 ^ 48 - 1, 0xFFFFFFFF00FFFFFF, 2 ^ 64 - 1,
        2 ^ 64 - 1]
    (a.toNat % 64 ≠ 0 → exec (.dld d rs1) s = raises s k 0x0D a 0 ∧ exec (.dst d rs1) s = raises s k 0x0D a 0)
    ∧ (a.toNat % 64 = 0 → spw ≤ a.toNat → a.toNat + 64 ≤ spw + s.spadSize → AccessFree s k true true (a.toNat - spw) 64 →
      (priv = true → exec (.dld d rs1) s = raises s k 0x1C q.lda 0x02 ∧ exec (.dst d rs1) s = raises s k 0x1C q.lda 0x02)
      ∧ (priv = false → q.valid = true → s.slotPinned k d.toNat = true → exec (.dld d rs1) s = raises s k 0x1C q.lda 0x03)
      ∧ (priv = false → (q.valid && s.slotPinned k d.toNat) = false →
        (descOk (descOf b) = false → exec (.dld d rs1) s = raises s k 0x1C a 0x01)
        ∧ (descOk (descOf b) = true → ∃ u : State, exec (.dld d rs1) s = .next (retire u k 8) ∧ others u ∧ u.spad = s.spad
            ∧ u.dslot k d.toNat = { valid := true, tag := (s.str k).status.lvl, lda := a, dw := descOf b }))
      ∧ (priv = false → Memory.wf s.spad = true → ∃ u : State, exec (.dst d rs1) s = .next (retire u k 8) ∧ u.strands = s.strands
          ∧ (∀ i : Fin 8, w64 (u.spad.getLE (a.toNat - spw + 8 * i.val) 8) = if q.valid then q.dw[i] &&& w64 (fields.getD i.val 0) else 0)
          ∧ ∀ x : Nat, x < a.toNat - spw ∨ a.toNat - spw + 64 ≤ x → u.spad.get x = s.spad.get x))
    ∧ (priv = true → exec (.dinv d) s = raises s k 0x1C q.lda 0x02)
    ∧ (priv = false → (q.valid && s.slotPinned k d.toNat) = false → ∃ u : State, exec (.dinv d) s = .next (retire u k 8) ∧ others u
        ∧ (u.dslot k d.toNat).valid = false ∧ u.spad = s.spad ∧ u.near = s.near)

/-- DSCH, DSTAT, DKILL, CHAIN_STEP_ISSUE and CHAIN_END (R268 to R279): a program that its checks pass starts the chain at step 0; its
state is read; a kill makes it IDLE once its dispatched steps have completed, and until then it waits and no step issues; a step that
issues moves it on, and at END with nothing in progress it is DONE. -/
def Obligations.DescriptorChains : Prop :=
  ∀ (s : State) (k : StrandId) (c : CtxId) (rd : RSpec), xOk rd = true →
    (∀ nsm1 dbase dcntm1 : BitVec 6, TileReady s k c → dbase.toNat + dcntm1.toNat ≤ 63 →
      let a := (s.str k).x rd
      let prog := stepsOf (nsm1.toNat + 1) (s.spad.getN (a.toNat - spw) (16 * (nsm1.toNat + 1)))
      (a.toNat % 16 ≠ 0 → exec (.dsch rd nsm1 dbase dcntm1) s = raises s k 0x0D a 0)
      ∧ (a.toNat % 16 = 0 → spw ≤ a.toNat → a.toNat + 16 * (nsm1.toNat + 1) ≤ spw + s.spadSize →
          AccessFree s k true false (a.toNat - spw) (16 * (nsm1.toNat + 1)) →
        (∀ i : Nat, badStep (dcntm1.toNat + 1) prog 0 { seen := false, o := false, i := false } = some i →
          exec (.dsch rd nsm1 dbase dcntm1) s = raises s k 0x1C (a + w64 (16 * i)) 0x06)
        ∧ (badStep (dcntm1.toNat + 1) prog 0 { seen := false, o := false, i := false } = none →
            badSlot s c dbase.toNat (dcntm1.toNat + 1) = none →
          ∃ u : State, exec (.dsch rd nsm1 dbase dcntm1) s = .next (retire u k 8) ∧ (u.chainOf c).st = .running ∧ (u.chainOf c).step = 0
            ∧ (u.chainOf c).prog = prog ∧ (u.chainOf c).paddr = a ∧ (u.chainOf c).dbase = dbase ∧ (u.chainOf c).dcnt = dcntm1.toNat + 1
            ∧ u.spad = s.spad ∧ u.near = s.near)))
    ∧ (∀ lv : BitVec 2, Ready s k 8 → lv ≠ 0b10 → (s.str k).status.lvl.below (lvlOf lv.toNat) = false →
      let q := s.chainOf { k := k, lv := lvlOf lv.toNat }
      exec (.dstat rd lv 0) s = givesX s k 8 rd (w64 (q.cause.toNat * 2 ^ 56 + q.rsn.toNat * 2 ^ 48 + q.step % 64 * 2 ^ 32
          + q.dbase.toNat * 2 ^ 24 + q.st.code))
      ∧ exec (.dstat rd lv 1) s = givesX s k 8 rd (w64 (q.io * 2 ^ 32 + q.ii))
      ∧ exec (.dstat rd lv 2) s = givesX s k 8 rd q.faddr
      ∧ (s.rel.aborted = false → chainBusy s { k := k, lv := lvlOf lv.toNat } = false →
        ∃ u : State, exec (.dkill lv) s = .next (retire u k 8) ∧ (u.chainOf { k := k, lv := lvlOf lv.toNat }).st = .idle
          ∧ (∀ e ∈ (u.str k).run.pendEv, e.src ≠ .chain { k := k, lv := lvlOf lv.toNat }) ∧ u.spad = s.spad ∧ u.near = s.near)
      ∧ (s.rel.aborted = false → chainBusy s { k := k, lv := lvlOf lv.toNat } = true →
        exec (.dkill lv) s = .next (s.modChain { k := k, lv := lvlOf lv.toNat } (fun q => { q with killed := true }))))
    ∧ ((s.chainOf c).killed = true → chainBusy s c = true → exec (.chainStepIssue c.k c.lv) s = .next s)
    ∧ (Ready s k 8 → exec (.dstat rd 0b10 0) s = raises s k 0x01 0 0 ∧ exec (.dstat rd 0 3) s = raises s k 0x01 0 0)
    ∧ (∀ (t : CStep) (s1 : State), seqRuns s = true → s.marks = [] → (s.str c.k).run.mchk = [] → (s.chainOf c).st = .running → (s.chainOf c).killed = false →
        (s.chainOf c).prog[(s.chainOf c).step]? = some t →
      (t.ctl = 0 → s.lentHold c = false ∨ t.op ≠ 0x39 → s.tiles.tmu.gang.forming = none → issueStep s c t = .ok s1 →
        ∃ u : State, exec (.chainStepIssue c.k c.lv) s = .next u ∧ (u.chainOf c).step = (s1.chainOf c).step + 1
          ∧ u.tiles = s1.tiles ∧ u.spad = s1.spad ∧ u.near = s1.near)
      ∧ (t.ctl = 5 → exec (.chainStepIssue c.k c.lv) s = .next s)
      ∧ (t.ctl = 5 → chainBusy s c = true → exec (.chainEnd c.k c.lv) s = .next s)
      ∧ (t.ctl = 5 → chainBusy s c = false → t.wb.getLsbD 0 = false →
        ∃ u : State, exec (.chainEnd c.k c.lv) s = .next u ∧ (u.chainOf c).st = .done
          ∧ (t.wb.getLsbD 24 = true → (u.vcfg 0x49).pend = true) ∧ u.tiles = s.tiles ∧ u.spad = s.spad))

/-- The count-based vector instructions (R280): of 0 elements they complete with no effect; of more than 4,096 they raise 0x1C with
reason 0x09; words that break their fields raise 0x01; an operand outside the window raises 0x0D; otherwise the operation they stand for
is dispatched with linear scratchpad operands. -/
def Obligations.VectorInstructions : Prop :=
  ∀ (i : Instr) (xop modf : Nat) (two three cvt : Bool) (v : VecWords) (s : State) (k : StrandId) (c : CtxId),
    vecShape i = some (xop, modf, two, three, cvt, v) → TileReady s k c →
    let n := ((s.str k).x v.rn).toNat
    let r := vecOpOf s k xop modf n two three cvt v
    let at' := fun (r : RSpec) (f : BitVec 4) => spw ≤ ((s.str k).x r).toNat ∧ ((s.str k).x r).toNat % 16 = 0
      ∧ ((s.str k).x r).toNat + vecLen f n ≤ spw + s.spadSize
    (vecWordsOk v three cvt = false → exec i s = raises s k 0x01 0 0)
    ∧ (vecWordsOk v three cvt = true →
      (n = 0 → exec i s = completes s k 8)
      ∧ (4096 < n → exec i s = raises s k 0x1C 0 0x09)
      ∧ (1 ≤ n → n ≤ 4096 → isWin ((s.str k).x v.rd) = false → exec i s = raises s k 0x0D ((s.str k).x v.rd) 0)
      ∧ (1 ≤ n → n ≤ 4096 → at' v.rd (if cvt then v.fmtd else v.fmt) → at' v.rs1 v.fmt → (two = true → at' v.rs2 v.fmt) →
          (three = true → at' v.rs3 v.fmt) → opOk (intOf s c r) (s.str k) r = true → spOffence s r = none → profHold s k = false →
        ∃ (u : State) (o : TOp), exec i s = .next (retire u k 8) ∧ Dispatched s u o ∧ o.ctx = c ∧ o.unit = .rill ∧ o.body = .rill r))

/-- WGO, WSTAT, WKILL, WEEVIL_PIECE_ISSUE, WEEVIL_PIECE_COMPLETE and WEEVIL_DONE (R290 to R299): a good block starts the engine with what
R290 captures, a bad one raises 0x1D; status reads; a stop; a near piece issues, reads through the L2, the side buffer or the near port, and a
scatter piece ends once its writes are acknowledged (R294, R295, R297); a stream element out of bounds and
a far response that failed abort the engine; the end of every row makes it DONE.
The order of pieces and the place of a failure follow notes/assumptions/69.md and 70.md (the model's choices). -/
def Obligations.GatherEngines : Prop :=
  ∀ (s : State) (n : BitVec 2) (k : StrandId) (rd rs1 : RSpec), xOk rd = true → xOk rs1 = true →
    let i : Fin 4 := Fin.ofNat 4 n.toNat
    let e := s.weevils[i]
    let a := (s.str k).x rs1
    let t := s.str k
    let new : Engine := { Engine.zero with
      st := .running
      k := k
      lv := t.status.lvl
      sap := t.status.sap
      ptb := t.xl.ptb
      asid := t.xl.asid
      blk := Vector.ofFn (fun j : Fin 8 => w64 (s.spad.getLE (a.toNat - spw + 8 * j.val) 8))
      baddr := a
      stamp := s.tiles.stamp }
    let inPad := spw ≤ a.toNat ∧ a.toNat + 64 ≤ spw + s.spadSize ∧ AccessFree s k true false (a.toNat - spw) 64
    let may := e.st = .idle ∨ t.status.lvl = .ml ∨ (e.k = k ∧ t.status.lvl.below e.lv = false)
    (Ready s k 8 → s.rel.aborted = false → s.nWeevils ≤ n.toNat →
        exec (.wgo n rs1) s = raises s k 0x01 0 0 ∧ exec (.wstat rd n 0) s = raises s k 0x01 0 0 ∧ exec (.wkill n) s = raises s k 0x01 0 0)
    ∧ (Ready s k 8 → s.rel.aborted = false → n.toNat < s.nWeevils →
      (s.ckHold = false → e.st = .running ∨ e.st = .suspended → exec (.wgo n rs1) s = raises s k 0x1D 0 (0x85 * 256 + n.toNat))
      ∧ (s.ckHold = false → e.st ≠ .running → e.st ≠ .suspended → s.marks = [] →
        (a.toNat % 64 ≠ 0 → exec (.wgo n rs1) s = raises s k 0x1D a (0x81 * 256 + n.toNat))
        ∧ (a.toNat % 64 = 0 → inPad → blockOk s new = false → exec (.wgo n rs1) s = raises s k 0x1D a (0x81 * 256 + n.toNat))
        ∧ (a.toNat % 64 = 0 → inPad → blockOk s new = true →
          (new.count ≠ 0 → exec (.wgo n rs1) s = .next (retire ({ s with weevils := vmod s.weevils i (fun _ => new) } : State) k 8))
          ∧ (new.count = 0 → tbit (new.dw 0) 59 = false → exec (.wgo n rs1) s
              = .next (retire ({ s with weevils := vmod s.weevils i (fun _ => { new with st := .done }) } : State) k 8))))
      ∧ (may → exec (.wstat rd n 0) s = givesX s k 8 rd (if e.st = .idle then 0 else
            w64 (e.cause.toNat * 2 ^ 56 + e.rsn.toNat * 2 ^ 48 + e.frsp.toNat * 2 ^ 40 + e.k.val * 2 ^ 32 + e.lv.code * 2 ^ 8 + e.st.code))
          ∧ exec (.wstat rd n 1) s = givesX s k 8 rd (if e.st = .idle then 0 else w64 e.next)
          ∧ exec (.wstat rd n 2) s = givesX s k 8 rd (if e.st = .idle then 0 else e.faddr)
          ∧ exec (.wstat rd n 3) s = raises s k 0x01 0 0)
      ∧ (¬ may → exec (.wstat rd n 0) s = raises s k 0x02 0 0 ∧ exec (.wkill n) s = raises s k 0x02 0 0)
      ∧ (may → (e.st = .idle → exec (.wkill n) s = completes s k 8)
          ∧ (e.st ≠ .idle → e.pieces = [] → ∃ u : State, exec (.wkill n) s = .next (retire u k 8) ∧ (u.weevils[i]).st = .idle
              ∧ (∀ v ∈ (u.str e.k).run.pendEv, v.src ≠ .engine i) ∧ u.spad = s.spad ∧ u.near = s.near)
          ∧ (e.st ≠ .idle → e.pieces ≠ [] →
              exec (.wkill n) s = .next { s with weevils := vmod s.weevils i (fun e => { e with killed := true }) })))
    ∧ (seqRuns s = true → engReady s e = true →
      (∀ (v : Word) (pa : Nat) (y : MType), let x := e.rowAddr v + w64 e.off
        e.elem = some v → (e.rowAddr v).getLsbD 63 = false →
        translate s e.xctx (if e.scatter then .store else .load) x = .ok pa y s → y ≠ .device →
        ∃ u : State, exec (.weevilPieceIssue n) s = .next u ∧ u.strands = s.strands ∧ u.spad = s.spad ∧ u.near = s.near
          ∧ ∃ p : Piece, (u.weevils[i]).pieces = e.pieces ++ [p] ∧ p.id = freePiece e ∧ p.row = e.row ∧ p.addr = x ∧ p.pa = pa
            ∧ p.so = e.rowSo e.row + e.off ∧ p.len = min (e.rowBytes - e.off) (128 - x.toNat % 128) ∧ p.req = none ∧ p.ph = .todo)
      ∧ (∀ o : Nat, e.elem = none → e.ahead = none → e.pieces = [] → s.marks = [] → Memory.wf s.spad = true →
          (e.elAddr e.row).toNat = spw + o → o % e.elSize = 0 → o + e.elSize ≤ s.spadSize →
          s.framesHit e.k (spw + o - o % 64) 64 = false → e.byAddr = false → e.dw 3 ≠ 0 → e.dw 3 ≤ s.spad.getLE o e.elSize →
        ∃ u : State, exec (.weevilPieceIssue n) s = .next u ∧ (u.weevils[i]).st = .aborted ∧ (u.weevils[i]).rsn = 0x82
          ∧ (u.weevils[i]).cause = 0x1D ∧ (u.weevils[i]).next = e.row ∧ (u.weevils[i]).faddr = e.elAddr e.row
          ∧ gatherEv i 0x82 (e.elAddr e.row) e.lv (.engine i) e.asid ∈ (u.str e.k).run.pendEv ∧ u.spad = s.spad ∧ u.near = s.near))
    ∧ (∀ (p : Piece) (id : Nat), e.pieces.find? (fun p => p.id == id) = some p → s.clockOn = true → s.marks = [] → e.fail = none → e.killed = false →
      (p.req = none → p.ph = .todo → (pieceWaits s p = true → exec (.weevilPieceComplete n id) s = .next s)
        ∧ (pieceWaits s p = false → s.framesHit e.k p.addr.toNat p.len = false →
          (e.scatter = false → engWrites s i (p.pa / 128) = false → PieceHeld s i p →
            ∃ u : State, exec (.weevilPieceComplete n id) s = .next u ∧ u.spad = s.spad.putN p.so (s.near.getN p.pa p.len) ∧ u.near = s.near
              ∧ u.strands = s.strands ∧ ∀ q ∈ (u.weevils[i]).pieces, q.id ≠ id)
          ∧ (e.scatter = false → s.ms.l2.find false (p.pa / 128) = none → s.ms.evbuf.any (fun q => q.line == p.pa / 128) = false →
              s.ms.side.contains (p.pa / 128) = false → (∀ r ∈ s.ms.preads, r.who ≠ .piece i p.id) →
            ∃ u : State, exec (.weevilPieceComplete n id) s = .next u ∧ u.out = s.out ++ [.nearRead p.pa p.len false] ∧ u.spad = s.spad
              ∧ u.near = s.near ∧ u.strands = s.strands ∧ u.weevils = s.weevils ∧ u.ms.l2 = s.ms.l2 ∧ u.ms.mshr = s.ms.mshr)
          ∧ (e.scatter = true → (∀ j : StrandId, (s.str j).run.retBuf = none) →
            ∃ u : State, exec (.weevilPieceComplete n id) s = .next u ∧ u.near = s.near.putN p.pa (s.spad.getN p.so p.len) ∧ u.spad = s.spad
              ∧ u.strands = s.strands ∧ (engWrites u i (p.pa / 128) = false → ∀ q ∈ (u.weevils[i]).pieces, q.id ≠ id)
              ∧ (engWrites u i (p.pa / 128) = true → { p with ph := .sent } ∈ (u.weevils[i]).pieces))))
      ∧ (p.req = none → p.ph = .sent → (engWrites s i (p.pa / 128) = true → exec (.weevilPieceComplete n id) s = .next s)
        ∧ (engWrites s i (p.pa / 128) = false → ∃ u : State, exec (.weevilPieceComplete n id) s = .next u ∧ u.spad = s.spad ∧ u.near = s.near
            ∧ u.strands = s.strands ∧ ∀ q ∈ (u.weevils[i]).pieces, q.id ≠ id))
      ∧ (∀ (r : FarReq) (code : BitVec 8) (body : List Byte), p.req = some r.id → s.far.reqs.find? (fun q => q.id == r.id) = some r →
          r.done = some (code, body) →
        (code = 0 → e.scatter = false → ∃ u : State, exec (.weevilPieceComplete n id) s = .next u ∧ u.spad = s.spad.putN p.so body
            ∧ u.near = s.near ∧ u.strands = s.strands ∧ ∀ q ∈ (u.weevils[i]).pieces, q.id ≠ id)
        ∧ (code ≠ 0 → e.st = .running → e.pieces = [p] →
          ∃ u : State, exec (.weevilPieceComplete n id) s = .next u ∧ (u.weevils[i]).st = .aborted ∧ (u.weevils[i]).rsn = 0x1A
            ∧ (u.weevils[i]).frsp = code ∧ (u.weevils[i]).next = p.row ∧ (u.weevils[i]).faddr = p.addr ∧ u.spad = s.spad ∧ u.near = s.near)))
    ∧ (seqRuns s = true → e.st = .running → e.count ≤ e.row → e.pieces = [] → e.fail = none → e.killed = false → tbit (e.dw 0) 59 = false →
        exec (.weevilDone n) s = .next { s with weevils := vmod s.weevils i (fun e => { e with st := .done, next := e.count }) })

/-! ### Caches and translation -/

/-- CFLUSH, CCLEAN, CINV, CPRE, CFDROP and CACHE.CMD (R316, R317, R323, Table 13-4): the line named by a probe that succeeds, near or far;
window and Device addresses have no effect; CINV at UL raises 0x02 and a far CPRE 0x01. No value that a program reads of near memory
changes, but that a line CINV discards dirty reads as the die network holds it (DEDUCED, notes/assumptions/41.md).
A far address is checked in the FTLB (DEDUCED, notes/assumptions/42.md). While a Device access of the strand is open they wait (R305). -/
def Obligations.CacheMaintenance : Prop :=
  ∀ (s : State) (k : StrandId) (rs1 : RSpec) (imm : BitVec 32), xOk rs1 = true → s.marks = [] →
    let ea := (s.str k).x rs1 + imm.signExtend 64
    let free := Ready s k 8 ∧ devOpen s k = false
    let leaves := fun (u : State) (line : Nat) => u.ms.l2.find false line = none ∧ u.ms.side.contains line = false
      ∧ ∀ l ∈ u.ms.l1d.lines, l.far = false → l.line / 2 ≠ line
    let writes := fun (u : State) (line : Nat) => u.home = s.home.putN (line * 128) (s.near.getN (line * 128) 128)
      ∧ OutMsg.nearWrite (line * 128) (s.near.getN (line * 128) 128) false ∈ u.out
      ∧ ({ line := line, k := some k, pre := false, ev := false, dev := false, agent := none } : Maint) ∈ u.ms.maint
    (Ready s k 8 → (s.str k).status.lvl = .ul → exec (.cinv rs1 imm) s = raises s k 0x02 0 0)
    ∧ (Ready s k 8 → ea.getLsbD 63 = true → exec (.cpre rs1 imm) s = raises s k 0x01 0 0)
    ∧ (Ready s k 8 → devOpen s k = true → ∀ i ∈ [Instr.cflush rs1 imm, .cclean rs1 imm], exec i s = .next s)
    ∧ (free → isWin ea = true → exec (.cflush rs1 imm) s = completes s k 8 ∧ exec (.cclean rs1 imm) s = completes s k 8
        ∧ exec (.cpre rs1 imm) s = completes s k 8 ∧ ((s.str k).status.lvl ≠ .ul → exec (.cinv rs1 imm) s = completes s k 8))
    ∧ (Ready s k 8 → ∃ u : State, exec .cfdrop s = .next (retire u k 8) ∧ (∀ l ∈ u.ms.l1d.lines, l.far = false)
        ∧ (∀ l ∈ s.ms.l1d.lines, l.far = false → l ∈ u.ms.l1d.lines) ∧ u.near = s.near ∧ u.strands = s.strands ∧ u.ms.l2 = s.ms.l2)
    ∧ (∀ (ga p : Nat) (q : Bool), free → ea.getLsbD 63 = true → farXlate s (s.xctx k) .load ea = .ok ga p q s →
        exec (.cclean rs1 imm) s = completes s k 8
        ∧ ∃ u : State, exec (.cflush rs1 imm) s = .next (retire u k 8) ∧ (∀ l ∈ u.ms.l1d.lines, l.far = true → l.line ≠ ga / 64)
          ∧ (∀ l ∈ s.ms.l1d.lines, l.far = false ∨ l.line ≠ ga / 64 → l ∈ u.ms.l1d.lines) ∧ u.near = s.near ∧ u.strands = s.strands)
    ∧ (∀ (e : Ev) (s1 : State), free → ea.getLsbD 63 = false → isWin ea = false → translate s (s.xctx k) .pload ea = .fault e s1 →
        ∀ i ∈ [Instr.cflush rs1 imm, .cclean rs1 imm, .cpre rs1 imm], exec i s = .next (raise s1 k e))
    ∧ (∀ pa : Nat, free → ea.getLsbD 63 = false → isWin ea = false → translate s (s.xctx k) .pload ea = .ok pa .device s →
        ∀ i ∈ [Instr.cflush rs1 imm, .cclean rs1 imm, .cpre rs1 imm], exec i s = completes s k 8)
    ∧ (∀ (pa : Nat) (y : MType), free → ea.getLsbD 63 = false → isWin ea = false → y ≠ .device → lineBusy s (pa / 128) = false →
      let line := pa / 128
      let waits := s.ms.evbuf.any (fun e => e.line == line)
      (translate s (s.xctx k) .pload ea = .ok pa y s →
        (∃ u : State, exec (.cflush rs1 imm) s = .next (retire u k 8) ∧ leaves u line ∧ u.near = s.near ∧ u.strands = s.strands ∧ u.spad = s.spad
          ∧ (s.dirty line = true → writes u line) ∧ (s.dirty line = false → waits = false → u.out = s.out ∧ u.home = s.home))
        ∧ (∃ u : State, exec (.cclean rs1 imm) s = .next (retire u k 8) ∧ u.dirty line = false ∧ u.near = s.near ∧ u.strands = s.strands
          ∧ ((u.ms.l2.find false line).isSome = (s.ms.l2.find false line).isSome)
          ∧ (s.dirty line = true → writes u line) ∧ (s.dirty line = false → waits = false → u.out = s.out ∧ u.home = s.home))
        ∧ (s.ms.l2.find false line = none → waits = false → s.ms.side.contains line = false → s.ms.mshr.length < 64 →
          ∃ u : State, exec (.cpre rs1 imm) s = .next (retire u k 8) ∧ u.near = s.near ∧ u.strands = s.strands
            ∧ u.out = s.out ++ [.nearRead (line * 128) 128 false] ∧ ({ line := line, k := some k, pre := true, ev := false, dev := false, agent := none } : Maint) ∈ u.ms.maint
            ∧ u.ms.mshr = s.ms.mshr ++ [{ line := line, own := false, pre := false, cpre := true, n := 1, engs := [], nodata := false, stores := [] }])
        ∧ (∀ l : Line, s.ms.l2.find false line = some l → s.ms.page.pren = false → exec (.cpre rs1 imm) s = completes s k 8))
      ∧ ((s.str k).status.lvl ≠ .ul → translate s (s.xctx k) .pstore ea = .ok pa y s →
        ∃ u : State, exec (.cinv rs1 imm) s = .next (retire u k 8) ∧ leaves u line ∧ u.out = s.out ∧ u.home = s.home
          ∧ u.strands = s.strands ∧ (s.dirty line = false → waits = false → u.near = s.near)
          ∧ (s.dirty line = true ∨ waits = true → u.near = s.near.putN (line * 128) (s.home.getN (line * 128) 128))))
    ∧ (s.clockOn = true → s.ms.page.cmd = none →
        (∃ u : State, exec .cacheCmdClean s = .next u ∧ u.ms.page.cmd = some 1 ∧ u.near = s.near ∧ u.strands = s.strands
          ∧ ∀ l ∈ s.ms.l2.lines, u.dirty l.line = false)
        ∧ (∃ u : State, exec .cacheCmdCleanInv s = .next u ∧ u.ms.page.cmd = some 2 ∧ u.near = s.near ∧ u.strands = s.strands
          ∧ u.ms.l1i.lines = [] ∧ u.ms.l1d.lines = [] ∧ u.ms.l2.lines = [] ∧ u.ms.side = [])
        ∧ (∃ u : State, exec .cacheCmdDropFar s = .next u ∧ u.ms.page.cmd = some 3 ∧ u.near = s.near ∧ u.strands = s.strands
          ∧ ∀ l ∈ u.ms.l1d.lines, l.far = false))
    ∧ (s.ms.page.cmd ≠ none → ∀ i ∈ [Instr.cacheCmdClean, .cacheCmdCleanInv, .cacheCmdDropFar], exec i s = .next s)
    ∧ ((∀ q ∈ s.ms.maint, q.k = none → q.pre = true ∨ q.ev = true ∨ q.agent ≠ none) → ∃ u : State, exec .cacheCmdDone s = .next u ∧ u.ms.page.cmd = none ∧ u.near = s.near)

/-- L2_FILL, UNCACHED_READ_DATA, SNOOP, WRITE_ACK, PREFETCH_REQUEST and STREAM_RUN_TIMEOUT (R306 to R315): a fill installs its line and
performs the stores that waited for it, or answers the read of that line that allocates nothing; a prefetched line enters the side buffer; read data is taken chunk by chunk, or discarded when its
read was given up; a snoop takes or shares a line and its dirty data, or is held; an acknowledgement frees the oldest write that waited for
it, and the agents' writes that an eviction's acknowledgement held back leave. Snoops held before wait for their own lines. That a fill is refused while no way can take its line is the model's
(notes/assumptions/126.md), and so is the order in which reads of one line are answered
(notes/assumptions/140.md). -/
def Obligations.CacheEvents : Prop :=
  ∀ (s : State) (pa : BitVec 52) (data : List Byte), s.marks = [] →
    let line := pa.toNat / 128
    let bytes := s.near.getN (line * 128) 128
    let quiet := ∀ p ∈ s.ms.snoops, p.1 ≠ line ∧ snoopHeld s p.1 = true
    (∀ (excl poison err : Bool), s.oldRead line = none → s.mshrOf line = none → exec (.l2Fill pa excl poison err data) s = .next s)
    ∧ (∀ (r : PRead) (excl poison err : Bool), s.oldRead line = some r → data.length = 128 →
      let bs := (data.drop (r.pa % 128)).take r.n
      ∃ u : State, exec (.l2Fill pa excl poison err data) s = .next u ∧ u.home = s.home.putN r.pa bs ∧ u.ms.l2 = s.ms.l2 ∧ u.ms.l1d = s.ms.l1d
        ∧ u.ms.mshr = s.ms.mshr ∧ u.out = s.out ∧ (∀ j : StrandId, { u.str j with run := (s.str j).run } = s.str j)
        ∧ (r.who = .own → u.ms.preads = s.ms.preads.erase r)
        ∧ (r.who ≠ .own → ({ r with done := true, poison := poison, err := err, newer := [] } : PRead) ∈ u.ms.preads)
        ∧ (s.ms.l2.find false line ≠ none → u.near = s.near)
        ∧ (s.ms.l2.find false line = none → s.ms.evbuf = [] → s.mshrOf line = none →
            u.near = r.newer.foldl (fun n p => n.putN p.1 p.2) (s.near.putN r.pa bs)))
    ∧ (∀ (m : Mshr) (excl : Bool), s.oldRead line = none → s.mshrOf line = some m → m.nodata = false → data.length = 128 → quiet →
      (m.pre = false → m.cpre = false → (m.own = true ∨ excl = true ∨ m.stores = []) → (∀ l ∈ s.ms.l2.lines, l.set ≠ line % 1024) →
          (List.range 16).any s.l2Usable = true →
        ∃ (u : State) (l : Line), exec (.l2Fill pa excl false false data) s = .next u
          ∧ u.near = m.stores.foldl (fun n p => n.putN p.pa p.bs) (s.near.putN (line * 128) data)
          ∧ u.home = s.home.putN (line * 128) data ∧ u.mshrOf line = none ∧ u.ms.l2.find false line = some l
          ∧ l.st = (if m.stores ≠ [] then .modified else if m.own || excl then .exclusive else .shared) ∧ u.out = s.out
          ∧ ∀ j : StrandId, { u.str j with run := (s.str j).run } = s.str j)
      ∧ (m.pre = true → ∃ u : State, exec (.l2Fill pa excl false false data) s = .next u ∧ line ∈ u.ms.side ∧ u.mshrOf line = none
          ∧ u.near = s.near.putN (line * 128) data ∧ u.strands = s.strands ∧ u.ms.l2 = s.ms.l2))
    ∧ (∀ (m : Mshr) (excl : Bool), s.oldRead line = none → s.mshrOf line = some m → m.nodata = true → m.own = true → m.stores ≠ [] → quiet →
        (∀ l ∈ s.ms.l2.lines, l.set ≠ line % 1024) → (List.range 16).any s.l2Usable = true →
      ∃ (u : State) (l : Line), exec (.l2Fill pa excl false false data) s = .next u ∧ u.home = s.home ∧ u.out = s.out
        ∧ u.near = m.stores.foldl (fun n p => n.putN p.pa p.bs) (s.near.putN (line * 128) bytes)
        ∧ u.mshrOf line = none ∧ u.ms.l2.find false line = some l ∧ l.st = .modified)
    ∧ (∀ (k : StrandId) (d : BitVec 64) (err : Bool) (b : RetBuf) (c : Nat × Nat) (more : List (Nat × Nat)),
      let only := fun (u : State) => u.near = s.near ∧ ∀ j : StrandId, { u.str j with run := (s.str j).run } = s.str j
      let took := some { b with want := more, got := b.got ++ (toLE 8 d.toNat).take c.2, err := b.err || err }
      (0 < (s.str k).run.late → ∃ u : State, exec (.uncachedReadData k d err) s = .next u
        ∧ (u.str k).run = { (s.str k).run with late := (s.str k).run.late - 1 } ∧ u.out = s.out ∧ only u)
      ∧ ((s.str k).run.late = 0 → (s.str k).run.retBuf = some b → b.want = c :: more →
        ∃ u : State, exec (.uncachedReadData k d err) s = .next u ∧ (u.str k).run.retBuf = took ∧ u.out = s.out ∧ only u))
    ∧ ((s.mshrOf line).isSome = true → (∀ p ∈ s.ms.snoops, snoopHeld s p.1 = true) → ∀ y : SnoopKind,
        exec (.snoop pa y) s = .next { s with ms := { s.ms with snoops := s.ms.snoops ++ [(line, y)] } })
    ∧ (∀ l : Line, snoopHeld s line = false → quiet → s.ms.l2.find false line = some l →
        (∃ u : State, exec (.snoop pa .inval) s = .next u ∧ u.ms.l2.find false line = none ∧ u.near = s.near ∧ u.strands = s.strands
          ∧ (∀ q ∈ u.ms.l1d.lines, q.far = false → q.line / 2 ≠ line)
          ∧ u.out = s.out ++ [.snoopAns line true false (if s.dirty line then bytes else [])]
          ∧ u.home = (if s.dirty line then s.home.putN (line * 128) bytes else s.home))
        ∧ (∃ (u : State) (q : Line), exec (.snoop pa .share) s = .next u ∧ u.ms.l2.find false line = some q ∧ q.st = .shared ∧ u.near = s.near
          ∧ (∀ p ∈ u.ms.l1d.lines, p.far = false → p.line / 2 = line → p.st = .shared)
          ∧ u.out = s.out ++ [.snoopAns line true false (if s.dirty line then bytes else [])]
          ∧ u.home = (if s.dirty line then s.home.putN (line * 128) bytes else s.home)))
    ∧ (snoopHeld s line = false → quiet → s.ms.l2.find false line = none → s.ms.evbuf.find? (fun e => e.line == line) = none →
        ∀ y : SnoopKind, ∃ u : State, exec (.snoop pa y) s = .next u ∧ u.out = s.out ++ [.snoopAns line false false []]
          ∧ u.ms.side.contains line = false ∧ u.near = s.near ∧ u.home = s.home ∧ u.ms.l2 = s.ms.l2)
    ∧ (s.ms.maint.find? (fun q => ! q.pre && q.line == line) = none → exec (.writeAck pa) s = .next s)
    ∧ (∀ q : Maint, s.ms.maint.find? (fun q => ! q.pre && q.line == line) = some q →
        ∃ u : State, exec (.writeAck pa) s = .next u ∧ u.near = s.near
          ∧ u.ms.evbuf = (if q.ev then s.ms.evbuf.filter (fun e => ! (e.sent && e.line == line)) else s.ms.evbuf)
          ∧ (q.ev = false ∨ (∀ p ∈ s.ms.lateW, p.1 / 128 ≠ line) →
              u.ms.maint = s.ms.maint.erase q ∧ u.ms.lateW = s.ms.lateW ∧ u.out = s.out ∧ u.strands = s.strands)
          ∧ (q.ev = true → (∀ p ∈ u.ms.lateW, p.1 / 128 ≠ line) ∧ ∀ p ∈ s.ms.lateW, p.1 / 128 = line →
              OutMsg.nearWrite p.1 p.2.1 false ∈ u.out
                ∧ ({ line := line, k := none, pre := false, ev := false, dev := false, agent := some p.2.2 } : Maint) ∈ u.ms.maint))
    ∧ (∀ tr : BitVec 4,
      let t := s.ms.trackers.getD tr.toNat { page := 0, last := 0, stride := 0, n := 0 }
      (s.ms.page.pfen = false ∨ t.n < 2 → exec (.prefetchRequest tr) s = .next s)
      ∧ (∀ l : Nat, (t.last : Int) + t.stride = (l : Int) → s.ms.page.pfen = true → s.ms.page.pfdepth = 1 → 2 ≤ t.n → t.stride ≠ 0 →
          t.stride.natAbs ≤ 8 → l / 32 = t.page ∨ pageHeld s l = true → s.ms.l2.find false l = none → s.ms.side.contains l = false → lineBusy s l = false →
          s.ms.evbuf = [] → (s.ms.mshr.filter (fun m => m.pre)).length < 16 → s.ms.mshr.length < 64 → s.mtype (l * 128) = .normal →
        ∃ u : State, exec (.prefetchRequest tr) s = .next u ∧ u.out = s.out ++ [.nearRead (l * 128) 128 false] ∧ u.near = s.near
          ∧ u.ms.mshr = s.ms.mshr ++ [{ line := l, own := false, pre := true, cpre := false, n := 0, engs := [], nodata := false, stores := [] }]))
    ∧ (∀ tr : BitVec 4, ∃ u : State, exec (.streamRunTimeout tr) s = .next u ∧ (u.ms.strackers.getD (tr.toNat % 4) { last := 0, dir := 0, n := 0 }).n = 0
        ∧ u.near = s.near ∧ u.strands = s.strands)

/-- The ways of the caches (R318, R319, R322; L2PWR_WRITE, L2LOCK_WRITE, WAY_CLEAN_DONE, WAY_POWER_UP, ERROR_COUNT_WINDOW): DOWN and LOCK
take no bit of a way that the other holds or that is disabled, and keep their value when fewer than 4 ways would stay usable; a cleaned
way is powered down or disabled, holding no line; a way powers up; the counts start again where CYC[23:0] is 0, and only there
(DEDUCED, notes/assumptions/142.md). -/
def Obligations.CacheWays : Prop :=
  ∀ (s : State) (v : BitVec 32) (way : BitVec 4),
    let g := s.ms.page
    let d : BitVec 16 := BitVec.ofNat 16 v.toNat &&& ~~~(g.lock ||| s.ms.l2.dis)
    let l : BitVec 16 := BitVec.ofNat 16 v.toNat &&& ~~~(g.down ||| g.l2off ||| s.ms.l2.dis)
    (s.clockOn = true → (∀ p ∈ g.cleaning, p.1 ≠ 3) → 4 ≤ usableWith s g.lock d →
      ∃ u : State, exec (.l2pwrWrite v) s = .next u ∧ u.ms.page.down = d ∧ u.ms.page.lock = g.lock ∧ u.near = s.near ∧ u.strands = s.strands
        ∧ ∀ w : Nat, (3, w) ∈ u.ms.page.cleaning ↔ (w < 16 ∧ d.getLsbD w = true ∧ g.down.getLsbD w = false ∧ g.l2off.getLsbD w = false))
    ∧ (usableWith s g.lock d < 4 → exec (.l2pwrWrite v) s = .next s)
    ∧ (s.clockOn = true → ∃ u : State, exec (.l2lockWrite v) s = .next u ∧ u.ms.page.pren = v.getLsbD 20 ∧ u.ms.page.prew = BitVec.ofNat 4 (v.toNat / 2 ^ 16)
        ∧ u.ms.page.lock = (if usableWith s l g.down < 4 then g.lock else l) ∧ u.ms.page.down = g.down ∧ u.near = s.near)
    ∧ (∀ c : Nat, g.cleaning.find? (fun p => p.2 == way.toNat) = some (c, way.toNat) → s.marks = [] →
      ∃ u : State, exec (.wayCleanDone way) s = .next u ∧ u.near = s.near ∧ u.strands = s.strands
        ∧ (c = 0 → u.ms.l1i.dis.getLsbD way.toNat = true ∧ ∀ q ∈ u.ms.l1i.lines, q.way ≠ way.toNat)
        ∧ (c = 1 → u.ms.l1d.dis.getLsbD way.toNat = true ∧ ∀ q ∈ u.ms.l1d.lines, q.way ≠ way.toNat)
        ∧ (c = 2 → u.ms.l2.dis.getLsbD way.toNat = true ∧ u.ms.page.lock.getLsbD way.toNat = false)
        ∧ (c = 3 → u.ms.page.l2off.getLsbD way.toNat = true)
        ∧ (2 ≤ c → (∀ q ∈ s.ms.l2.lines, q.far = false) → ∀ q ∈ u.ms.l2.lines, q.way ≠ way.toNat))
    ∧ (g.down.getLsbD way.toNat = false →
      ∃ u : State, exec (.wayPowerUp way) s = .next u ∧ u.ms.page.l2off.getLsbD way.toNat = false
        ∧ (∀ w : Nat, w ≠ way.toNat → u.ms.page.l2off.getLsbD w = g.l2off.getLsbD w) ∧ u.near = s.near)
    ∧ (s.core.cyc.toNat % 2 ^ 24 ≠ 0 → exec .errorCountWindow s = .next s)
    ∧ (s.core.cyc.toNat % 2 ^ 24 = 0 → ∃ u : State, exec .errorCountWindow s = .next u ∧ u.ms.l1i.counts = [] ∧ u.ms.l1d.counts = [] ∧ u.ms.l2.counts = []
        ∧ u.ms.l2.dis = s.ms.l2.dis ∧ u.near = s.near)
    ∧ (s.clockOn = false → exec (.l2pwrWrite v) s = .next s ∧ exec (.l2lockWrite v) s = .next s)

/-- FTLBW, FTLBR, FTLBI, NTLBI and the two NTLBI events (R336, R340, R341, R467): UL raises 0x02, a reserved page size or mode 0x01; an entry
is stored and read through IDX; an invalidation removes what its mode names, and NTLBI completes when the die and this core have ended
every access that used the entries.
Mode 1 takes its ASID from x(rs1)[15:0] (DESIGN CHOICE, notes/assumptions/43.md). -/
def Obligations.TranslationMaintenance : Prop :=
  ∀ (s : State) (k : StrandId) (m : BitVec 2) (rs1 : RSpec), xOk rs1 = true →
    let t := s.str k
    let x := t.xl
    let v := t.x rs1
    let i := x.idx.toNat
    let gone := ftRemoves m x.asid v
    let asid := if m = 0 then x.asid else v.setWidth 16
    let req : NtlbiOut := { k := k, pc := t.pc, m := m, asid := asid, va := v }
    let removed := fun (u : State) (asid : BitVec 16) (va : Word) => (∀ e : TlbE, e ∈ u.ms.dtlb ↔ (e ∈ s.ms.dtlb ∧ tlbGone m asid va e = false))
      ∧ (∀ e : TlbE, e ∈ u.ms.itlb ↔ (e ∈ s.ms.itlb ∧ tlbGone m asid va e = false))
      ∧ (∀ e : TlbE, e ∈ u.ms.l2tlb ↔ (e ∈ s.ms.l2tlb ∧ tlbGone m asid va e = false))
    (Ready s k 8 → t.status.lvl = .ul → exec .ftlbr s = raises s k 0x02 0 0 ∧ (bits x.fthi.toNat 47 46 ≠ 3 → exec .ftlbw s = raises s k 0x02 0 0)
        ∧ (m ≠ 3 → exec (.ftlbi m rs1) s = raises s k 0x02 0 0 ∧ exec (.ntlbi m rs1) s = raises s k 0x02 0 0))
    ∧ (Ready s k 8 → bits x.fthi.toNat 47 46 = 3 → exec .ftlbw s = raises s k 0x01 0 0)
    ∧ (Ready s k 8 → exec (.ftlbi 3 rs1) s = raises s k 0x01 0 0 ∧ exec (.ntlbi 3 rs1) s = raises s k 0x01 0 0)
    ∧ (Ready s k 8 → t.status.lvl ≠ .ul → bits x.fthi.toNat 47 46 ≠ 3 → ftBusy s (· == i) = false →
      ∃ u : State, exec .ftlbw s = .next (retire u k 8) ∧ u.ms.ftlb = vupd s.ms.ftlb i (fun _ => ftStored x.fthi x.ftlo)
        ∧ u.ms.vict = (if s.ms.vict = x.idx then s.ms.vict + 1 else s.ms.vict) ∧ u.near = s.near ∧ u.strands = s.strands
        ∧ (tbit (s.ms.ftlb.getD i (0, 0)).2.toNat 7 = true → ∀ l ∈ u.ms.l1d.lines, l.far = false))
    ∧ (Ready s k 8 → t.status.lvl ≠ .ul → ∃ u : State, exec .ftlbr s = .next (retire u k 8)
        ∧ (u.str k).xl = { x with fthi := (s.ms.ftlb.getD i (0, 0)).1, ftlo := (s.ms.ftlb.getD i (0, 0)).2 }
        ∧ { u.str k with xl := x } = t ∧ u.ms = s.ms ∧ u.near = s.near ∧ ∀ j : StrandId, j ≠ k → u.str j = s.str j)
    ∧ (Ready s k 8 → t.status.lvl ≠ .ul → m ≠ 3 → ftBusy s (fun i => gone (s.ms.ftlb.getD i (0, 0))) = false →
        (m = 0 → v.getLsbD 63 = true ∧ v.getLsbD 62 = false) →
      ∃ u : State, exec (.ftlbi m rs1) s = .next (retire u k 8) ∧ (∀ l ∈ u.ms.l1d.lines, l.far = false) ∧ u.strands = s.strands
        ∧ (∀ j : Fin 256, u.ms.ftlb[j] = (if gone s.ms.ftlb[j] then ((s.ms.ftlb[j]).1, (s.ms.ftlb[j]).2 &&& ~~~(0x80 : Word)) else s.ms.ftlb[j]))
        ∧ u.near = s.near)
    ∧ (Ready s k 8 → t.status.lvl ≠ .ul → m = 0 → (v.getLsbD 63 && ! v.getLsbD 62) = false → ftBusy s (fun i => gone (s.ms.ftlb.getD i (0, 0))) = false →
        exec (.ftlbi m rs1) s = completes s k 8)
    ∧ (Ready s k 8 → t.status.lvl ≠ .ul → m ≠ 3 → (m = 0 → v.toNat < 2 ^ 48) →
      (s.ms.ntlbi = none → ∃ u : State, exec (.ntlbi m rs1) s = .next u ∧ removed u asid v ∧ u.ms.ntlbi = some req ∧ u.ms.ntlbiDone = false
        ∧ u.out = s.out ++ [.ntlbi m asid v] ∧ u.strands = s.strands ∧ u.near = s.near)
      ∧ (s.ms.ntlbi = some req → s.ms.ntlbiDone = true → allPerformed s = true →
        exec (.ntlbi m rs1) s = .next (retire ({ s with ms := { s.ms with ntlbi := none, ntlbiDone := false } } : State) k 8))
      ∧ (s.ms.ntlbi = some req → (s.ms.ntlbiDone && allPerformed s) = false → exec (.ntlbi m rs1) s = .next s))
    ∧ (Ready s k 8 → t.status.lvl ≠ .ul → 2 ^ 48 ≤ v.toNat → exec (.ntlbi 0 rs1) s = completes s k 8)
    ∧ (∀ (asid : BitVec 16) (va : BitVec 64), ∃ u : State, exec (.ntlbiRequestReceived m asid va) s = .next u ∧ removed u asid va
        ∧ (allPerformed s = true → u.out = s.out ++ [.ntlbiAck] ∧ u.ms.ackDue = s.ms.ackDue)
        ∧ (allPerformed s = false → u.out = s.out ∧ u.ms.ackDue = s.ms.ackDue + 1) ∧ u.near = s.near ∧ u.strands = s.strands)
    ∧ (s.ms.ntlbi.isSome = true → exec .ntlbiCompletion s = .next { s with ms := { s.ms with ntlbiDone := true } })

/-! ### Queues -/

/-- QPUSH, QPOP, QTRY, QREL, QFLUSH, QCFG, QSTAT on a queue whose descriptor is held, and the queue engine's events (R376 to R387,
Table 16-4): faults record ERR and raise 0x1B; items are allocated, written with their marks, taken, released and flushed; a full lossy
queue counts what it drops and a full lossless one holds the push back; a descriptor is read before it is held; a deferred chain starts once the
context's chain is idle, and a
response to a forward releases its item, or is a reason to send it again.
QSTAT of an invalid queue raises reason 0x01 (DEDUCED, notes/assumptions/93.md); a deferred start claims its context's bank as a DSCH does,
and stays deferred until it has it (DESIGN CHOICE, notes/assumptions/95.md). -/
def Obligations.Queues : Prop :=
  ∀ (s : State) (k : StrandId) (rd rs1 rs2 rs3 : RSpec) (q : Nat) (d : QDesc), xOk rd = true → xOk rs1 = true → xOk rs2 = true → xOk rs3 = true →
    s.marks = [] → s.rel.aborted = false → q < 2 ^ 20 → s.qOf q = some d →
    let t := s.str k
    let a := (t.x rs2).toNat
    let block := s.spad.getN (a - spw) 64
    let new := qdescOf q block
    let n := (t.x rs3).toNat
    let data := s.spad.getN (a - spw) n
    let faults := fun (i : Instr) (reason : BitVec 8) => ∃ (u : State) (e : QDesc),
      exec i s = .next (raise u k (mkEv 0x1B (w64 (s.qAddr q)) (q % 65536) .ul)) ∧ u.qOf q = some e ∧ e = { d with err := reason }
        ∧ u.near = s.near ∧ u.strands = s.strands
    (Ready s k 8 → 2 ^ 20 ≤ (t.x rs1).toNat → ∀ i ∈ [Instr.qpop rd rs1, .qtry rd rs1, .qrel rs1, .qflush rs1, .qstat rd rs1, .qcfg rs1 rs2],
        exec i s = raises s k 0x01 0 0)
    ∧ (Ready s k 8 → t.x rs1 = w64 q →
      (t.status.lvl = .ul → exec (.qcfg rs1 rs2) s = raises s k 0x02 0 0)
      ∧ (d.v = false → ∀ i ∈ [Instr.qpop rd rs1, .qtry rd rs1, .qrel rs1, .qflush rs1, .qstat rd rs1], faults i 0x01)
      ∧ (d.v = true → t.status.lvl.below (lvlOf d.clvl.toNat) = true →
          ∀ i ∈ [Instr.qpop rd rs1, .qtry rd rs1, .qrel rs1, .qflush rs1], faults i 0x02)
      ∧ (d.v = true → ∃ u : State, exec (.qstat rd rs1) s
            = .next (retire (u.setX k rd (w64 (d.err.toNat * 2 ^ 56 + d.used % 2 ^ 24 * 2 ^ 32 + d.lost.toNat * 2 ^ 16))) k 8)
          ∧ u.qOf q = some d ∧ u.strands = s.strands ∧ u.near = s.near)
      ∧ (d.v = true → t.status.lvl.below (lvlOf d.clvl.toNat) = false →
        (d.isFwd = true → faults (.qpop rd rs1) 0x04 ∧ faults (.qtry rd rs1) 0x04)
        ∧ (∀ it : QItem, d.isFwd = false → d.items.find? (fun it => ! it.taken) = some it → it.poppable = true →
          ∀ i ∈ [Instr.qpop rd rs1, .qtry rd rs1], ∃ (u : State) (e : QDesc),
            exec i s = .next (retire (u.setX k rd (w64 ((if it.gap then it.gapcnt.toNat * 2 ^ 48 + 2 ^ 47 else 0)
              + (if it.wr < it.k then 2 ^ 46 else 0) + it.len * 2 ^ 32 + it.idx.toNat % 2 ^ d.szlog2))) k 8)
            ∧ u.qOf q = some e ∧ e.take = it.idx + BitVec.ofNat 32 it.k ∧ e.head = d.head ∧ e.tail = d.tail ∧ u.strands = s.strands ∧ u.near = s.near)
        ∧ (d.isFwd = false → (∀ it ∈ d.items, it.taken = true) →
          (∃ u : State, exec (.qtry rd rs1) s = .next (retire (u.setX k rd 0) k 8) ∧ u.qOf q = some d ∧ u.strands = s.strands ∧ u.near = s.near)
          ∧ (∃ u : State, exec (.qpop rd rs1) s = .next u ∧ u.str k = { t with run := { t.run with cond := some (.queue q) } }
            ∧ u.qOf q = some d ∧ u.near = s.near))
        ∧ (∀ (it : QItem) (r : List QItem), d.items = it :: r → it.taken = true → it.k ≤ it.wr →
          ∃ (u : State) (e : QDesc), exec (.qrel rs1) s = .next (retire u k 8) ∧ u.qOf q = some e ∧ e.head = it.idx + BitVec.ofNat 32 it.k
            ∧ e.items = r ∧ e.tail = d.tail ∧ StrandsKept s u
            ∧ u.near = (List.range it.k).foldl (fun m j => m.putLE (d.markAt (it.idx + BitVec.ofNat 32 j)) 8 0) s.near)
        ∧ ((∀ (it : QItem) (r : List QItem), d.items = it :: r → it.taken = false) → faults (.qrel rs1) 0x04)
        ∧ ((∀ it ∈ d.items, it.k ≤ it.wr ∧ it.taken = false) → ∃ (u : State) (e : QDesc), exec (.qflush rs1) s = .next (retire u k 8)
            ∧ u.qOf q = some e ∧ e.items = [] ∧ e.tail = d.head ∧ e.take = d.head ∧ e.head = d.head ∧ u.strands = s.strands ∧ u.near = s.near))
      ∧ (t.status.lvl ≠ .ul → a % 64 ≠ 0 → exec (.qcfg rs1 rs2) s = raises s k 0x0D (t.x rs2) 0)
      ∧ (t.status.lvl ≠ .ul → a % 64 = 0 → spw ≤ a → a + 64 ≤ spw + s.spadSize → AccessFree s k true false (a - spw) 64 →
        (d.v = true → d.used ≠ 0 → new.v = true → faults (.qcfg rs1 rs2) 0x06)
        ∧ ((d.v && d.used != 0 && new.v) = false → new.pin = true → 512 ≤ (s.queues.hot.filter (fun e => e.pin && e.v)).length →
            faults (.qcfg rs1 rs2) 0x07)
        ∧ ((d.v && d.used != 0 && new.v) = false → new.pin = false → qcfgOk s block = false → faults (.qcfg rs1 rs2) 0x0A)
        ∧ ((d.v && d.used != 0 && new.v) = false → new.pin = false → qcfgOk s block = true → (∀ it ∈ d.items, it.k ≤ it.wr) →
          ∃ u : State, exec (.qcfg rs1 rs2) s = .next (retire u k 8)
            ∧ u.qOf q = some { new with take := 0, tail := 0, head := 0, lost := 0, err := 0 } ∧ u.strands = s.strands ∧ u.near = s.near)))
    ∧ (Ready s k 8 → (t.x rs1).toNat = 2 ^ 63 + q → spw ≤ a → a + n ≤ spw + s.spadSize → 16 ≤ n → n ≤ 4096 → n % 16 = 0 →
        AccessFree s k true false (a - spw) n →
      (d.v = false → faults (.qpush rs1 rs2 rs3) 0x01)
      ∧ (d.v = true → t.status.lvl.below (lvlOf d.plvl.toNat) = true → faults (.qpush rs1 rs2 rs3) 0x02)
      ∧ (d.v = true → t.status.lvl.below (lvlOf d.plvl.toNat) = false →
        (d.lenOk n = false → faults (.qpush rs1 rs2 rs3) 0x03)
        ∧ (d.lenOk n = true → d.used + d.slots n ≤ d.size →
          ∃ (u : State) (e : QDesc) (it : QItem), exec (.qpush rs1 rs2 rs3) s = .next (retire u k 8) ∧ u.qOf q = some e
            ∧ e.tail = d.tail + BitVec.ofNat 32 (d.slots n) ∧ e.lost = 0 ∧ e.items = d.items ++ [it] ∧ it.idx = d.tail ∧ it.len = n
            ∧ it.data = data ∧ it.gap = (d.lost != 0) ∧ it.gapcnt = d.lost ∧ it.poppable = false ∧ u.strands = s.strands ∧ u.near = s.near)
        ∧ (d.lenOk n = true → d.size < d.used + d.slots n → d.lossy = true → ∃ (u : State) (e : QDesc),
            exec (.qpush rs1 rs2 rs3) s = .next (retire u k 8) ∧ u.qOf q = some e
            ∧ e = { d with lost := if d.lost = 0xFFFF then d.lost else d.lost + 1 } ∧ u.strands = s.strands ∧ u.near = s.near)
        ∧ (d.lenOk n = true → d.size < d.used + d.slots n → d.lossy = false →
            ∃ u : State, exec (.qpush rs1 rs2 rs3) s = .next u ∧ u.qOf q = some d ∧ u.strands = s.strands ∧ u.near = s.near)))
    ∧ (∀ it : QItem, d.items = [it] → it.wr = 0 → it.k = 1 → it.poppable = false → d.cthr = 0 → d.acts = [] →
      ∃ (u : State) (e : QDesc), exec (.queueItemPoppable (BitVec.ofNat 20 q)) s = .next u ∧ u.qOf q = some e
        ∧ e = { d with items := [{ it with wr := 1, poppable := true }] }
        ∧ u.near = (s.near.putN (d.slotAt it.idx) (it.data.take 64)).putLE (d.markAt it.idx) 8 (markWord it 0)
        ∧ (∀ j : StrandId, (s.str j).run.cond = some (.queue q) → (s.str j).run.st = .waiting → (u.str j).run.st = .ready)
        ∧ ∀ j : StrandId, { u.str j with run := (s.str j).run } = s.str j)
    ∧ (∀ (w : Nat) (s1 : State), let c : CtxId := { k := Fin.ofNat 4 d.owns.toNat, lv := lvlOf d.olvl.toNat }
        let pa := bits w 59 18 * 64
        let m := bits w 17 12 + 1
        d.deferred = some w →
        ((s.chainOf c).active = true → exec (.deferredChainStart (BitVec.ofNat 20 q)) s = .next s)
        ∧ ((s.chainOf c).active = false → (s.ctxOf c).st = .none → ∃ (u : State) (e : QDesc),
            exec (.deferredChainStart (BitVec.ofNat 20 q)) s = .next u ∧ u.qOf q = some e ∧ e = { d with deferred := none, err := 0x08 }
            ∧ ∃ v ∈ (u.str c.k).run.pendEv, v.num = 0x1B)
        ∧ ((s.chainOf c).active = false → (s.ctxOf c).st ≠ .none → (s.ctxOf c).st ≠ .resident → bits w 11 6 + bits w 5 0 ≤ 63 → s.ckHold = false →
            s.tiles.claim = none → ∃ u : State, exec (.deferredChainStart (BitVec.ofNat 20 q)) s = .next u ∧ u.qOf q = some d ∧ c ∈ u.tiles.claims
            ∧ u.strands = s.strands)
        ∧ ((s.chainOf c).active = false → (s.ctxOf c).st = .resident → bits w 11 6 + bits w 5 0 ≤ 63 → s.ckHold = false →
          spw ≤ pa → pa + 16 * m ≤ spw + s.spadSize → Memory.wf s.spad = true → s.framesHit c.k pa (16 * m) = false →
          (∀ r ∈ s.ms.preads, r.who ≠ .move { k := c.k, id := 2 }) →
          chainFrom (s.modQ q (fun d => { d with deferred := none })) c (w64 pa) (s.spad.getN (pa - spw) (16 * m)) m (bits w 11 6)
            (bits w 5 0 + 1) = .ok s1 →
          exec (.deferredChainStart (BitVec.ofNat 20 q)) s = .next (s1.stampCtx c)))
    ∧ (∀ (it : QItem) (code : BitVec 8), d.fwding = true → d.items = [it] → it.taken = true →
      let x := fwdCode s q code
      (x = 0x0A ∨ x = 0x0D → exec (.fwdResponse (BitVec.ofNat 20 q) code) s = .next s)
      ∧ (x = 0 → ∃ (u : State) (e : QDesc), exec (.fwdResponse (BitVec.ofNat 20 q) code) s = .next u ∧ u.qOf q = some e ∧ e.items = []
          ∧ e.fwding = false ∧ e.head = it.idx + BitVec.ofNat 32 it.k ∧ e.err = d.err ∧ StrandsKept s u)
      ∧ (x ≠ 0 → x ≠ 0x0A → x ≠ 0x0D → ∃ (u : State) (e : QDesc), exec (.fwdResponse (BitVec.ofNat 20 q) code) s = .next u ∧ u.qOf q = some e
          ∧ e.items = [] ∧ e.err = 0x09 ∧ ∃ v ∈ (u.str (Fin.ofNat 4 d.owns.toNat)).run.pendEv, v.num = 0x1B))
    ∧ (∀ p : Nat, p < 2 ^ 20 → s.qOf p = none → s.ms.preads = [] → s.ms.l2.find false (s.qAddr p / 128) = none → s.mshrOf (s.qAddr p / 128) = none →
        s.ms.evbuf = [] → s.ms.side.contains (s.qAddr p / 128) = false →
      ∃ (u : State) (r : PRead), exec (.descriptorFetch (BitVec.ofNat 20 p)) s = .next u ∧ u.out = s.out ++ [.nearRead (s.qAddr p) 64 false]
        ∧ u.ms.preads = [r] ∧ r.who = .queue p ∧ r.pa = s.qAddr p ∧ r.n = 64 ∧ u.queues = s.queues ∧ u.near = s.near ∧ u.strands = s.strands)
    ∧ (∀ p : Nat, p < 2 ^ 20 → s.qOf p = none → s.queues.hot.length < 1024 → AgentHeld s (.queue p) (s.qAddr p) 64 →
      ∃ (u : State) (e : QDesc), exec (.descriptorFetch (BitVec.ofNat 20 p)) s = .next u ∧ u.qOf p = some e
        ∧ { e with items := [] } = qdescOf p (s.near.getN (s.qAddr p) 64) ∧ u.near = s.near ∧ u.strands = s.strands)

/-! ### The far port -/

/-- FRED, RWCFG, RWSTAT, RWKILL, RED_REQUEST and WINDOW_WATCHDOG (R361 to R365, Table 15-9): the checks; the request that FRED makes; a
window is armed, read and stopped; a contribution is refused, stored, or stored and folded; a window that fills for too long raises job
abort. -/
def Obligations.ReductionWindows : Prop :=
  ∀ (s : State) (k : StrandId) (rd rs1 rs2 rs3 : RSpec) (w : BitVec 6), xOk rd = true → xOk rs1 = true → xOk rs2 = true → xOk rs3 = true →
    s.marks = [] → s.rel.aborted = false →
    let t := s.str k
    let i : Fin 64 := Fin.ofNat 64 w.toNat
    let x := s.far.wins[i]
    let h := (t.x rs1).toNat
    let a := t.x rs2
    let n := (t.x rs3).toNat
    let b := t.x rs1
    let block := dwords (s.spad.getN (b.toNat - spw) 64) 8
    let handleOk := bits h 63 62 = 0 ∧ bits h 35 32 = 0 ∧ bits h 15 10 = 0
    (Ready s k 8 → t.status.lvl = .ul → exec (.rwcfg w rs1) s = raises s k 0x02 0 0 ∧ exec (.rwstat rd w 0) s = raises s k 0x02 0 0
        ∧ exec (.rwkill w) s = raises s k 0x02 0 0 ∧ (s.far.regs.ufred = false → handleOk → 1 ≤ n → n ≤ 1024 → exec (.fred rs1 rs2 rs3) s = raises s k 0x02 0 0))
    ∧ (Ready s k 8 → ¬ handleOk ∨ n = 0 ∨ 1024 < n → exec (.fred rs1 rs2 rs3) s = raises s k 0x01 0 0)
    ∧ (Ready s k 8 → t.status.lvl ≠ .ul ∨ s.far.regs.ufred = true → handleOk → 1 ≤ n → n ≤ 1024 →
      (isWin a = false ∨ a.toNat % 16 ≠ 0 ∨ spw + s.spadSize < a.toNat + 4 * n → exec (.fred rs1 rs2 rs3) s = raises s k 0x0D a 0)
      ∧ (isWin a = true → a.toNat % 16 = 0 → a.toNat + 4 * n ≤ spw + s.spadSize → s.tiles.inflight = [] →
          AccessFree s k true false (a.toNat - spw) (4 * n) →
        (s.farOn = true → FreshReqs s → ∃ (u : State) (r : FarReq), exec (.fred rs1 rs2 rs3) s = .next (retire u k 8) ∧ r ∈ u.far.reqs ∧ r.owner = .store k
            ∧ r.msg.op = 5 ∧ r.msg.dstNode.toNat = bits h 61 48 ∧ r.msg.dstEp.toNat = bits h 47 42
            ∧ r.msg.addr = w64 (bits h 31 16 * 2 ^ 48 + bits h 41 36 * 2 ^ 36 + bits h 9 0)
            ∧ r.msg.body = s.spad.getN (a.toNat - spw) (4 * n) ∧ u.spad = s.spad ∧ u.near = s.near ∧ u.strands = s.strands)
        ∧ (s.farOn = false → ∃ u : State, exec (.fred rs1 rs2 rs3) s = .next (retire u k 8) ∧ u.spad = s.spad ∧ u.near = s.near
            ∧ (u.str k).run.pendEv = t.run.pendEv ++ [{ num := 0x1A, fa := 0, info := 0x08, rel := .sl, src := .far, asid := 0 }])))
    ∧ (Ready s k 8 → t.status.lvl ≠ .ul → (∀ sel : BitVec 2, sel = 2 ∨ sel = 3 → exec (.rwstat rd w sel) s = raises s k 0x01 0 0)
      ∧ exec (.rwstat rd w 0) s = givesX s k 8 rd (w64 (x.gen.toNat * 2 ^ 48 + x.next % 1024 * 2 ^ 32 + x.st.code))
      ∧ exec (.rwstat rd w 1) s = givesX s k 8 rd (w64 (x.lastSat % 2 ^ 32 * 2 ^ 32 + x.lastFlush % 2 ^ 32))
      ∧ (∃ u : State, exec (.rwkill w) s = .next (retire u k 8) ∧ (u.far.wins[i]).st = .idle ∧ (u.far.wins[i]).present = [] ∧ u.near = s.near
          ∧ u.strands = s.strands ∧ ∀ j : Fin 64, j ≠ i → u.far.wins[j] = s.far.wins[j])
      ∧ (b.toNat % 64 ≠ 0 → exec (.rwcfg w rs1) s = raises s k 0x0D b 0)
      ∧ (b.toNat % 64 = 0 → spw ≤ b.toNat → b.toNat + 64 ≤ spw + s.spadSize → AccessFree s k true false (b.toNat - spw) 64 →
        (x.st ≠ .idle ∨ rwOk s block = false → exec (.rwcfg w rs1) s = raises s k 0x01 0 0)
        ∧ (x.st = .idle → rwOk s block = true → ∃ u : State, exec (.rwcfg w rs1) s = .next (retire u k 8)
            ∧ u.far.wins[i] = rwOf block ∧ (u.far.wins[i]).st = .armed ∧ u.near = s.near ∧ u.strands = s.strands
            ∧ ∀ j : Fin 64, j ≠ i → u.far.wins[j] = s.far.wins[j])))
    ∧ (∀ (m : FarMsg) (e : TgtSess), m.kind = 0 → m.op = 5 → s.joined = true → m.epoch = s.far.regs.epoch → s.tgtSess m = some e → e.held = true →
        e.h.toNat < m.seq.toNat → i.val = bits m.addr.toNat 41 36 → (x.st = .filling → x.next ≤ x.cntm1) →
      let gen := bits m.addr.toNat 63 48
      let rank := bits m.addr.toNat 9 0
      let len := 4 * (x.nm1 + 1)
      (x.st = .idle → ∃ u : State, exec (.redRequest m) s = .next u ∧ OutMsg.msg (respMsg m 0x06 []) ∈ u.out ∧ u.near = s.near)
      ∧ (x.st ≠ .idle → BitVec.ofNat 16 gen = x.gen + 1 →
          ∃ u : State, exec (.redRequest m) s = .next u ∧ OutMsg.msg (respMsg m 0x0A []) ∈ u.out ∧ u.near = s.near ∧ u.tgtSess m = some { e with used := s.nextUse })
      ∧ (x.st ≠ .idle → gen = x.gen.toNat → x.cntm1 < rank ∨ m.body.length ≠ len ∨ x.present.contains rank = true →
          ∃ u : State, exec (.redRequest m) s = .next u ∧ OutMsg.msg (respMsg m 0x06 []) ∈ u.out ∧ u.near = s.near)
      ∧ (x.st ≠ .idle → gen = x.gen.toNat → rank ≤ x.cntm1 → m.body.length = len → x.present.contains rank = false →
        (rank ≠ x.next → x.next ≤ x.cntm1 → x.present.contains x.next = false →
          ∃ u : State, exec (.redRequest m) s = .next u ∧ OutMsg.msg (respMsg m 0 []) ∈ u.out ∧ u.near = s.near.putN (x.spa + rank * len) m.body
            ∧ (u.far.wins[i]).st = .filling ∧ (u.far.wins[i]).present = rank :: x.present ∧ (u.far.wins[i]).next = x.next)
        ∧ (rank = 0 → x.next = 0 → 1 ≤ x.cntm1 → x.present = [] → Memory.wf s.near = true →
          ∃ u : State, exec (.redRequest m) s = .next u ∧ OutMsg.msg (respMsg m 0 []) ∈ u.out ∧ (u.far.wins[i]).next = 1
            ∧ u.near = (s.near.putN x.spa m.body).putN x.rpa ((List.range (x.nm1 + 1)).flatMap (fun j =>
                toLE 4 (foldElem x.int x.op none (leNat ((m.body.drop (4 * j)).take 4))).1)))))
    ∧ (x.st = .filling → x.next ≤ x.cntm1 → s.far.regs.wto.toNat * 1000 < (s.core.gtime - x.since).toNat →
        ∃ u : State, exec (.windowWatchdog w) s = .next u ∧ u.rel.aborted = true ∧ u.rel.abst = abstWord true 0x07 s.far.regs.node s.hw.epnum
          ∧ u.near = s.near)
    ∧ (x.st ≠ .filling ∨ (s.core.gtime - x.since).toNat ≤ s.far.regs.wto.toNat * 1000 → exec (.windowWatchdog w) s = .next s)

/-- The flits and timers of the link (R350 to R354, Table 15-4): a flit whose CRC fails is answered with NACK once; a DATA flit in sequence
is delivered and its credit returned; acknowledgements free the replay buffer; NACK and the replay timer send what is left again; CREDIT,
IDLE and INIT; PA_LINKUP rises and falls; retraining that does not succeed raises job abort. -/
def Obligations.LinkLayer : Prop :=
  ∀ (s : State) (f : Flit), s.marks = [] → s.rel.aborted = false →
    let l := s.far.link
    let five := [Instr.dataFlitReceived f, .idleFlitReceived f, .creditFlitReceived f, .nackFlitReceived f, .initFlitReceived f]
    let cnt := fun (o i : Nat) => leNat ((f.payload.drop (o + 2 * i)).take 2)
    let sent := fun (u : State) (y : Nat) => ∃ g : Flit, u.out = s.out ++ [.flit g] ∧ g.ltype = y ∧ g.good = true
    let again := fun (b : List (BitVec 10 × BitVec 2 × Flit)) => b.map (fun e => OutMsg.flit (l.stamp e.1 e.2.2))
    (s.linkOn = false → ∀ i ∈ five ++ [.idleSendTimer, .replayTimeout, .nackResendTimer], exec i s = .next s)
    ∧ (s.linkOn = true →
      (f.good = false → l.nacked = true → ∀ i ∈ five, exec i s = .next s)
      ∧ (f.good = false → l.nacked = false → ∀ i ∈ five, ∃ u : State, exec i s = .next u ∧ u.far.link = { l with nacked := true } ∧ sent u 3)
      ∧ (f.good = true → f.ltype = 1 → f.ackv = false →
        (f.fseq ≠ l.erx.toNat → l.nacked = false → ∃ u : State, exec (.dataFlitReceived f) s = .next u ∧ u.far.link = { l with nacked := true }
            ∧ sent u 3 ∧ u.far.rxMsgs = s.far.rxMsgs)
        ∧ (f.fseq = l.erx.toNat → f.vc ≠ 3 → f.sop = true → f.eop = true → l.rx.getD f.vc [] = [] →
          ∃ u : State, exec (.dataFlitReceived f) s = .next u ∧ u.far.link.erx = l.erx + 1 ∧ u.far.link.nacked = false ∧ u.far.link.recvAny = true
            ∧ u.far.rxMsgs = s.far.rxMsgs ++ [msgOf f.payload] ∧ sent u 2)
        ∧ (f.fseq = l.erx.toNat → f.vc ≠ 3 → f.sop = true → f.eop = false → l.rx.getD f.vc [] = [] →
          ∃ u : State, exec (.dataFlitReceived f) s = .next u ∧ u.far.link.erx = l.erx + 1 ∧ u.far.link.rx.getD f.vc [] = [f]
            ∧ u.far.rxMsgs = s.far.rxMsgs ∧ u.out = s.out))
      ∧ (f.good = true → f.ltype = 0 → (f.ackv = false → exec (.idleFlitReceived f) s = .next s)
        ∧ (∀ (e : BitVec 10 × BitVec 2 × Flit) (r : List (BitVec 10 × BitVec 2 × Flit)), f.ackv = true → l.buf = e :: r → e.1.toNat = f.ackseq →
            l.waiting = [] → ∃ u : State, exec (.idleFlitReceived f) s = .next u ∧ u.far.link = { l with buf := r, replays := 0 } ∧ u.out = s.out))
      ∧ (f.good = true → f.ltype = 2 → f.ackv = false → l.waiting = [] → ∃ u : State, exec (.creditFlitReceived f) s = .next u
          ∧ u.far.link = { l with credits := #v[l.credits[0] + cnt 0 0, l.credits[1] + cnt 0 1, l.credits[2] + cnt 0 2] } ∧ u.out = s.out)
      ∧ (∀ (e : BitVec 10 × BitVec 2 × Flit) (r : List (BitVec 10 × BitVec 2 × Flit)), f.good = true → f.ltype = 3 → f.ackv = true →
          l.buf = e :: r → e.1.toNat = f.ackseq → r ≠ [] → l.waiting = [] → l.snd = .send →
          ∃ u : State, exec (.nackFlitReceived f) s = .next u ∧ u.far.link = { l with buf := r, replays := 1 } ∧ u.out = s.out ++ again r)
      ∧ (f.good = true → f.ltype = 4 → f.ackv = false → l.waiting = [] → ∃ u : State, exec (.initFlitReceived f) s = .next u
          ∧ u.far.regs.lstate = .up ∧ u.far.regs.pver = BitVec.ofNat 4 (f.payload.headD 0).toNat ∧ u.far.link.snd = .send ∧ u.far.link.nacked = false
          ∧ u.out = s.out ++ again l.buf ∧ u.far.link.credits[0] = cnt 4 0 - (l.buf.filter (fun e => e.2.1.toNat == 0)).length
          ∧ (s.far.regs.lstate ≠ .up → u.far.regs.istat.getLsbD 1 = true))
      ∧ (s.far.regs.lstate = .up → ∃ u : State, exec .idleSendTimer s = .next u ∧ u.far = s.far ∧ sent u 0)
      ∧ (l.snd = .send → l.buf ≠ [] → (l.replays < 7 → l.waiting = [] → ∃ u : State, exec .replayTimeout s = .next u
            ∧ u.far.link = { l with replays := l.replays + 1 } ∧ u.out = s.out ++ again l.buf)
          ∧ (7 ≤ l.replays → ∃ u : State, exec .replayTimeout s = .next u ∧ u.far.link.snd = .retrain ∧ u.far.link.retrain = true
            ∧ u.far.regs.lstate = .retrain ∧ u.far.regs.retrains = (if s.far.regs.retrains = 0xFFFF then s.far.regs.retrains else s.far.regs.retrains + 1)))
      ∧ (l.nacked = true → ∃ u : State, exec .nackResendTimer s = .next u ∧ u.far = s.far ∧ sent u 3))
    ∧ (∀ y : BitVec 16, s.hw.farp = true → l.linkup = false → ∃ u : State, exec (.linkupRise y) s = .next u ∧ u.far.link.linkup = true
        ∧ u.far.link.nacked = false ∧ u.far.link.retrain = l.retrain ∧ u.far.link.fseq = l.fseq ∧ u.far.link.erx = l.erx ∧ u.far.regs.lstate = .init
        ∧ u.far.regs.ldly = y ∧ sent u 4)
    ∧ (l.linkup = true → ∃ u : State, exec .paLinkupFall s = .next u ∧ u.far.link = { l with linkup := false, retrain := false, snd := .retrain }
        ∧ u.far.regs.lstate = .retrain ∧ u.out = s.out)
    ∧ (l.snd = .retrain → s.far.regs.lstate = .retrain → ∃ u : State, exec .retrainTimeout s = .next u ∧ u.far.link.snd = .down
        ∧ u.far.regs.lstate = .down ∧ u.rel.aborted = true ∧ u.rel.abst = abstWord true 0x06 s.far.regs.node s.hw.epnum)

/-- The requests that this core performs as a target (R347, R355 to R358, R368, R380): the refusals by membership, epoch and session; the
duplicate filter; loads, stores, atomics and remote pushes; sessions opened, found again, closed and read back.
A request answered 0x0A leaves its session as it was (DEDUCED, notes/assumptions/79.md), an atomic that version 1 lacks is answered
0x0B (DEDUCED, notes/assumptions/81.md), and a record that leaves the core changes memory at its place only (DESIGN CHOICE,
notes/assumptions/80.md). -/
def Obligations.FarTarget : Prop :=
  ∀ (s : State) (m : FarMsg), m.kind = 0 → s.marks = [] → s.rel.aborted = false → s.far.regs.jstate ≠ .aborted →
    let pa := m.addr.toNat % 2 ^ 48
    let answers := fun (u : State) (code : Nat) (body : List Byte) => OutMsg.msg (respMsg m code body) ∈ u.out
    let src := fun (t : TgtSess) => t.node = m.srcNode ∧ t.ep = m.srcEp
    (∀ (i : Instr) (op : BitVec 6), (i, op) ∈ [(Instr.fldRequest m, (1 : BitVec 6)), (.fstRequest m, 2), (.famoRequest m, 3), (.qpushRequest m, 4),
        (.redRequest m, 5), (.sopen m, 6), (.sclose m, 7)] → m.op = op →
      let refuses := fun (code : Nat) => ∃ u : State, exec i s = .next u ∧ answers u code [] ∧ u.near = s.near ∧ u.strands = s.strands
      (s.joined = false → refuses 0x08) ∧ (s.joined = true → m.epoch < s.far.regs.epoch → refuses 0x07)
      ∧ (s.joined = true → s.far.regs.epoch < m.epoch → refuses 0x0D)
      ∧ (s.joined = true → m.epoch = s.far.regs.epoch → op ≠ 6 → s.tgtSess m = none → refuses 0x09)
      ∧ (∀ t : TgtSess, s.joined = true → m.epoch = s.far.regs.epoch → op ≠ 6 → s.tgtSess m = some t → t.held = true → m.seq.toNat ≤ t.h.toNat →
        (64 ≤ t.h.toNat - m.seq.toNat → refuses 0x01)
        ∧ (∀ p : Nat × FarMsg, t.h.toNat - m.seq.toNat < 64 → t.m.getLsbD (t.h.toNat - m.seq.toNat) = true →
            t.slots.find? (fun p => p.1 == m.seq.toNat % 64) = some p →
          ∃ u : State, exec i s = .next u ∧ OutMsg.msg p.2 ∈ u.out ∧ u.near = s.near ∧ u.strands = s.strands))
      ∧ (∀ t : TgtSess, s.joined = true → m.epoch = s.far.regs.epoch → op ≠ 6 → s.tgtSess m = some t → t.held = false →
          ∃ u : State, exec i s = .next u ∧ m ∈ u.far.rxMsgs ∧ u.out = s.out ∧ u.near = s.near ∧ u.strands = s.strands))
    ∧ (∀ t : TgtSess, s.joined = true → m.epoch = s.far.regs.epoch → s.tgtSess m = some t → t.held = true → t.h.toNat < m.seq.toNat →
      let done := fun (u : State) => ∃ e : TgtSess, u.tgtSess m = some e ∧ e.h = m.seq ∧ e.m.getLsbD 0 = true
      let nl := bits m.attr.toNat 6 0
      let op := bits m.attr.toNat 4 0
      let d := m.attr.getLsbD 7
      let na := if d then 8 else 4
      (m.op = 1 → (∀ c : Nat, tgtCheck s m.addr.toNat nl false = some c →
            ∃ u : State, exec (.fldRequest m) s = .next u ∧ answers u c [] ∧ done u ∧ u.near = s.near)
          ∧ (tgtCheck s m.addr.toNat nl false = none → AgentHeld s (.target m) pa nl → ∃ u : State, exec (.fldRequest m) s = .next u ∧ answers u 0 (s.near.getN pa nl) ∧ done u
            ∧ u.near = s.near ∧ u.strands = s.strands))
      ∧ (m.op = 2 → (∀ c : Nat, tgtCheck s m.addr.toNat m.body.length false = some c →
            ∃ u : State, exec (.fstRequest m) s = .next u ∧ answers u c [] ∧ done u ∧ u.near = s.near)
          ∧ (tgtCheck s m.addr.toNat m.body.length false = none → ∃ u : State, exec (.fstRequest m) s = .next u ∧ answers u 0 [] ∧ done u
            ∧ u.near = s.near.putN pa m.body ∧ StrandsKept s u))
      ∧ (m.op = 3 → (amoExists op d && amoFar op) = false → ∃ u : State, exec (.famoRequest m) s = .next u ∧ answers u 0x0B [] ∧ done u ∧ u.near = s.near)
      ∧ (m.op = 3 → (amoExists op d && amoFar op) = true → 2 ≤ s.far.regs.pver.toNat → tgtCheck s m.addr.toNat na true = none →
          AgentHeld s (.target m) pa na → ∃ u : State, exec (.famoRequest m) s = .next u ∧ answers u 0 (toLE 8 (amoOld (8 * na) (s.near.getLE pa na)).toNat) ∧ done u
            ∧ u.near = s.near.putLE pa na (amoNew op (8 * na) (s.near.getLE pa na) (leNat (m.body.take 8)) (leNat ((m.body.drop 8).take 8)))
            ∧ StrandsKept s u)
      ∧ (∀ (q : Nat) (x : QDesc), m.op = 4 → bits m.addr.toNat 19 0 = q → s.qOf q = some x → x.isFwd = false →
        (x.v = false ∨ x.rmt = false ∨ x.lenOk m.body.length = false →
          ∃ u : State, exec (.qpushRequest m) s = .next u ∧ answers u 0x05 [] ∧ done u ∧ u.qOf q = some x)
        ∧ (x.v = true → x.rmt = true → x.lenOk m.body.length = true → x.used + x.slots m.body.length ≤ x.size →
          ∃ (u : State) (e : QDesc) (it : QItem), exec (.qpushRequest m) s = .next u ∧ answers u 0 [] ∧ done u ∧ u.qOf q = some e
            ∧ e.tail = x.tail + BitVec.ofNat 32 (x.slots m.body.length) ∧ e.items = x.items ++ [it] ∧ it.data = m.body ∧ u.strands = s.strands)
        ∧ (x.v = true → x.rmt = true → x.lenOk m.body.length = true → x.size < x.used + x.slots m.body.length → x.lossy = false →
          ∃ (u : State) (e : TgtSess), exec (.qpushRequest m) s = .next u ∧ answers u 0x0A [] ∧ u.qOf q = some x ∧ u.tgtSess m = some e
            ∧ e.h = t.h ∧ e.m = t.m)))
    ∧ (s.joined = true → m.epoch = s.far.regs.epoch → m.op = 6 →
      (∀ t : TgtSess, s.far.tgt.find? (fun t => t.node == m.srcNode && t.ep == m.srcEp && t.sgen == m.aux) = some t →
        ∃ u : State, exec (.sopen m) s = .next u ∧ OutMsg.msg { respMsg m 0 [] with sess := t.num } ∈ u.out ∧ u.far.tgt = s.far.tgt)
      ∧ ((∀ t ∈ s.far.tgt, src t → t.sgen ≠ m.aux) → s.far.tgt.length < 16384 →
        ∃ (u : State) (n : BitVec 14) (t : TgtSess), exec (.sopen m) s = .next u ∧ OutMsg.msg { respMsg m 0 [] with sess := n } ∈ u.out
          ∧ t ∈ u.far.tgt ∧ t.num = n ∧ src t ∧ t.sgen = m.aux ∧ t.h = 0 ∧ t.slots = [] ∧ t.held = true
          ∧ ∀ e ∈ u.far.tgt, src e → e = t))
    ∧ (∀ t : TgtSess, s.joined = true → m.epoch = s.far.regs.epoch → m.op = 7 → s.tgtSess m = some t → t.held = true →
        t.h.toNat < m.seq.toNat → ∃ u : State, exec (.sclose m) s = .next u ∧ answers u 0 [] ∧ u.far.tgt = s.far.tgt.filter (fun t => t.num != m.sess))
    ∧ (∀ (n : BitVec 14) (t : TgtSess), s.far.tgt.find? (fun t => t.num == n) = some t →
        (t.held = true ∨ ∀ p ∈ cutAt 128 60 (s.far.regs.scb.toNat * 4096 + 8192 * n.toNat) 6208, AgentHeld s (.sess n.toNat) p.1 p.2) →
        ∃ (u : State) (e : TgtSess), exec (.sessionRecordFill n) s = .next u ∧ u.far.tgt.find? (fun t => t.num == n) = some e ∧ e.held = true
          ∧ e.h = t.h ∧ e.m = t.m ∧ e.slots = t.slots ∧ StrandsKept s u
          ∧ ((s.far.tgt.filter (fun t => t.held)).length < 256 → u.near = s.near)
          ∧ (Memory.wf s.near = true → ∀ a : Nat, (∀ v ∈ s.far.tgt, let b := s.far.regs.scb.toNat * 4096 + 8192 * v.num.toNat
              v.held = true → a < b ∨ b + 6208 ≤ a) → u.near.get a = s.near.get a))

/-- This core as a source and a member (R356, R360, R366 to R371, R404): FAR_RESPONSE, RETRANSMIT_TIMEOUT, JREQ, JOIN, JOINRSP,
JOIN_RETRY_TIMER, TSYNC_SEND, TSYNC and ABORT.
The ends of waiting requests and the times of the join follow notes/assumptions/78.md, 86.md and 87.md (the model's choices). -/
def Obligations.FarSourceAndMembership : Prop :=
  ∀ (s : State) (m : FarMsg) (r : FarReq), s.marks = [] →
    let g := s.far.regs
    let t := w64 (leNat ((m.body.drop 8).take 8))
    let d0 := leNat (m.body.take 8)
    (m.kind = 1 → s.rel.aborted = true ∨ m.epoch ≠ g.epoch → exec (.farResponse m) s = .next (takeMsg s m))
    ∧ (m.kind = 1 → s.rel.aborted = false → m.epoch = g.epoch → answered s m = some r →
      (m.rcode = 0x0A ∨ m.rcode = 0x0D → ∃ (u : State) (q : FarReq), exec (.farResponse m) s = .next u ∧ q ∈ u.far.reqs ∧ q.id = r.id
          ∧ q.busy = true ∧ q.done = none ∧ u.near = s.near ∧ u.strands = s.strands)
      ∧ (∀ k : StrandId, m.rcode ≠ 0x0A → m.rcode ≠ 0x0D → r.owner = .store k →
          ∃ u : State, exec (.farResponse m) s = .next u ∧ (∀ q ∈ u.far.reqs, q.id < s.far.nextReq → q.id ≠ r.id) ∧ u.near = s.near
            ∧ (m.rcode = 0 → u.strands = s.strands)
            ∧ (m.rcode ≠ 0 → (u.str k).run.pendEv = (s.str k).run.pendEv
                ++ [{ num := 0x1A, fa := r.va, info := m.rcode.setWidth 16, rel := .sl, src := .far, asid := 0 }]))
      ∧ (∀ (k : StrandId) (pc : Word), m.rcode ≠ 0x0A → m.rcode ≠ 0x0D → r.owner = .load k pc →
          ∃ (u : State) (q : FarReq), exec (.farResponse m) s = .next u ∧ q ∈ u.far.reqs ∧ q.id = r.id ∧ q.done = some (m.rcode, m.body)
            ∧ u.near = s.near)
      ∧ (∀ x : SrcSess, m.rcode = 0 → r.owner = .sopen → s.far.reqs = [r] → s.srcSess r.msg.dstNode r.msg.dstEp = some x →
          ∃ u : State, exec (.farResponse m) s = .next u ∧ u.srcSess r.msg.dstNode r.msg.dstEp = some { x with sess := some m.sess }
            ∧ u.far.reqs = []))
    ∧ (s.far.reqs.find? (fun q => q.id == r.id && q.sent && q.done.isNone) = some r →
      (r.busy = true → g.jstate ≠ .joined → exec (.retransmitTimeout r.id) s = .next s)
      ∧ ((r.busy = true ∧ g.jstate = .joined) ∨ (r.busy = false ∧ r.tries < g.rtry.toNat) → ∃ u : State, exec (.retransmitTimeout r.id) s = .next u ∧ OutMsg.msg r.msg ∈ u.out
          ∧ u.far.reqs = s.far.reqs.map (fun q => if q.id == r.id then (if r.busy then { q with busy := false } else { q with tries := q.tries + 1 }) else q)
          ∧ u.near = s.near ∧ u.strands = s.strands)
      ∧ (∀ k : StrandId, r.busy = false → g.rtry.toNat ≤ r.tries → r.owner = .store k → s.rel.aborted = false →
          ∃ u : State, exec (.retransmitTimeout r.id) s = .next u ∧ u.rel.aborted = true ∧ u.rel.abst = abstWord true 0x08 g.node s.hw.epnum
            ∧ { num := 0x1A, fa := r.va, info := 0x0C, rel := .sl, src := .far, asid := 0 } ∈ (u.str k).run.pendEv ∧ u.near = s.near))
    ∧ (∀ q : Req, s.clockOn = false ∨ (q = .tap ∧ s.image.debug = false) → exec (.jreq q) s = .next s)
    ∧ (∀ q : Req, s.clockOn = true → (q = .tap → s.image.debug = true) → ∃ (u : State) (j : FarMsg), exec (.jreq q) s = .next u ∧ u.far.regs.jstate = .joining ∧ u.far.jsends = 1
        ∧ u.far.jmsg = some j ∧ OutMsg.msg j ∈ u.out ∧ j.kind = 2 ∧ j.op = 0x20 ∧ j.dstNode = g.anode ∧ j.dstEp = g.aep ∧ j.aux = u.far.jtok
        ∧ j.aux ≠ 0 ∧ j.body = joinRecord s (reqStrand q) ∧ u.near = s.near ∧ u.strands = s.strands)
    ∧ (m.kind = 2 → m.op = 0x20 → (g.auth = false → exec (.join m) s = .next (takeMsg s m))
      ∧ (let ea := g.jmap.toNat * 4096 + 4 * (bits d0 21 8 * 64 + m.srcEp.toNat)
        let why := joinReason s m (leNat (s.near.getN ea 4))
        g.auth = true → ∃ (u : State) (j : FarMsg), exec (.join m) s = .next u ∧ OutMsg.msg j ∈ u.out ∧ j.kind = 2 ∧ j.op = 0x21
          ∧ j.dstNode = m.srcNode ∧ j.dstEp = m.srcEp
          ∧ j.body = toLE 8 (g.jrefep.toNat * 2 ^ 32 + why) ++ toLE 8 s.core.gtime.toNat ∧ StrandsKept s u
          ∧ u.near = (if why = 0 then s.near.putLE ea 4 m.aux.toNat else s.near)))
    ∧ (m.kind = 2 → m.op = 0x21 → (g.jstate ≠ .joining → exec (.joinrsp m) s = .next (takeMsg s m))
      ∧ (g.jstate = .joining → d0 % 256 = 0 → ∃ u : State, exec (.joinrsp m) s = .next u ∧ u.far.regs.jstate = .joined
          ∧ u.far.regs.epoch = BitVec.ofNat 32 (bits d0 63 32) ∧ u.core.jl = true ∧ u.far.regs.jreason = 0 ∧ u.far.regs.istat.getLsbD 0 = true
          ∧ (s.core.gtime < t + (s.core.gtime - s.far.jsent) / 2 → u.core.gtime = t + (s.core.gtime - s.far.jsent) / 2)
          ∧ (t + (s.core.gtime - s.far.jsent) / 2 ≤ s.core.gtime → u.core.gtime = s.core.gtime
              ∧ u.far.slew = ((t + (s.core.gtime - s.far.jsent) / 2).toNat : Int) - (s.core.gtime.toNat : Int)))
      ∧ (g.jstate = .joining → d0 % 256 ≠ 0 → ∃ u : State, exec (.joinrsp m) s = .next u ∧ u.far.regs.jstate = .refused
          ∧ u.far.regs.jreason.toNat = d0 % 256 ∧ u.core = s.core ∧ u.far.regs.epoch = g.epoch))
    ∧ (g.jstate ≠ .joining → exec .joinRetryTimer s = .next s)
    ∧ (g.jstate = .joining → (8 ≤ s.far.jsends → ∃ u : State, exec .joinRetryTimer s = .next u ∧ u.far.regs.jstate = .noresp ∧ u.out = s.out)
        ∧ (∀ j : FarMsg, s.far.jsends < 8 → s.far.jmsg = some j → ∃ u : State, exec .joinRetryTimer s = .next u ∧ OutMsg.msg j ∈ u.out
            ∧ u.far.jsends = s.far.jsends + 1 ∧ u.far.jmsg = some j ∧ u.far.regs.jstate = .joining))
    ∧ (g.jstate = .joined → ∃ (u : State) (j : FarMsg), exec .tsyncSend s = .next u ∧ OutMsg.msg j ∈ u.out ∧ j.op = 0x23
        ∧ j.body = toLE 8 s.core.gtime.toNat ∧ u.core = s.core)
    ∧ (g.jstate ≠ .joined → g.jstate ≠ .aborted → exec .tsyncSend s = .next s)
    ∧ (m.kind = 2 → m.op = 0x23 → let d := (w64 d0 + w64 g.ldly.toNat - s.core.gtime).toInt
        ∃ u : State, exec (.tsync m) s = .next u ∧ u.far.regs.skew = BitVec.ofInt 31 d ∧ u.far.regs.alarm = decide (1000 < d.natAbs)
          ∧ u.far.slew = (if g.tfollow then d else s.far.slew) ∧ (1000 < d.natAbs → u.telem.istat.getLsbD 0 = true) ∧ u.core.gtime = s.core.gtime)
    ∧ (m.kind = 2 → m.op = 0x22 → (s.rel.aborted = true → exec (.abort m) s = .next (takeMsg s m))
      ∧ (s.rel.aborted = false → g.jstate = .joined → m.epoch = g.epoch → ∃ u : State, exec (.abort m) s = .next u ∧ u.rel.aborted = true
          ∧ u.rel.abst = abstWord false (bits d0 7 0) (BitVec.ofNat 14 (bits d0 29 16)) (BitVec.ofNat 6 (bits d0 37 32)) ∧ u.rel.abt = s.core.gtime
          ∧ u.core.jabtOut = true ∧ u.far.regs.jstate = .aborted ∧ u.far.reqs = [] ∧ u.near = s.near ∧ u.spad = s.spad))

/-! ### Dependability, power, resets, management -/

/-- JOB_ABORT_IN, ABREQ, the steps of Firefly, the checkpoint's commands and the clearing of records (R397 to R412): what job abort leaves,
from either cause; a scan step moves on and corrects or reports what it meets; a checkpoint is refused with its error, or drains, copies its
body, sends its header and is DONE. -/
def Obligations.Dependability : Prop :=
  ∀ s : State,
    let g := s.far.regs
    let p := s.rel.ffSp.toNat
    let aborts := fun (u : State) => u.rel.aborted = true ∧ u.rel.frozen = true ∧ u.rel.abt = s.core.gtime ∧ u.far.regs.jstate = .aborted
      ∧ u.far.reqs = [] ∧ u.near = s.near ∧ u.spad = s.spad ∧ u.tiles = s.tiles
      ∧ (∀ k : StrandId, { u.str k with run := (s.str k).run } = s.str k)
      ∧ (∀ k : StrandId, (s.str k).status.lvl = .ml → (s.str k).run.st ≠ .waiting → (u.str k).run = (s.str k).run)
      ∧ (∀ k : StrandId, (s.str k).status.lvl ≠ .ml → (s.str k).run.st ≠ .stopped → (u.str k).run.st = .held)
      ∧ (∀ i : Fin 4, (u.weevils[i]).st = .aborted ∧ (u.weevils[i]).rsn = 0x86)
      ∧ (s.ckHold = true → u.rel.ckst = .failed ∧ u.rel.ckerr = 0xFE)
    (s.pwr.pstate ≠ .c0 → ∀ i ∈ [Instr.abreq, .eclrCorr, .eclrFatal, .ckcmdGo 0], exec i s = .next s)
    ∧ (s.rel.aborted = true → exec .abreq s = .next s ∧ exec .jobAbortIn s = .next { s with core := { s.core with jabtIn := true } })
    ∧ (s.rel.aborted = false →
      (s.pwr.pstate = .c0 → ∃ u : State, exec .abreq s = .next u ∧ aborts u ∧ u.rel.abst = abstWord true 0x0C g.node s.hw.epnum ∧ u.core.jabtOut = true
        ∧ (g.jstate = .joined → ∃ m : FarMsg, OutMsg.msg m ∈ u.out ∧ m.op = 0x22 ∧ m.body = abortBody 0x0C g.node s.hw.epnum))
      ∧ (∃ u : State, exec .jobAbortIn s = .next u ∧ aborts u ∧ u.rel.abst = abstWord false 0 0 0 ∧ u.core.jabtIn = true
        ∧ u.core.jabtOut = true ∧ OutMsg.jabtOut true ∈ u.out
        ∧ (s.rel.abfwd = true → g.jstate = .joined → ∃ m : FarMsg, OutMsg.msg m ∈ u.out ∧ m.op = 0x22 ∧ m.body = abortBody 0 g.node s.hw.epnum)))
    ∧ (s.pwr.pstate = .c0 → exec .eclrCorr s = .next { s with rel := { s.rel with crec := vrep 16 (vrep 8 0), cecount := 0 } }
        ∧ exec .eclrFatal s = .next { s with rel := { s.rel with frec := vrep 4 (vrep 8 0), abst := 0, abt := 0, fovf := 0 } })
    ∧ (s.rel.ffen = false → exec .fireflyL2Step s = .next s ∧ exec .fireflySpStep s = .next s)
    ∧ (s.rel.ffen = true → s.clockOn = true →
      (s.marks = [] → exec .fireflyL2Step s = .next { s with rel := { s.rel with ffL2 := s.rel.ffL2 + 1 } }
        ∧ exec .fireflySpStep s = .next { s with rel := { s.rel with ffSp := if (p + 1) * 64 < s.spadSize then s.rel.ffSp + 1 else 0 } })
      ∧ (∀ w : Nat, w % 8 = 0 → w / 64 = p →
        (s.marks = [{ code := 0x07, loc := w, unc := false }] → ∃ u : State, exec .fireflySpStep s = .next u ∧ u.marks = [] ∧ u.spad = s.spad
            ∧ u.rel.cecount = (if s.rel.cecount = 0xFFFF then s.rel.cecount else s.rel.cecount + 1) ∧ u.rel.aborted = s.rel.aborted)
        ∧ (s.marks = [{ code := 0x07, loc := w, unc := true }] → s.rel.aborted = false → ∃ u : State, exec .fireflySpStep s = .next u
            ∧ u.rel.aborted = true ∧ u.rel.abst = abstWord true 0x04 g.node s.hw.epnum ∧ u.spad = s.spad)))
    ∧ (∀ banks : BitVec 2, s.pwr.pstate = .c0 → let go := exec (.ckcmdGo banks) s
        let fails := fun (e : BitVec 8) => Host.Outcome.next ({ s with rel := { s.rel with ckst := .failed, ckerr := e } } : State)
      (s.ckHold = true → go = .next s)
      ∧ (s.ckHold = false → s.rel.aborted = true → go = fails 0xFE)
      ∧ (s.ckHold = false → s.rel.aborted = false → g.jstate ≠ .joined → go = fails 0xF0)
      ∧ (s.ckHold = false → s.rel.aborted = false → g.jstate = .joined → s.spadSize < s.rel.spFirst + s.rel.spBytes → go = fails 0xF1)
      ∧ (s.ckHold = false → g.jstate = .joined → s.rel.spFirst + s.rel.spBytes ≤ s.spadSize → s.rel.aborted = false →
          go = .next { s with rel := { s.rel with ckst := .drain, ckerr := 0, ckbanks := if s.hw.lean then banks &&& 1 else banks } }))
    ∧ (s.rel.ckst = .drain → s.drained = false → exec .checkpointDrainDone s = .next s)
    ∧ (s.rel.ckst = .drain → s.drained = true → s.marks = [] → s.farOn = true → FreshReqs s → ∃ u : State, exec .checkpointDrainDone s = .next u
        ∧ u.rel.ckst = .copy ∧ u.rel.cktime = s.core.gtime ∧ u.near = s.near ∧ u.spad = s.spad ∧ u.tiles = s.tiles ∧ u.strands = s.strands
        ∧ (0x100 < s.ckTotal → s.ckReqs = [] → ∃ r ∈ u.far.reqs, r.owner = .ckpt ∧ r.msg.op = 2
            ∧ r.msg.addr = w64 ((s.rel.ckga.toNat + 0x100) % 2 ^ 62) ∧ r.msg.body = ckChunk s 0x100))
    ∧ (s.rel.ckst = .copy → s.rel.ckpos ≠ 0 → s.ckTotal ≤ s.rel.ckpos → s.ckReqs = [] → s.farOn = true → FreshReqs s →
        ∃ u : State, exec .checkpointBodyAcked s = .next u ∧ u.rel.ckst = .copy ∧ u.rel.ckpos = 0 ∧ u.spad = s.spad ∧ u.tiles = s.tiles
          ∧ ∀ i : Nat, i < 4 → ∃ r ∈ u.far.reqs, r.owner = .ckpt ∧ r.msg.op = 2 ∧ r.msg.addr = w64 ((s.rel.ckga.toNat + 64 * i) % 2 ^ 62)
              ∧ r.msg.body = ((ckHeader s).drop (64 * i)).take 64)
    ∧ (s.rel.ckst = .copy → s.rel.ckpos = 0 → s.ckReqs = [] → exec .checkpointDone s = .next { s with rel :=
        { s.rel with ckst := .done, ckcrc := BitVec.ofNat 32 (ckCrcOf s), cklen := BitVec.ofNat 24 s.ckTotal } })

/-- DVFS, the C states, the supply monitor, the power microcontroller and the defect record (R195, R417 to R429, R440, R470): a raise sets
the regulator and settles, a lowering relocks first, and the relock advances GTIME by 20 µs (DEDUCED, notes/assumptions/53.md); C3 and C4
are refused with their code or entered once every strand is quiet; a wake clears the HOLD bits of WAKE.STRANDS; two samples below a
threshold warn, whichever command brings them; a record that no sector takes leaves WBST.FAIL.
Commands that end a time check the recorded state only (DEDUCED, notes/assumptions/107.md). -/
def Obligations.PowerStates : Prop :=
  ∀ s : State,
    let w := s.pwr
    let gang := s.tiles.tmu.gang.st
    let stands := gang = .offered ∨ gang = .lent ∨ gang = .master
    (∀ p : BitVec 2, (w.pstate ≠ .c0 → exec (.dvfsWrite p) s = .next s)
      ∧ (w.pstate = .c0 → stands → exec (.dvfsWrite p) s = .next { s with pwr := { w with held := some p } })
      ∧ (¬ stands → s.image.dvfs.getLsbD p.toNat = false ∨ w.dv.isSome = true ∨ p = w.point → exec (.dvfsWrite p) s = .next s)
      ∧ (w.pstate = .c0 → s.image.dvfs.getLsbD p.toNat = true → w.dv = none → p ≠ w.point →
        (¬ stands → w.point < p → s.tiles.tmu.gov.hold = false → ∃ u : State, exec (.dvfsWrite p) s = .next u
            ∧ u.pwr = { w with dvfs := p, dv := some (p, .settle), vset := s.image.setPoint p }
            ∧ u.out = s.out ++ [.vcore (s.image.setPoint p)] ∧ u.core = s.core)
        ∧ (¬ stands → w.point < p → s.tiles.tmu.gov.hold = true →
            exec (.dvfsWrite p) s = .next { s with pwr := { w with dvfs := p, dv := some (p, .holdWait) } })
        ∧ (¬ stands → p < w.point → exec (.dvfsWrite p) s = .next { s with pwr := { w with dvfs := p, dv := some (p, .relock) } })))
    ∧ (∀ p : BitVec 2, w.dv = some (p, .settle) → exec .voltageSettled s = .next { s with pwr := { w with dv := some (p, .relock) } })
    ∧ (∀ p : BitVec 2, w.dv = some (p, .relock) → (passInArray s = true → exec .relock s = .next s)
      ∧ (passInArray s = false → s.telem.en = false → ∃ u : State, exec .relock s = .next u ∧ u.pwr.point = p ∧ u.pwr.dv = none ∧ u.core.cyc = s.core.cyc
          ∧ u.core.gtime = s.core.gtime + 20000 ∧ u.near = s.near ∧ u.strands = s.strands
          ∧ (p < w.point → u.out = s.out ++ [.vcore (s.image.setPoint p)]) ∧ (¬ p < w.point → u.out = s.out))
      ∧ (passInArray s = false → s.telem.en = true → s.clockOn = true → s.telem.mark < (s.core.gtime + 20000).toNat / 100000 →
          ∃ u : State, exec .relock s = .next u ∧ u.pwr.point = p ∧ u.core.gtime = s.core.gtime + 20000 ∧ u.telem.seq = s.telem.seq + 1
            ∧ u.telem.mark = (s.core.gtime + 20000).toNat / 100000))
    ∧ (s.clockOn = true → (∀ k : StrandId, (s.str k).run.st ≠ .running ∧ (s.str k).run.st ≠ .ready) →
        exec .c1Entry s = .next { s with pwr := { w with c1 := true } })
    ∧ (∀ k : StrandId, (s.str k).run.st = .running ∨ (s.str k).run.st = .ready → exec .c1Entry s = .next s)
    ∧ (w.c2en = true → s.clockOn = true → tmuBusy s = false → ¬ stands → ∃ u : State, exec .c2Entry s = .next u ∧ u.tiles.tmu.gated = true
        ∧ u.strands = s.strands ∧ u.near = s.near)
    ∧ (w.c2en = false ∨ tmuBusy s = true ∨ stands → exec .c2Entry s = .next s)
    ∧ (s.tiles.tmu.gated = true → (nextStart s).isSome = true ∨ gang = .lent → ∃ u : State, exec .c2PowerUp s = .next u
        ∧ u.tiles.tmu.gated = false ∧ u.tiles.tmu.gov = { s.tiles.tmu.gov with still := true } ∧ u.strands = s.strands ∧ u.near = s.near)
    ∧ (w.pstate = .c0 → (∀ e : BitVec 8, creqRefusal s = some e →
          exec .creqC3 s = .next { s with pwr := { w with cerr := e } } ∧ exec .creqC4 s = .next { s with pwr := { w with cerr := e } })
      ∧ (∀ k : StrandId, creqRefusal s = none → (s.str k).run.st.quiet = false →
          exec .creqC3 s = .next { s with pwr := { w with creq := some 3 } } ∧ exec .creqC4 s = .next { s with pwr := { w with creq := some 4 } })
      ∧ (creqRefusal s = none → (∀ k : StrandId, (s.str k).run.st.quiet = true) → s.marks = [] → s.queues.hot = [] →
          (∃ u : State, exec .creqC3 s = .next u ∧ u.pwr.pstate = .c3 ∧ u.pwr.clast = 3 ∧ u.pwr.creq = none ∧ u.ms.l1d.lines = [] ∧ u.ms.l2.lines = []
            ∧ u.ms.l1i.lines = [] ∧ u.ms.dtlb = [] ∧ u.ms.itlb = [] ∧ u.ms.l2tlb = [] ∧ u.far.regs.lstate = .down ∧ u.near = s.near
            ∧ u.spad = s.spad ∧ u.strands = s.strands)
          ∧ (∃ u : State, exec .creqC4 s = .next u ∧ u.pwr.pstate = .c4 ∧ u.pwr.clast = 4 ∧ u.pwr.vset = 0
            ∧ OutMsg.vrEn false true ∈ u.out ∧ OutMsg.vrEn false false ∈ u.out)))
    ∧ (w.pstate = .c0 → exec .creqWake s = .next s)
    ∧ (w.pstate = .c3 → (∃ u : State, exec .creqWake s = .next u ∧ u.pwr.pstate = .c0 ∧ u.core.hold = s.core.hold &&& ~~~w.wkStrands
          ∧ (s.hw.farp = true → u.far.regs.lstate = .retrain) ∧ u.near = s.near ∧ u.spad = s.spad
          ∧ (∀ k : StrandId, { u.str k with run := (s.str k).run } = s.str k) ∧ (wakeDue s = true → exec .c3Wake s = .next u))
        ∧ (wakeDue s = false → exec .c3Wake s = .next s))
    ∧ (∀ q : RailSamples, let low := fun (mv : Nat) => mv * 100 < railSet s q.rail * 94
      let reset := fun (mv : Nat) => mv * 10 < railSet s q.rail * 9
      let seen := w.pstate ≠ .c4 ∨ q.rail = .pll
      (seen → ¬ reset q.a ∨ ¬ reset q.b → s.marks = [] → low q.a → low q.b → ∃ u : State, exec (.supplyWarning q) s = .next u
        ∧ exec (.supplyResetThreshold q) s = .next u ∧ u.pwr.vwarn = w.vwarn ||| railBit q.rail ∧ u.pwr.istat.getLsbD 0 = true ∧ u.pwr.hold = true ∧ u.tiles.tmu.gov.hold = true
        ∧ u.pwr.point = w.point ∧ (∀ (p : BitVec 2) (y : DvPh), w.dv = some (p, y) → w.point < p → u.pwr.dv = none))
      ∧ (seen → ¬ reset q.a ∨ ¬ reset q.b → ¬ low q.a ∨ ¬ low q.b → exec (.supplyWarning q) s = .next { s with pwr := w.noted q false }
        ∧ exec (.supplyResetThreshold q) s = .next { s with pwr := w.noted q false })
      ∧ (¬ seen → exec (.supplyWarning q) s = .next s ∧ exec (.supplyResetThreshold q) s = .next s)
      ∧ ∀ y : Bool, (w.noted q y).mv[railIx q.rail] = some (min q.a q.b) ∧ (∀ r : Rail, r ≠ q.rail → (w.noted q y).mv[railIx r] = w.mv[railIx r])
        ∧ (w.noted q y).vwarn = (if y then w.vwarn ||| railBit q.rail else w.vwarn &&& ~~~(railBit q.rail)))
    ∧ (∀ p : BitVec 2, (∀ y : DvPh, w.dv = some (p, y) → railSet s .core = min (s.image.setPoint w.point) (s.image.setPoint p))
      ∧ (w.dv = none → railSet s .core = w.vset) ∧ railSet s .sram = s.hw.vsram.toNat ∧ railSet s .pll = s.hw.vpll.toNat)
    ∧ (let up := ∀ (r : Rail) (v : Nat), w.mv[railIx r] = some v → railSet s r * 94 < v * 100
      (w.hold = false ∨ ¬ up → exec .supplyRecovery s = .next s)
      ∧ (w.hold = true → up → ∃ u : State, exec .supplyRecovery s = .next u ∧ u.pwr.vwarn = w.vwarn ∧ u.pwr.hold = false
        ∧ u.pwr.istat.getLsbD 1 = true ∧ u.pwr.brown = (if w.brown = 0xFFFF then w.brown else w.brown + 1) ∧ u.tiles.tmu.gov.hold = false))
    ∧ exec .pfwFault s = .next { s with pwr := { w with pfw := false, romfw := true } }
    ∧ (let writes := fun (u : State) => u.defrec.valid = true ∧ u.defrec.ways = defWays s ∧ u.defrec.cols = defCols s
          ∧ u.defrec.counts = defCounts s ∧ u.defrec.seq = (if s.defrec.valid then s.defrec.seq + 1 else 1) ∧ u.pwr.wbseq = u.defrec.seq
          ∧ (∀ op : Byte, w.erase = some op → OutMsg.spi op (s.image.dmbase.toNat + 4096 * u.defrec.sect.toNat) [] 0 ∈ u.out)
          ∧ u.near = s.near ∧ u.strands = s.strands
      (w.wbfail = true ∨ w.erase = none ∨ w.pstate ≠ .c0 ∨ w.bstate ≠ 2 → exec .wbNow s = .next s ∧ exec .defectWriteBack s = .next s)
      ∧ (w.wbfail = false → w.erase.isSome = true → w.pstate = .c0 → w.bstate = 2 →
          (∀ i : Nat, i < 16 → 2 ≤ readFails s.serial (s.image.dmbase.toNat + 4096 * i)) →
          ∃ u : State, exec .wbNow s = .next u ∧ u.pwr.wbfail = true ∧ u.defrec = s.defrec ∧ u.near = s.near ∧ u.strands = s.strands)
      ∧ (w.wbfail = false → w.erase.isSome = true → w.pstate = .c0 → w.bstate = 2 → s.serial.faults = [] → (∃ u : State, exec .wbNow s = .next u ∧ writes u)
        ∧ ((defDiffers s || (moltDiffers s && w.inth != 0)) = true → ∃ u : State, exec .defectWriteBack s = .next u ∧ writes u)
        ∧ ((defDiffers s || (moltDiffers s && w.inth != 0)) = false → exec .defectWriteBack s = .next s)))

/-- The resets (R430 to R434, R372, R476, Tables 18-6, 18-7): each leaves its cause in RSTC; strand 0 runs from BOOTVEC at ML; cold reset
loads the configuration image or is FAILED; warm and job reset leave memory, the error records and time; job reset keeps what Table 18-7
keeps, and empties every queue; debug reset holds every strand; a request in C4 has no effect, nor one that meets as strong a reset in
progress, which lasts until the next tick (DESIGN CHOICE, notes/assumptions/145.md); after a failed load no strand runs (DEDUCED,
notes/assumptions/54.md). -/
def Obligations.Resets : Prop :=
  ∀ s : State,
    let w := s.pwr
    let boots := fun (u : State) (at' : Word) => (u.str 0).pc = at' ∧ (u.str 0).run.st = .running ∧ u.core.cur = some 0
      ∧ (∀ k : StrandId, k ≠ 0 → (u.str k).run.st = .stopped)
      ∧ (∀ k : StrandId, (u.str k).status = Status.zero ∧ (u.str k).win = Win.zero ∧ (u.str k).saves.mV = false ∧ (u.str k).loops = [])
      ∧ u.rel.aborted = false ∧ u.rel.frozen = false ∧ u.far.regs.jstate = .unjoined ∧ u.far.reqs = [] ∧ u.tiles.inflight = []
    (∀ (ser : Serial) (e b : Nat), loadImage s.hw ser = .error (e, b) → ∃ u : State, exec (.coldReset ser) s = .next u ∧ u.pwr.bstate = 3
        ∧ u.pwr.berr = BitVec.ofNat 8 e ∧ u.pwr.bblock = BitVec.ofNat 8 b ∧ u.pwr.rstc = 1 ∧ u.core.cur = none ∧ u.near = s.home)
    ∧ (∀ (ser : Serial) (i : Image) (runs : Bool), loadImage s.hw ser = .ok (i, runs) → ∃ u : State, exec (.coldReset ser) s = .next u
        ∧ boots u i.bootvec ∧ u.pwr.bstate = 2 ∧ u.pwr.rstc = 1 ∧ u.pwr.brown = 0 ∧ u.pwr.pfw = runs ∧ u.image = i ∧ u.far.regs.node = i.node
        ∧ u.core.cyc = 0 ∧ u.core.gtime = 0 ∧ u.spad = [] ∧ u.near = s.home ∧ u.ms.l2.lines = [] ∧ u.hw = s.hw ∧ u.pending = s.pending
        ∧ u.pwr.point = 0b10 ∧ u.feat = featOf s.hw (feat7Of i)
        ∧ (s.hw.farp = true → s.far.link.linkup = true → u.far.regs.lstate = .retrain ∧ u.far.link.retrain = true))
    ∧ (w.pstate = .c0 → w.rst = none → w.warmDue = none → nearQuiet s = false →
        ∀ i ∈ [Instr.warmReset, .resetRequestInput .warm, .rstreqWarm], exec i s = .next { s with pwr := { w with warmDue := some 4 } })
    ∧ (w.warmDue.isSome = true → ∀ i ∈ [Instr.warmReset, .jobReset, .debugReset, .rstreqWarm, .rstreqJob, .rstreqDebug], exec i s = .next s)
    ∧ (w.pstate = .c0 → w.bstate = 2 → w.rst = none → w.warmDue = none → nearQuiet s = true →
        ∀ i ∈ [Instr.warmReset, .resetRequestInput .warm, .rstreqWarm], ∃ u : State, exec i s = .next u
        ∧ boots u s.shadow.bootvec ∧ u.pwr.rstc = 4 ∧ u.image = s.shadow ∧ u.near = s.near ∧ u.spad = s.spad ∧ u.core.cyc = s.core.cyc
        ∧ u.core.gtime = s.core.gtime ∧ u.core.edtb = 0 ∧ u.core.prof = 0b11 ∧ u.rel.crec = s.rel.crec ∧ u.rel.frec = s.rel.frec
        ∧ u.rel.abst = s.rel.abst ∧ u.queues.hot = [] ∧ u.defrec = s.defrec ∧ u.pwr.brown = w.brown ∧ u.hw = s.hw)
    ∧ (∀ r : ResetKind, w.rst = some r → r ≠ .debug → ∀ i ∈ [Instr.jobReset, .debugReset, .rstreqJob, .rstreqDebug], exec i s = .next s)
    ∧ (∀ n : Nat, w.pstate = .c0 → w.rst = none → w.warmDue = none → s.queues.hot = [] → s.queues.qtb ≠ 0 → tableQueues s = [n] → s.marks = [] →
        Memory.wf s.near = true → (qdescOf n (s.near.getN (s.qAddr n) 64)).v = true →
      let d := qdescOf n (s.near.getN (s.qAddr n) 64)
      ∃ u : State, exec .jobReset s = .next u ∧ u.near.getLE (s.qAddr n + 24) 4 = d.tail.toNat ∧ u.near.getLE (s.qAddr n + 28) 4 = d.tail.toNat
        ∧ u.near.getLE (s.qAddr n + 33) 3 = 0 ∧ u.near.getLE (s.qAddr n + 36) 4 = d.tail.toNat)
    ∧ (w.pstate = .c0 → w.bstate ≠ 2 → w.rst = none → w.warmDue = none → s.queues.hot = [] → tableQueues s = [] → w.held = none →
        ∃ u : State, exec .jobReset s = .next u ∧ u.pwr.rstc = 6 ∧ u.core.cur = none ∧ u.near = s.near ∧ ∀ k : StrandId, (u.str k).run.st = .stopped)
    ∧ (w.pstate = .c0 → w.bstate = 2 → w.rst = none → w.warmDue = none → s.queues.hot = [] → tableQueues s = [] → w.held = none →
        ∀ i ∈ [Instr.jobReset, .resetRequestInput .job, .rstreqJob], ∃ u : State, exec i s = .next u
        ∧ boots u s.image.bootvec ∧ u.pwr.rstc = 6 ∧ u.near = s.near ∧ u.spad = s.spad ∧ u.core.cyc = s.core.cyc ∧ u.core.gtime = s.core.gtime
        ∧ u.core.edtb = s.core.edtb ∧ u.far.regs.epoch = 0 ∧ u.far.link = s.far.link ∧ u.rel.crec = s.rel.crec ∧ u.rel.frec = s.rel.frec
        ∧ u.rel.abst = s.rel.abst ∧ (∀ n : Fin 4, (u.weevils[n]).st = .idle) ∧ u.ms.dtlb = [] ∧ u.ms.l2 = s.ms.l2
        ∧ (∀ k : StrandId, (u.str k).num.tshape = (s.str k).num.tshape ∧ (u.str k).num.xpass = (s.str k).num.xpass
            ∧ (∀ y : Lvl, (u.ctxOf { k := k, lv := y }).st = .none ∧ (u.chainOf { k := k, lv := y }).st = .idle)))
    ∧ (w.pstate = .c0 → w.rst = none → w.warmDue = none → ∀ i ∈ [Instr.debugReset, .resetRequestInput .debug, .rstreqDebug], ∃ u : State, exec i s = .next u
        ∧ u.pwr.rstc = 8 ∧ u.core.hold = 0b1111 ∧ u.near = s.near ∧ u.spad = s.spad ∧ u.tiles = s.tiles ∧ u.far = s.far ∧ u.ms = s.ms
        ∧ ∀ k : StrandId, (u.str k).run.retBuf = none ∧ { u.str k with run := (s.str k).run } = s.str k
          ∧ ((s.str k).run.st ≠ .stopped → (u.str k).run.st = .held))
    ∧ (w.pstate = .c4 → ∀ i ∈ [Instr.warmReset, .jobReset, .debugReset], exec i s = .next s)
    ∧ (w.pstate ≠ .c0 → ∀ i ∈ [Instr.rstreqWarm, .rstreqJob, .rstreqDebug], exec i s = .next s)
    ∧ (w.rst ≠ some .cold → ∃ u : State, exec (.resetRequestInput .cold) s = .next u ∧ u.pwr.rstc = (if w.pstate = .c4 then 7 else 2)
        ∧ u.near = s.home ∧ u.core.cyc = 0)
    ∧ (∀ q : RailSamples, let low := fun (mv : Nat) => mv * 10 < railSet s q.rail * 9
      w.pstate = .c0 → w.rst = none → w.warmDue = none → low q.a → low q.b →
        ∃ u : State, exec (.supplyResetThreshold q) s = .next u ∧ exec (.supplyWarning q) s = .next u
        ∧ u.pwr.srst = (if w.srst = 0xFFFF then w.srst else w.srst + 1)
        ∧ (q.rail = .sram → u.pwr.rstc = 3 ∧ u.near = s.home)
        ∧ (q.rail ≠ .sram → w.bstate = 2 → nearQuiet s = true → u.pwr.rstc = 5 ∧ boots u s.shadow.bootvec ∧ u.near = s.near)
        ∧ (q.rail ≠ .sram → w.bstate = 2 → nearQuiet s = false → u.pwr.warmDue = some 5 ∧ u.rel.aborted = true ∧ u.near = s.near))

/-- The register block's commands (R8, R44, R57, R75, R444 to R461): accesses that no register answers; registers of several pages written
and read back; an access that meets a reset in progress, or others that wait, waits (DESIGN CHOICE, notes/assumptions/145.md); semaphores,
doorbells, time latches, trace records, telemetry, die lines, strand timers, TCMP, SWSET, HOLD and STRDBG. -/
def Obligations.RegisterBlock : Prop :=
  ∀ (s : State) (q : Req) (v : BitVec 32), s.clockOn = true → (q = .tap → s.image.debug = true) →
    (s.accWaits = true → ∀ off : BitVec 18, (∀ k : StrandId, q ≠ .strand k) → ∃ u : State, exec (.registerWrite q off v) s = .next u
      ∧ u.mgmt = { s.mgmt with wait := s.mgmt.wait ++ [{ req := q, we := true, off := off.toNat, v := v.toNat }] }
      ∧ u = { s with mgmt := u.mgmt, tap := u.tap })
    ∧ (s.accWaits = false →
    let m := s.mgmt
    let quiet := fun (u : State) => u.near = s.near ∧ u.spad = s.spad ∧ u.strands = s.strands ∧ u.far = s.far ∧ u.tiles = s.tiles
    (∀ off : BitVec 18, off.toNat % 4 ≠ 0 ∨ 0x17 ≤ bits off.toNat 17 12 → exec (.registerWrite q off v) s = .next (servedBy q s))
    ∧ (∀ n : Fin 8, ∃ u : State, exec (.registerWrite q (BitVec.ofNat 18 (0x80 + 4 * n.val)) v) s = .next u ∧ u.mgmt.mbox[n] = v ∧ quiet u
        ∧ (∀ j : Fin 8, j ≠ n → u.mgmt.mbox[j] = m.mbox[j]))
    ∧ (∀ (n : Fin 8) (port : Bool), exec (.mgmtPortAccess port false (BitVec.ofNat 18 (0x80 + 4 * n.val)) v) s
          = .next { s with mgmt := { m with rdata := m.mbox[n], lastB := port } })
    ∧ (∀ (n : Fin 8) (port : Bool), ∃ u : State, exec (.mgmtPortAccess port true (BitVec.ofNat 18 (0x80 + 4 * n.val)) v) s = .next u
          ∧ u.mgmt.mbox[n] = v ∧ u.mgmt.lastB = port ∧ u.mgmt.rdata = m.rdata ∧ quiet u)
    ∧ exec (.registerWrite q 0x10050 v) s = .next (servedBy q { s with far := { s.far with regs := { s.far.regs with jepoch := v } } })
    ∧ exec (.registerWrite q 0x12040 v) s = .next (servedBy q { s with rel := { s.rel with cethr := BitVec.ofNat 16 (v.toNat / 2 ^ 16) } })
    ∧ exec (.registerWrite q 0x14040 v) s = .next (servedBy q { s with telem := { s.telem with qnum := BitVec.ofNat 20 v.toNat } })
    ∧ exec (.registerWrite q 0x1500C v) s = .next (servedBy q { s with trace := { s.trace with
        en := v.getLsbD 0, kinds := BitVec.ofNat 4 (v.toNat / 2 ^ 4), strands := BitVec.ofNat 4 (v.toNat / 2 ^ 8) } })
    ∧ (∀ (n : BitVec 5), let sem := m.sem.getD n.toNat none
      (sem = none → ∃ u : State, exec (.semRead .portA n) s = .next u ∧ u.mgmt.sem.getD n.toNat none = some .portA
          ∧ u.mgmt.rdata = w32 (2 ^ 31 + 1) ∧ quiet u)
      ∧ (sem = none → ∃ u : State, exec (.semRead .near n) s = .next u ∧ u.mgmt.sem.getD n.toNat none = some .near
          ∧ u.out = s.out ++ [.regData (w32 (2 ^ 31 + reqCode .near))] ∧ quiet u)
      ∧ (∀ h : Req, sem = some h → ∃ u : State, exec (.semRead .portA n) s = .next u ∧ u.mgmt.sem = m.sem
          ∧ u.mgmt.rdata = w32 ((if h = .portA then 2 ^ 31 else 0) + reqCode h) ∧ quiet u)
      ∧ ((sem = some q ∧ v.getLsbD 0 = true) ∨ ((q = .portA ∨ q = .portB) ∧ v.getLsbD 31 = true) →
          ∃ u : State, exec (.semWrite q n v) s = .next u ∧ u.mgmt.sem.getD n.toNat none = none ∧ quiet u)
      ∧ (sem ≠ some q → q ≠ .portA → q ≠ .portB → exec (.semWrite q n v) s = .next (servedBy q s)))
    ∧ (∃ u : State, exec (.dbin v) s = .next u ∧ u.mgmt.dbin = true ∧ u.mgmt.dbval = v
        ∧ u.mgmt.dbcnt = (if m.dbcnt = 0xFF then 0xFF else m.dbcnt + 1) ∧ u.near = s.near
        ∧ ∀ k : StrandId, { u.str k with run := (s.str k).run } = s.str k)
    ∧ exec (.dbout v) s = .next { s with mgmt := { m with dbout := v, outPend := true } }
    ∧ (∃ u : State, exec (.cycloRead .portA) s = .next u ∧ u.mgmt.rdata = w32 s.core.cyc.toNat ∧ u.mgmt.cycLatch[0] = s.core.cyc ∧ quiet u)
    ∧ (∃ u : State, exec (.gtloRead .portB) s = .next u ∧ u.mgmt.rdata = w32 s.core.gtime.toNat ∧ u.mgmt.gtLatch[1] = s.core.gtime ∧ quiet u)
    ∧ (s.telem.en = false ∨ s.core.gtime.toNat / 100000 ≤ s.telem.mark → exec .telemetrySample s = .next s)
    ∧ (s.telem.en = true → s.telem.mark < s.core.gtime.toNat / 100000 → ∃ u : State, exec .telemetrySample s = .next u
        ∧ u.telem.seq = s.telem.seq + 1 ∧ u.telem.mark = s.core.gtime.toNat / 100000)
    ∧ (s.trace.kinds.getLsbD 3 = false → exec (.mark q v) s = .next (servedBy q s))
    ∧ (∀ k : StrandId, s.trace.kinds.getLsbD 3 = true → s.trace.fifo.length < 256 →
        ∃ (u : State) (r : Vector Word32 4), exec (.mark (.strand k) v) s = .next u ∧ u.trace.fifo = s.trace.fifo ++ [r] ∧ r[2] = v
          ∧ bits (r[0]).toNat 31 28 = 5 ∧ bits (r[0]).toNat 27 26 = k.val ∧ r[1] = w32 s.core.gtime.toNat ∧ u.trace.dropped = 0 ∧ quiet u)
    ∧ exec .pop s = .next { s with trace := { s.trace with fifo := s.trace.fifo.drop 1 } }
    ∧ (∀ vec : BitVec 8, (vec.toNat < 0x80 → exec (.swset vec) s = .next s)
        ∧ (0x80 ≤ vec.toNat → ∃ u : State, exec (.swset vec) s = .next u ∧ (u.vcfg vec.toNat).pend = true ∧ u.near = s.near))
    ∧ (∀ (n : StrandId) (hi : Bool), ∃ u : State, exec (.tcmpWrite n hi v) s = .next u ∧ u.intu.armed[n] = true ∧ quiet u
        ∧ u.intu.tcmp[n] = (if hi then v ++ (s.intu.tcmp[n]).setWidth 32 else ((s.intu.tcmp[n]) >>> 32).setWidth 32 ++ v))
    ∧ (∀ (h : BitVec 4) (k : StrandId), s.pwr.creq = none → (∀ j : StrandId, (s.str j).run.dbgPend = Pend.none) → ∃ u : State, exec (.holdWrite h) s = .next u ∧ u.core.hold = h ∧ u.near = s.near
        ∧ (h.getLsbD k.val = true → s.core.hold.getLsbD k.val = false → (s.str k).run.st ≠ .stopped →
            ¬ (s.core.cur = some k ∧ (nextEvent s k).isSome = true) → (u.str k).run.st = .held)
        ∧ (h.getLsbD k.val = true → s.core.cur = some k → (nextEvent s k).isSome = true → (s.str k).run.st = .running →
            (u.str k).run.st = .running)
        ∧ (h.getLsbD k.val = false → s.core.hold.getLsbD k.val = true → (s.str k).run.st = .stopped → (u.str k).run.st = .ready)
        ∧ ∀ j : StrandId, { u.str j with run := (s.str j).run } = s.str j)
    ∧ (∀ (hi : Bool) (k : StrandId) (cls idx : Nat) (x : Word), strdbgOpen s .portA = true → bits s.strdbg.sel.toNat 31 30 = k.val →
        bits s.strdbg.sel.toNat 29 24 = cls → bits s.strdbg.sel.toNat 23 0 = idx →
      ((s.str k).run.st ≠ .held → exec (.strdbgAccess .portA true hi v) s = .next { s with strdbg := { s.strdbg with derr := true }, mgmt := { m with lastB := false } })
      ∧ ((s.str k).run.st = .held → dbgRead s k cls idx = some x → exec (.strdbgAccess .portA false hi v) s
          = .next { s with mgmt := { m with rdata := if hi then (x >>> 32).setWidth 32 else x.setWidth 32, lastB := false } })
      ∧ ((s.str k).run.st = .held → cls = 4 → idx < 32 → ∃ u : State, exec (.strdbgAccess .portA true hi v) s = .next u
          ∧ (u.str k).regs.f.getD idx 0 = (if hi then v ++ ((s.str k).regs.f.getD idx 0).setWidth 32 else (((s.str k).regs.f.getD idx 0) >>> 32).setWidth 32 ++ v)
          ∧ u.near = s.near ∧ u.strdbg = s.strdbg))
    ∧ (∀ (n : BitVec 5) (level : Bool), ∃ u : State, exec (.dieInterruptLine n level) s = .next u ∧ u.intu.lines.getLsbD n.toNat = level
        ∧ (∀ j : Nat, j ≠ n.toNat → u.intu.lines.getLsbD j = s.intu.lines.getLsbD j) ∧ u.near = s.near
        ∧ ∀ k : StrandId, { u.str k with run := (s.str k).run } = s.str k)
    ∧ (∀ n : StrandId, let c := s.intu.tcmp[n]
      (s.intu.armed[n] = false ∨ c = 0 ∨ s.core.gtime < c → exec (.strandTimer n) s = .next s)
      ∧ (s.intu.armed[n] = true → c ≠ 0 → c ≤ s.core.gtime → ∃ u : State, exec (.strandTimer n) s = .next u ∧ u.intu.armed[n] = false
          ∧ (u.vcfg (0x40 + n.val)).pend = true ∧ u.intu.tcmp = s.intu.tcmp ∧ u.near = s.near)))

/-- The test access port (R462, R463, Table 19-12): UPDATE_IR selects a data register, an undefined code BYPASS; TRST_N selects IDCODE
(PRESUMED, IEEE 1149.1: notes/assumptions/57.md); each data register acts only while it is selected; REGACC reaches the register block in a
debug image only, and not while the access before it has not been performed.
That a scan acts only while its instruction is selected is the model's command form (DESIGN CHOICE, notes/assumptions/115.md). -/
def Obligations.TestAccessPort : Prop :=
  ∀ (s : State) (b : Bool) (dr : BitVec 51) (code : BitVec 8),
    let t := s.tap
    exec (.updateIr code) s = .next { s with tap :=
        { t with st := .updateIr, irOut := 0x01, ir := if code = 0x01 ∨ code = 0x10 ∨ code = 0x11 ∨ code = 0x12 then code else 0xFF } }
    ∧ exec .trstN s = .next { s with tap := { t with st := .testLogicReset, ir := 0x01 } }
    ∧ (t.ir ≠ 0x01 → exec .idcode s = .next s) ∧ (t.ir ≠ 0x10 → exec (.regacc dr) s = .next s) ∧ (t.ir ≠ 0x11 → exec (.dbgrst b) s = .next s)
    ∧ (t.ir ≠ 0x12 → exec .tstat s = .next s) ∧ (t.ir ≠ 0xFF → exec (.bypass b) s = .next s)
    ∧ (t.ir = 0x01 → ∃ u : State, exec .idcode s = .next u ∧ u = { s with tap := u.tap } ∧ bits u.tap.dr.toNat 31 28 = s.hw.stepping.toNat % 16
        ∧ bits u.tap.dr.toNat 27 12 = 0xE3 ∧ bits u.tap.dr.toNat 11 1 = s.hw.tapMfr.toNat ∧ u.tap.dr.getLsbD 0 = true)
    ∧ (t.ir = 0x12 → ∃ u : State, exec .tstat s = .next u ∧ u = { s with tap := u.tap } ∧ u.tap.dr.getLsbD 7 = s.image.debug
        ∧ u.tap.dr.getLsbD 6 = s.rel.frozen ∧ u.tap.dr.getLsbD 5 = s.rel.aborted ∧ u.tap.dr.getLsbD 4 = s.rel.halted
        ∧ bits u.tap.dr.toNat 2 0 = s.pwr.bstate.toNat)
    ∧ (t.ir = 0xFF → exec (.bypass b) s = .next { s with tap := { t with st := .updateDr, dr := 0, bypass := b } })
    ∧ (t.ir = 0x11 → exec (.dbgrst false) s = .next { s with tap := { t with st := .updateDr, dr := 0 } }
        ∧ (s.clockOn = true → s.pwr.rst = none → s.pwr.warmDue = none → ∃ u : State, exec (.dbgrst true) s = .next u ∧ u.core.hold = 0b1111 ∧ u.pwr.rstc = 8 ∧ u.near = s.near))
    ∧ (t.ir = 0x10 → t.dataDone = false → exec (.regacc dr) s = .next { s with tap := { t with st := .updateDr, dr := regaccCapture t } })
    ∧ (t.ir = 0x10 → t.dataDone = true → s.image.debug = false → ∃ u : State, exec (.regacc dr) s = .next u ∧ u.tap.denied = true ∧ u.tap.rdata = 0
        ∧ u = { s with tap := u.tap })
    ∧ (∀ n : Fin 8, t.ir = 0x10 → t.dataDone = true → s.image.debug = true → s.clockOn = true → s.accWaits = false → bits dr.toNat 49 34 = 0x20 + n.val →
        (dr.getLsbD 50 = true → ∃ u : State, exec (.regacc dr) s = .next u ∧ (u.mgmt.mbox[n]).toNat = bits dr.toNat 33 2 ∧ u.tap.denied = false
            ∧ u.near = s.near ∧ u.strands = s.strands)
        ∧ (dr.getLsbD 50 = false → ∃ u : State, exec (.regacc dr) s = .next u ∧ u = { s with tap := u.tap } ∧ u.tap.rdata = s.mgmt.mbox[n]
            ∧ u.tap.denied = false ∧ u.tap.dr = regaccCapture t))
end

