-- ==== Sys2Proof/Laws/State.lean ====
section
/-! SUPPORT. What each update of State leaves of each field: one lemma per field per update, all by rfl. -/

namespace Sys2Proof.Machine

open Sys2Proof


/-! ### State.modStr -/

@[simp] theorem State.modStr_hw (s : State) (k : StrandId) (f : Strand → Strand) : (s.modStr k f).hw = s.hw := rfl
@[simp] theorem State.modStr_feat (s : State) (k : StrandId) (f : Strand → Strand) : (s.modStr k f).feat = s.feat := rfl
@[simp] theorem State.modStr_core (s : State) (k : StrandId) (f : Strand → Strand) : (s.modStr k f).core = s.core := rfl
@[simp] theorem State.modStr_strands (s : State) (k : StrandId) (f : Strand → Strand) : (s.modStr k f).strands = vmod s.strands k f := rfl
@[simp] theorem State.modStr_near (s : State) (k : StrandId) (f : Strand → Strand) : (s.modStr k f).near = s.near := rfl
@[simp] theorem State.modStr_home (s : State) (k : StrandId) (f : Strand → Strand) : (s.modStr k f).home = s.home := rfl
@[simp] theorem State.modStr_spad (s : State) (k : StrandId) (f : Strand → Strand) : (s.modStr k f).spad = s.spad := rfl
@[simp] theorem State.modStr_tiles (s : State) (k : StrandId) (f : Strand → Strand) : (s.modStr k f).tiles = s.tiles := rfl
@[simp] theorem State.modStr_weevils (s : State) (k : StrandId) (f : Strand → Strand) : (s.modStr k f).weevils = s.weevils := rfl
@[simp] theorem State.modStr_ms (s : State) (k : StrandId) (f : Strand → Strand) : (s.modStr k f).ms = s.ms := rfl
@[simp] theorem State.modStr_far (s : State) (k : StrandId) (f : Strand → Strand) : (s.modStr k f).far = s.far := rfl
@[simp] theorem State.modStr_queues (s : State) (k : StrandId) (f : Strand → Strand) : (s.modStr k f).queues = s.queues := rfl
@[simp] theorem State.modStr_intu (s : State) (k : StrandId) (f : Strand → Strand) : (s.modStr k f).intu = s.intu := rfl
@[simp] theorem State.modStr_rel (s : State) (k : StrandId) (f : Strand → Strand) : (s.modStr k f).rel = s.rel := rfl
@[simp] theorem State.modStr_marks (s : State) (k : StrandId) (f : Strand → Strand) : (s.modStr k f).marks = s.marks := rfl
@[simp] theorem State.modStr_pwr (s : State) (k : StrandId) (f : Strand → Strand) : (s.modStr k f).pwr = s.pwr := rfl
@[simp] theorem State.modStr_image (s : State) (k : StrandId) (f : Strand → Strand) : (s.modStr k f).image = s.image := rfl
@[simp] theorem State.modStr_shadow (s : State) (k : StrandId) (f : Strand → Strand) : (s.modStr k f).shadow = s.shadow := rfl
@[simp] theorem State.modStr_defrec (s : State) (k : StrandId) (f : Strand → Strand) : (s.modStr k f).defrec = s.defrec := rfl
@[simp] theorem State.modStr_serial (s : State) (k : StrandId) (f : Strand → Strand) : (s.modStr k f).serial = s.serial := rfl
@[simp] theorem State.modStr_mgmt (s : State) (k : StrandId) (f : Strand → Strand) : (s.modStr k f).mgmt = s.mgmt := rfl
@[simp] theorem State.modStr_strdbg (s : State) (k : StrandId) (f : Strand → Strand) : (s.modStr k f).strdbg = s.strdbg := rfl
@[simp] theorem State.modStr_telem (s : State) (k : StrandId) (f : Strand → Strand) : (s.modStr k f).telem = s.telem := rfl
@[simp] theorem State.modStr_trace (s : State) (k : StrandId) (f : Strand → Strand) : (s.modStr k f).trace = s.trace := rfl
@[simp] theorem State.modStr_tap (s : State) (k : StrandId) (f : Strand → Strand) : (s.modStr k f).tap = s.tap := rfl
@[simp] theorem State.modStr_free (s : State) (k : StrandId) (f : Strand → Strand) : (s.modStr k f).free = s.free := rfl
@[simp] theorem State.modStr_out (s : State) (k : StrandId) (f : Strand → Strand) : (s.modStr k f).out = s.out := rfl
@[simp] theorem State.modStr_pending (s : State) (k : StrandId) (f : Strand → Strand) : (s.modStr k f).pending = s.pending := rfl
@[simp] theorem State.modStr_fetching (s : State) (k : StrandId) (f : Strand → Strand) : (s.modStr k f).fetching = s.fetching := rfl

/-! ### State.modRun -/

@[simp] theorem State.modRun_hw (s : State) (k : StrandId) (f : RunInfo → RunInfo) : (s.modRun k f).hw = s.hw := rfl
@[simp] theorem State.modRun_feat (s : State) (k : StrandId) (f : RunInfo → RunInfo) : (s.modRun k f).feat = s.feat := rfl
@[simp] theorem State.modRun_core (s : State) (k : StrandId) (f : RunInfo → RunInfo) : (s.modRun k f).core = s.core := rfl
@[simp] theorem State.modRun_strands (s : State) (k : StrandId) (f : RunInfo → RunInfo) : (s.modRun k f).strands = vmod s.strands k (fun t => { t with run := f t.run }) := rfl
@[simp] theorem State.modRun_near (s : State) (k : StrandId) (f : RunInfo → RunInfo) : (s.modRun k f).near = s.near := rfl
@[simp] theorem State.modRun_home (s : State) (k : StrandId) (f : RunInfo → RunInfo) : (s.modRun k f).home = s.home := rfl
@[simp] theorem State.modRun_spad (s : State) (k : StrandId) (f : RunInfo → RunInfo) : (s.modRun k f).spad = s.spad := rfl
@[simp] theorem State.modRun_tiles (s : State) (k : StrandId) (f : RunInfo → RunInfo) : (s.modRun k f).tiles = s.tiles := rfl
@[simp] theorem State.modRun_weevils (s : State) (k : StrandId) (f : RunInfo → RunInfo) : (s.modRun k f).weevils = s.weevils := rfl
@[simp] theorem State.modRun_ms (s : State) (k : StrandId) (f : RunInfo → RunInfo) : (s.modRun k f).ms = s.ms := rfl
@[simp] theorem State.modRun_far (s : State) (k : StrandId) (f : RunInfo → RunInfo) : (s.modRun k f).far = s.far := rfl
@[simp] theorem State.modRun_queues (s : State) (k : StrandId) (f : RunInfo → RunInfo) : (s.modRun k f).queues = s.queues := rfl
@[simp] theorem State.modRun_intu (s : State) (k : StrandId) (f : RunInfo → RunInfo) : (s.modRun k f).intu = s.intu := rfl
@[simp] theorem State.modRun_rel (s : State) (k : StrandId) (f : RunInfo → RunInfo) : (s.modRun k f).rel = s.rel := rfl
@[simp] theorem State.modRun_marks (s : State) (k : StrandId) (f : RunInfo → RunInfo) : (s.modRun k f).marks = s.marks := rfl
@[simp] theorem State.modRun_pwr (s : State) (k : StrandId) (f : RunInfo → RunInfo) : (s.modRun k f).pwr = s.pwr := rfl
@[simp] theorem State.modRun_image (s : State) (k : StrandId) (f : RunInfo → RunInfo) : (s.modRun k f).image = s.image := rfl
@[simp] theorem State.modRun_shadow (s : State) (k : StrandId) (f : RunInfo → RunInfo) : (s.modRun k f).shadow = s.shadow := rfl
@[simp] theorem State.modRun_defrec (s : State) (k : StrandId) (f : RunInfo → RunInfo) : (s.modRun k f).defrec = s.defrec := rfl
@[simp] theorem State.modRun_serial (s : State) (k : StrandId) (f : RunInfo → RunInfo) : (s.modRun k f).serial = s.serial := rfl
@[simp] theorem State.modRun_mgmt (s : State) (k : StrandId) (f : RunInfo → RunInfo) : (s.modRun k f).mgmt = s.mgmt := rfl
@[simp] theorem State.modRun_strdbg (s : State) (k : StrandId) (f : RunInfo → RunInfo) : (s.modRun k f).strdbg = s.strdbg := rfl
@[simp] theorem State.modRun_telem (s : State) (k : StrandId) (f : RunInfo → RunInfo) : (s.modRun k f).telem = s.telem := rfl
@[simp] theorem State.modRun_trace (s : State) (k : StrandId) (f : RunInfo → RunInfo) : (s.modRun k f).trace = s.trace := rfl
@[simp] theorem State.modRun_tap (s : State) (k : StrandId) (f : RunInfo → RunInfo) : (s.modRun k f).tap = s.tap := rfl
@[simp] theorem State.modRun_free (s : State) (k : StrandId) (f : RunInfo → RunInfo) : (s.modRun k f).free = s.free := rfl
@[simp] theorem State.modRun_out (s : State) (k : StrandId) (f : RunInfo → RunInfo) : (s.modRun k f).out = s.out := rfl
@[simp] theorem State.modRun_pending (s : State) (k : StrandId) (f : RunInfo → RunInfo) : (s.modRun k f).pending = s.pending := rfl
@[simp] theorem State.modRun_fetching (s : State) (k : StrandId) (f : RunInfo → RunInfo) : (s.modRun k f).fetching = s.fetching := rfl

/-! ### State.modCtx -/

@[simp] theorem State.modCtx_hw (s : State) (c : CtxId) (f : Ctx → Ctx) : (s.modCtx c f).hw = s.hw := rfl
@[simp] theorem State.modCtx_feat (s : State) (c : CtxId) (f : Ctx → Ctx) : (s.modCtx c f).feat = s.feat := rfl
@[simp] theorem State.modCtx_core (s : State) (c : CtxId) (f : Ctx → Ctx) : (s.modCtx c f).core = s.core := rfl
@[simp] theorem State.modCtx_near (s : State) (c : CtxId) (f : Ctx → Ctx) : (s.modCtx c f).near = s.near := rfl
@[simp] theorem State.modCtx_home (s : State) (c : CtxId) (f : Ctx → Ctx) : (s.modCtx c f).home = s.home := rfl
@[simp] theorem State.modCtx_spad (s : State) (c : CtxId) (f : Ctx → Ctx) : (s.modCtx c f).spad = s.spad := rfl
@[simp] theorem State.modCtx_tiles (s : State) (c : CtxId) (f : Ctx → Ctx) : (s.modCtx c f).tiles = s.tiles := rfl
@[simp] theorem State.modCtx_weevils (s : State) (c : CtxId) (f : Ctx → Ctx) : (s.modCtx c f).weevils = s.weevils := rfl
@[simp] theorem State.modCtx_ms (s : State) (c : CtxId) (f : Ctx → Ctx) : (s.modCtx c f).ms = s.ms := rfl
@[simp] theorem State.modCtx_far (s : State) (c : CtxId) (f : Ctx → Ctx) : (s.modCtx c f).far = s.far := rfl
@[simp] theorem State.modCtx_queues (s : State) (c : CtxId) (f : Ctx → Ctx) : (s.modCtx c f).queues = s.queues := rfl
@[simp] theorem State.modCtx_intu (s : State) (c : CtxId) (f : Ctx → Ctx) : (s.modCtx c f).intu = s.intu := rfl
@[simp] theorem State.modCtx_rel (s : State) (c : CtxId) (f : Ctx → Ctx) : (s.modCtx c f).rel = s.rel := rfl
@[simp] theorem State.modCtx_marks (s : State) (c : CtxId) (f : Ctx → Ctx) : (s.modCtx c f).marks = s.marks := rfl
@[simp] theorem State.modCtx_pwr (s : State) (c : CtxId) (f : Ctx → Ctx) : (s.modCtx c f).pwr = s.pwr := rfl
@[simp] theorem State.modCtx_image (s : State) (c : CtxId) (f : Ctx → Ctx) : (s.modCtx c f).image = s.image := rfl
@[simp] theorem State.modCtx_shadow (s : State) (c : CtxId) (f : Ctx → Ctx) : (s.modCtx c f).shadow = s.shadow := rfl
@[simp] theorem State.modCtx_defrec (s : State) (c : CtxId) (f : Ctx → Ctx) : (s.modCtx c f).defrec = s.defrec := rfl
@[simp] theorem State.modCtx_serial (s : State) (c : CtxId) (f : Ctx → Ctx) : (s.modCtx c f).serial = s.serial := rfl
@[simp] theorem State.modCtx_mgmt (s : State) (c : CtxId) (f : Ctx → Ctx) : (s.modCtx c f).mgmt = s.mgmt := rfl
@[simp] theorem State.modCtx_strdbg (s : State) (c : CtxId) (f : Ctx → Ctx) : (s.modCtx c f).strdbg = s.strdbg := rfl
@[simp] theorem State.modCtx_telem (s : State) (c : CtxId) (f : Ctx → Ctx) : (s.modCtx c f).telem = s.telem := rfl
@[simp] theorem State.modCtx_trace (s : State) (c : CtxId) (f : Ctx → Ctx) : (s.modCtx c f).trace = s.trace := rfl
@[simp] theorem State.modCtx_tap (s : State) (c : CtxId) (f : Ctx → Ctx) : (s.modCtx c f).tap = s.tap := rfl
@[simp] theorem State.modCtx_free (s : State) (c : CtxId) (f : Ctx → Ctx) : (s.modCtx c f).free = s.free := rfl
@[simp] theorem State.modCtx_out (s : State) (c : CtxId) (f : Ctx → Ctx) : (s.modCtx c f).out = s.out := rfl
@[simp] theorem State.modCtx_pending (s : State) (c : CtxId) (f : Ctx → Ctx) : (s.modCtx c f).pending = s.pending := rfl
@[simp] theorem State.modCtx_fetching (s : State) (c : CtxId) (f : Ctx → Ctx) : (s.modCtx c f).fetching = s.fetching := rfl

/-! ### State.modChain -/

@[simp] theorem State.modChain_hw (s : State) (c : CtxId) (f : Chain → Chain) : (s.modChain c f).hw = s.hw := rfl
@[simp] theorem State.modChain_feat (s : State) (c : CtxId) (f : Chain → Chain) : (s.modChain c f).feat = s.feat := rfl
@[simp] theorem State.modChain_core (s : State) (c : CtxId) (f : Chain → Chain) : (s.modChain c f).core = s.core := rfl
@[simp] theorem State.modChain_near (s : State) (c : CtxId) (f : Chain → Chain) : (s.modChain c f).near = s.near := rfl
@[simp] theorem State.modChain_home (s : State) (c : CtxId) (f : Chain → Chain) : (s.modChain c f).home = s.home := rfl
@[simp] theorem State.modChain_spad (s : State) (c : CtxId) (f : Chain → Chain) : (s.modChain c f).spad = s.spad := rfl
@[simp] theorem State.modChain_tiles (s : State) (c : CtxId) (f : Chain → Chain) : (s.modChain c f).tiles = s.tiles := rfl
@[simp] theorem State.modChain_weevils (s : State) (c : CtxId) (f : Chain → Chain) : (s.modChain c f).weevils = s.weevils := rfl
@[simp] theorem State.modChain_ms (s : State) (c : CtxId) (f : Chain → Chain) : (s.modChain c f).ms = s.ms := rfl
@[simp] theorem State.modChain_far (s : State) (c : CtxId) (f : Chain → Chain) : (s.modChain c f).far = s.far := rfl
@[simp] theorem State.modChain_queues (s : State) (c : CtxId) (f : Chain → Chain) : (s.modChain c f).queues = s.queues := rfl
@[simp] theorem State.modChain_intu (s : State) (c : CtxId) (f : Chain → Chain) : (s.modChain c f).intu = s.intu := rfl
@[simp] theorem State.modChain_rel (s : State) (c : CtxId) (f : Chain → Chain) : (s.modChain c f).rel = s.rel := rfl
@[simp] theorem State.modChain_marks (s : State) (c : CtxId) (f : Chain → Chain) : (s.modChain c f).marks = s.marks := rfl
@[simp] theorem State.modChain_pwr (s : State) (c : CtxId) (f : Chain → Chain) : (s.modChain c f).pwr = s.pwr := rfl
@[simp] theorem State.modChain_image (s : State) (c : CtxId) (f : Chain → Chain) : (s.modChain c f).image = s.image := rfl
@[simp] theorem State.modChain_shadow (s : State) (c : CtxId) (f : Chain → Chain) : (s.modChain c f).shadow = s.shadow := rfl
@[simp] theorem State.modChain_defrec (s : State) (c : CtxId) (f : Chain → Chain) : (s.modChain c f).defrec = s.defrec := rfl
@[simp] theorem State.modChain_serial (s : State) (c : CtxId) (f : Chain → Chain) : (s.modChain c f).serial = s.serial := rfl
@[simp] theorem State.modChain_mgmt (s : State) (c : CtxId) (f : Chain → Chain) : (s.modChain c f).mgmt = s.mgmt := rfl
@[simp] theorem State.modChain_strdbg (s : State) (c : CtxId) (f : Chain → Chain) : (s.modChain c f).strdbg = s.strdbg := rfl
@[simp] theorem State.modChain_telem (s : State) (c : CtxId) (f : Chain → Chain) : (s.modChain c f).telem = s.telem := rfl
@[simp] theorem State.modChain_trace (s : State) (c : CtxId) (f : Chain → Chain) : (s.modChain c f).trace = s.trace := rfl
@[simp] theorem State.modChain_tap (s : State) (c : CtxId) (f : Chain → Chain) : (s.modChain c f).tap = s.tap := rfl
@[simp] theorem State.modChain_free (s : State) (c : CtxId) (f : Chain → Chain) : (s.modChain c f).free = s.free := rfl
@[simp] theorem State.modChain_out (s : State) (c : CtxId) (f : Chain → Chain) : (s.modChain c f).out = s.out := rfl
@[simp] theorem State.modChain_pending (s : State) (c : CtxId) (f : Chain → Chain) : (s.modChain c f).pending = s.pending := rfl
@[simp] theorem State.modChain_fetching (s : State) (c : CtxId) (f : Chain → Chain) : (s.modChain c f).fetching = s.fetching := rfl

/-! ### State.modWin -/

@[simp] theorem State.modWin_hw (s : State) (k : StrandId) (f : Win → Win) : (s.modWin k f).hw = s.hw := rfl
@[simp] theorem State.modWin_feat (s : State) (k : StrandId) (f : Win → Win) : (s.modWin k f).feat = s.feat := rfl
@[simp] theorem State.modWin_core (s : State) (k : StrandId) (f : Win → Win) : (s.modWin k f).core = s.core := rfl
@[simp] theorem State.modWin_near (s : State) (k : StrandId) (f : Win → Win) : (s.modWin k f).near = s.near := rfl
@[simp] theorem State.modWin_home (s : State) (k : StrandId) (f : Win → Win) : (s.modWin k f).home = s.home := rfl
@[simp] theorem State.modWin_spad (s : State) (k : StrandId) (f : Win → Win) : (s.modWin k f).spad = s.spad := rfl
@[simp] theorem State.modWin_tiles (s : State) (k : StrandId) (f : Win → Win) : (s.modWin k f).tiles = s.tiles := rfl
@[simp] theorem State.modWin_weevils (s : State) (k : StrandId) (f : Win → Win) : (s.modWin k f).weevils = s.weevils := rfl
@[simp] theorem State.modWin_ms (s : State) (k : StrandId) (f : Win → Win) : (s.modWin k f).ms = s.ms := rfl
@[simp] theorem State.modWin_far (s : State) (k : StrandId) (f : Win → Win) : (s.modWin k f).far = s.far := rfl
@[simp] theorem State.modWin_queues (s : State) (k : StrandId) (f : Win → Win) : (s.modWin k f).queues = s.queues := rfl
@[simp] theorem State.modWin_intu (s : State) (k : StrandId) (f : Win → Win) : (s.modWin k f).intu = s.intu := rfl
@[simp] theorem State.modWin_rel (s : State) (k : StrandId) (f : Win → Win) : (s.modWin k f).rel = s.rel := rfl
@[simp] theorem State.modWin_marks (s : State) (k : StrandId) (f : Win → Win) : (s.modWin k f).marks = s.marks := rfl
@[simp] theorem State.modWin_pwr (s : State) (k : StrandId) (f : Win → Win) : (s.modWin k f).pwr = s.pwr := rfl
@[simp] theorem State.modWin_image (s : State) (k : StrandId) (f : Win → Win) : (s.modWin k f).image = s.image := rfl
@[simp] theorem State.modWin_shadow (s : State) (k : StrandId) (f : Win → Win) : (s.modWin k f).shadow = s.shadow := rfl
@[simp] theorem State.modWin_defrec (s : State) (k : StrandId) (f : Win → Win) : (s.modWin k f).defrec = s.defrec := rfl
@[simp] theorem State.modWin_serial (s : State) (k : StrandId) (f : Win → Win) : (s.modWin k f).serial = s.serial := rfl
@[simp] theorem State.modWin_mgmt (s : State) (k : StrandId) (f : Win → Win) : (s.modWin k f).mgmt = s.mgmt := rfl
@[simp] theorem State.modWin_strdbg (s : State) (k : StrandId) (f : Win → Win) : (s.modWin k f).strdbg = s.strdbg := rfl
@[simp] theorem State.modWin_telem (s : State) (k : StrandId) (f : Win → Win) : (s.modWin k f).telem = s.telem := rfl
@[simp] theorem State.modWin_trace (s : State) (k : StrandId) (f : Win → Win) : (s.modWin k f).trace = s.trace := rfl
@[simp] theorem State.modWin_tap (s : State) (k : StrandId) (f : Win → Win) : (s.modWin k f).tap = s.tap := rfl
@[simp] theorem State.modWin_free (s : State) (k : StrandId) (f : Win → Win) : (s.modWin k f).free = s.free := rfl
@[simp] theorem State.modWin_out (s : State) (k : StrandId) (f : Win → Win) : (s.modWin k f).out = s.out := rfl
@[simp] theorem State.modWin_pending (s : State) (k : StrandId) (f : Win → Win) : (s.modWin k f).pending = s.pending := rfl
@[simp] theorem State.modWin_fetching (s : State) (k : StrandId) (f : Win → Win) : (s.modWin k f).fetching = s.fetching := rfl

/-! ### State.setX -/

@[simp] theorem State.setX_hw (s : State) (k : StrandId) (r : RSpec) (v : Word) : (s.setX k r v).hw = s.hw := rfl
@[simp] theorem State.setX_feat (s : State) (k : StrandId) (r : RSpec) (v : Word) : (s.setX k r v).feat = s.feat := rfl
@[simp] theorem State.setX_core (s : State) (k : StrandId) (r : RSpec) (v : Word) : (s.setX k r v).core = s.core := rfl
@[simp] theorem State.setX_near (s : State) (k : StrandId) (r : RSpec) (v : Word) : (s.setX k r v).near = s.near := rfl
@[simp] theorem State.setX_home (s : State) (k : StrandId) (r : RSpec) (v : Word) : (s.setX k r v).home = s.home := rfl
@[simp] theorem State.setX_spad (s : State) (k : StrandId) (r : RSpec) (v : Word) : (s.setX k r v).spad = s.spad := rfl
@[simp] theorem State.setX_tiles (s : State) (k : StrandId) (r : RSpec) (v : Word) : (s.setX k r v).tiles = s.tiles := rfl
@[simp] theorem State.setX_weevils (s : State) (k : StrandId) (r : RSpec) (v : Word) : (s.setX k r v).weevils = s.weevils := rfl
@[simp] theorem State.setX_ms (s : State) (k : StrandId) (r : RSpec) (v : Word) : (s.setX k r v).ms = s.ms := rfl
@[simp] theorem State.setX_far (s : State) (k : StrandId) (r : RSpec) (v : Word) : (s.setX k r v).far = s.far := rfl
@[simp] theorem State.setX_queues (s : State) (k : StrandId) (r : RSpec) (v : Word) : (s.setX k r v).queues = s.queues := rfl
@[simp] theorem State.setX_intu (s : State) (k : StrandId) (r : RSpec) (v : Word) : (s.setX k r v).intu = s.intu := rfl
@[simp] theorem State.setX_rel (s : State) (k : StrandId) (r : RSpec) (v : Word) : (s.setX k r v).rel = s.rel := rfl
@[simp] theorem State.setX_marks (s : State) (k : StrandId) (r : RSpec) (v : Word) : (s.setX k r v).marks = s.marks := rfl
@[simp] theorem State.setX_pwr (s : State) (k : StrandId) (r : RSpec) (v : Word) : (s.setX k r v).pwr = s.pwr := rfl
@[simp] theorem State.setX_image (s : State) (k : StrandId) (r : RSpec) (v : Word) : (s.setX k r v).image = s.image := rfl
@[simp] theorem State.setX_shadow (s : State) (k : StrandId) (r : RSpec) (v : Word) : (s.setX k r v).shadow = s.shadow := rfl
@[simp] theorem State.setX_defrec (s : State) (k : StrandId) (r : RSpec) (v : Word) : (s.setX k r v).defrec = s.defrec := rfl
@[simp] theorem State.setX_serial (s : State) (k : StrandId) (r : RSpec) (v : Word) : (s.setX k r v).serial = s.serial := rfl
@[simp] theorem State.setX_mgmt (s : State) (k : StrandId) (r : RSpec) (v : Word) : (s.setX k r v).mgmt = s.mgmt := rfl
@[simp] theorem State.setX_strdbg (s : State) (k : StrandId) (r : RSpec) (v : Word) : (s.setX k r v).strdbg = s.strdbg := rfl
@[simp] theorem State.setX_telem (s : State) (k : StrandId) (r : RSpec) (v : Word) : (s.setX k r v).telem = s.telem := rfl
@[simp] theorem State.setX_trace (s : State) (k : StrandId) (r : RSpec) (v : Word) : (s.setX k r v).trace = s.trace := rfl
@[simp] theorem State.setX_tap (s : State) (k : StrandId) (r : RSpec) (v : Word) : (s.setX k r v).tap = s.tap := rfl
@[simp] theorem State.setX_free (s : State) (k : StrandId) (r : RSpec) (v : Word) : (s.setX k r v).free = s.free := rfl
@[simp] theorem State.setX_out (s : State) (k : StrandId) (r : RSpec) (v : Word) : (s.setX k r v).out = s.out := rfl
@[simp] theorem State.setX_pending (s : State) (k : StrandId) (r : RSpec) (v : Word) : (s.setX k r v).pending = s.pending := rfl
@[simp] theorem State.setX_fetching (s : State) (k : StrandId) (r : RSpec) (v : Word) : (s.setX k r v).fetching = s.fetching := rfl

/-! ### State.setF -/

@[simp] theorem State.setF_hw (s : State) (k : StrandId) (r : RSpec) (v : Word) : (s.setF k r v).hw = s.hw := rfl
@[simp] theorem State.setF_feat (s : State) (k : StrandId) (r : RSpec) (v : Word) : (s.setF k r v).feat = s.feat := rfl
@[simp] theorem State.setF_core (s : State) (k : StrandId) (r : RSpec) (v : Word) : (s.setF k r v).core = s.core := rfl
@[simp] theorem State.setF_near (s : State) (k : StrandId) (r : RSpec) (v : Word) : (s.setF k r v).near = s.near := rfl
@[simp] theorem State.setF_home (s : State) (k : StrandId) (r : RSpec) (v : Word) : (s.setF k r v).home = s.home := rfl
@[simp] theorem State.setF_spad (s : State) (k : StrandId) (r : RSpec) (v : Word) : (s.setF k r v).spad = s.spad := rfl
@[simp] theorem State.setF_tiles (s : State) (k : StrandId) (r : RSpec) (v : Word) : (s.setF k r v).tiles = s.tiles := rfl
@[simp] theorem State.setF_weevils (s : State) (k : StrandId) (r : RSpec) (v : Word) : (s.setF k r v).weevils = s.weevils := rfl
@[simp] theorem State.setF_ms (s : State) (k : StrandId) (r : RSpec) (v : Word) : (s.setF k r v).ms = s.ms := rfl
@[simp] theorem State.setF_far (s : State) (k : StrandId) (r : RSpec) (v : Word) : (s.setF k r v).far = s.far := rfl
@[simp] theorem State.setF_queues (s : State) (k : StrandId) (r : RSpec) (v : Word) : (s.setF k r v).queues = s.queues := rfl
@[simp] theorem State.setF_intu (s : State) (k : StrandId) (r : RSpec) (v : Word) : (s.setF k r v).intu = s.intu := rfl
@[simp] theorem State.setF_rel (s : State) (k : StrandId) (r : RSpec) (v : Word) : (s.setF k r v).rel = s.rel := rfl
@[simp] theorem State.setF_marks (s : State) (k : StrandId) (r : RSpec) (v : Word) : (s.setF k r v).marks = s.marks := rfl
@[simp] theorem State.setF_pwr (s : State) (k : StrandId) (r : RSpec) (v : Word) : (s.setF k r v).pwr = s.pwr := rfl
@[simp] theorem State.setF_image (s : State) (k : StrandId) (r : RSpec) (v : Word) : (s.setF k r v).image = s.image := rfl
@[simp] theorem State.setF_shadow (s : State) (k : StrandId) (r : RSpec) (v : Word) : (s.setF k r v).shadow = s.shadow := rfl
@[simp] theorem State.setF_defrec (s : State) (k : StrandId) (r : RSpec) (v : Word) : (s.setF k r v).defrec = s.defrec := rfl
@[simp] theorem State.setF_serial (s : State) (k : StrandId) (r : RSpec) (v : Word) : (s.setF k r v).serial = s.serial := rfl
@[simp] theorem State.setF_mgmt (s : State) (k : StrandId) (r : RSpec) (v : Word) : (s.setF k r v).mgmt = s.mgmt := rfl
@[simp] theorem State.setF_strdbg (s : State) (k : StrandId) (r : RSpec) (v : Word) : (s.setF k r v).strdbg = s.strdbg := rfl
@[simp] theorem State.setF_telem (s : State) (k : StrandId) (r : RSpec) (v : Word) : (s.setF k r v).telem = s.telem := rfl
@[simp] theorem State.setF_trace (s : State) (k : StrandId) (r : RSpec) (v : Word) : (s.setF k r v).trace = s.trace := rfl
@[simp] theorem State.setF_tap (s : State) (k : StrandId) (r : RSpec) (v : Word) : (s.setF k r v).tap = s.tap := rfl
@[simp] theorem State.setF_free (s : State) (k : StrandId) (r : RSpec) (v : Word) : (s.setF k r v).free = s.free := rfl
@[simp] theorem State.setF_out (s : State) (k : StrandId) (r : RSpec) (v : Word) : (s.setF k r v).out = s.out := rfl
@[simp] theorem State.setF_pending (s : State) (k : StrandId) (r : RSpec) (v : Word) : (s.setF k r v).pending = s.pending := rfl
@[simp] theorem State.setF_fetching (s : State) (k : StrandId) (r : RSpec) (v : Word) : (s.setF k r v).fetching = s.fetching := rfl

/-! ### State.modCore -/

@[simp] theorem State.modCore_hw (s : State) (f : CoreRegs → CoreRegs) : (s.modCore f).hw = s.hw := rfl
@[simp] theorem State.modCore_feat (s : State) (f : CoreRegs → CoreRegs) : (s.modCore f).feat = s.feat := rfl
@[simp] theorem State.modCore_core (s : State) (f : CoreRegs → CoreRegs) : (s.modCore f).core = f s.core := rfl
@[simp] theorem State.modCore_strands (s : State) (f : CoreRegs → CoreRegs) : (s.modCore f).strands = s.strands := rfl
@[simp] theorem State.modCore_near (s : State) (f : CoreRegs → CoreRegs) : (s.modCore f).near = s.near := rfl
@[simp] theorem State.modCore_home (s : State) (f : CoreRegs → CoreRegs) : (s.modCore f).home = s.home := rfl
@[simp] theorem State.modCore_spad (s : State) (f : CoreRegs → CoreRegs) : (s.modCore f).spad = s.spad := rfl
@[simp] theorem State.modCore_tiles (s : State) (f : CoreRegs → CoreRegs) : (s.modCore f).tiles = s.tiles := rfl
@[simp] theorem State.modCore_weevils (s : State) (f : CoreRegs → CoreRegs) : (s.modCore f).weevils = s.weevils := rfl
@[simp] theorem State.modCore_ms (s : State) (f : CoreRegs → CoreRegs) : (s.modCore f).ms = s.ms := rfl
@[simp] theorem State.modCore_far (s : State) (f : CoreRegs → CoreRegs) : (s.modCore f).far = s.far := rfl
@[simp] theorem State.modCore_queues (s : State) (f : CoreRegs → CoreRegs) : (s.modCore f).queues = s.queues := rfl
@[simp] theorem State.modCore_intu (s : State) (f : CoreRegs → CoreRegs) : (s.modCore f).intu = s.intu := rfl
@[simp] theorem State.modCore_rel (s : State) (f : CoreRegs → CoreRegs) : (s.modCore f).rel = s.rel := rfl
@[simp] theorem State.modCore_marks (s : State) (f : CoreRegs → CoreRegs) : (s.modCore f).marks = s.marks := rfl
@[simp] theorem State.modCore_pwr (s : State) (f : CoreRegs → CoreRegs) : (s.modCore f).pwr = s.pwr := rfl
@[simp] theorem State.modCore_image (s : State) (f : CoreRegs → CoreRegs) : (s.modCore f).image = s.image := rfl
@[simp] theorem State.modCore_shadow (s : State) (f : CoreRegs → CoreRegs) : (s.modCore f).shadow = s.shadow := rfl
@[simp] theorem State.modCore_defrec (s : State) (f : CoreRegs → CoreRegs) : (s.modCore f).defrec = s.defrec := rfl
@[simp] theorem State.modCore_serial (s : State) (f : CoreRegs → CoreRegs) : (s.modCore f).serial = s.serial := rfl
@[simp] theorem State.modCore_mgmt (s : State) (f : CoreRegs → CoreRegs) : (s.modCore f).mgmt = s.mgmt := rfl
@[simp] theorem State.modCore_strdbg (s : State) (f : CoreRegs → CoreRegs) : (s.modCore f).strdbg = s.strdbg := rfl
@[simp] theorem State.modCore_telem (s : State) (f : CoreRegs → CoreRegs) : (s.modCore f).telem = s.telem := rfl
@[simp] theorem State.modCore_trace (s : State) (f : CoreRegs → CoreRegs) : (s.modCore f).trace = s.trace := rfl
@[simp] theorem State.modCore_tap (s : State) (f : CoreRegs → CoreRegs) : (s.modCore f).tap = s.tap := rfl
@[simp] theorem State.modCore_free (s : State) (f : CoreRegs → CoreRegs) : (s.modCore f).free = s.free := rfl
@[simp] theorem State.modCore_out (s : State) (f : CoreRegs → CoreRegs) : (s.modCore f).out = s.out := rfl
@[simp] theorem State.modCore_pending (s : State) (f : CoreRegs → CoreRegs) : (s.modCore f).pending = s.pending := rfl
@[simp] theorem State.modCore_fetching (s : State) (f : CoreRegs → CoreRegs) : (s.modCore f).fetching = s.fetching := rfl
@[simp] theorem State.modCore_str (s : State) (f : CoreRegs → CoreRegs) (j : StrandId) : (s.modCore f).str j = s.str j := rfl

/-! ### State.modTiles -/

@[simp] theorem State.modTiles_hw (s : State) (f : Tiles → Tiles) : (s.modTiles f).hw = s.hw := rfl
@[simp] theorem State.modTiles_feat (s : State) (f : Tiles → Tiles) : (s.modTiles f).feat = s.feat := rfl
@[simp] theorem State.modTiles_core (s : State) (f : Tiles → Tiles) : (s.modTiles f).core = s.core := rfl
@[simp] theorem State.modTiles_strands (s : State) (f : Tiles → Tiles) : (s.modTiles f).strands = s.strands := rfl
@[simp] theorem State.modTiles_near (s : State) (f : Tiles → Tiles) : (s.modTiles f).near = s.near := rfl
@[simp] theorem State.modTiles_home (s : State) (f : Tiles → Tiles) : (s.modTiles f).home = s.home := rfl
@[simp] theorem State.modTiles_spad (s : State) (f : Tiles → Tiles) : (s.modTiles f).spad = s.spad := rfl
@[simp] theorem State.modTiles_tiles (s : State) (f : Tiles → Tiles) : (s.modTiles f).tiles = f s.tiles := rfl
@[simp] theorem State.modTiles_weevils (s : State) (f : Tiles → Tiles) : (s.modTiles f).weevils = s.weevils := rfl
@[simp] theorem State.modTiles_ms (s : State) (f : Tiles → Tiles) : (s.modTiles f).ms = s.ms := rfl
@[simp] theorem State.modTiles_far (s : State) (f : Tiles → Tiles) : (s.modTiles f).far = s.far := rfl
@[simp] theorem State.modTiles_queues (s : State) (f : Tiles → Tiles) : (s.modTiles f).queues = s.queues := rfl
@[simp] theorem State.modTiles_intu (s : State) (f : Tiles → Tiles) : (s.modTiles f).intu = s.intu := rfl
@[simp] theorem State.modTiles_rel (s : State) (f : Tiles → Tiles) : (s.modTiles f).rel = s.rel := rfl
@[simp] theorem State.modTiles_marks (s : State) (f : Tiles → Tiles) : (s.modTiles f).marks = s.marks := rfl
@[simp] theorem State.modTiles_pwr (s : State) (f : Tiles → Tiles) : (s.modTiles f).pwr = s.pwr := rfl
@[simp] theorem State.modTiles_image (s : State) (f : Tiles → Tiles) : (s.modTiles f).image = s.image := rfl
@[simp] theorem State.modTiles_shadow (s : State) (f : Tiles → Tiles) : (s.modTiles f).shadow = s.shadow := rfl
@[simp] theorem State.modTiles_defrec (s : State) (f : Tiles → Tiles) : (s.modTiles f).defrec = s.defrec := rfl
@[simp] theorem State.modTiles_serial (s : State) (f : Tiles → Tiles) : (s.modTiles f).serial = s.serial := rfl
@[simp] theorem State.modTiles_mgmt (s : State) (f : Tiles → Tiles) : (s.modTiles f).mgmt = s.mgmt := rfl
@[simp] theorem State.modTiles_strdbg (s : State) (f : Tiles → Tiles) : (s.modTiles f).strdbg = s.strdbg := rfl
@[simp] theorem State.modTiles_telem (s : State) (f : Tiles → Tiles) : (s.modTiles f).telem = s.telem := rfl
@[simp] theorem State.modTiles_trace (s : State) (f : Tiles → Tiles) : (s.modTiles f).trace = s.trace := rfl
@[simp] theorem State.modTiles_tap (s : State) (f : Tiles → Tiles) : (s.modTiles f).tap = s.tap := rfl
@[simp] theorem State.modTiles_free (s : State) (f : Tiles → Tiles) : (s.modTiles f).free = s.free := rfl
@[simp] theorem State.modTiles_out (s : State) (f : Tiles → Tiles) : (s.modTiles f).out = s.out := rfl
@[simp] theorem State.modTiles_pending (s : State) (f : Tiles → Tiles) : (s.modTiles f).pending = s.pending := rfl
@[simp] theorem State.modTiles_fetching (s : State) (f : Tiles → Tiles) : (s.modTiles f).fetching = s.fetching := rfl
@[simp] theorem State.modTiles_str (s : State) (f : Tiles → Tiles) (j : StrandId) : (s.modTiles f).str j = s.str j := rfl

/-! ### State.modTmu -/

@[simp] theorem State.modTmu_hw (s : State) (f : Tmu → Tmu) : (s.modTmu f).hw = s.hw := rfl
@[simp] theorem State.modTmu_feat (s : State) (f : Tmu → Tmu) : (s.modTmu f).feat = s.feat := rfl
@[simp] theorem State.modTmu_core (s : State) (f : Tmu → Tmu) : (s.modTmu f).core = s.core := rfl
@[simp] theorem State.modTmu_strands (s : State) (f : Tmu → Tmu) : (s.modTmu f).strands = s.strands := rfl
@[simp] theorem State.modTmu_near (s : State) (f : Tmu → Tmu) : (s.modTmu f).near = s.near := rfl
@[simp] theorem State.modTmu_home (s : State) (f : Tmu → Tmu) : (s.modTmu f).home = s.home := rfl
@[simp] theorem State.modTmu_spad (s : State) (f : Tmu → Tmu) : (s.modTmu f).spad = s.spad := rfl
@[simp] theorem State.modTmu_tiles (s : State) (f : Tmu → Tmu) : (s.modTmu f).tiles = { s.tiles with tmu := f s.tiles.tmu } := rfl
@[simp] theorem State.modTmu_weevils (s : State) (f : Tmu → Tmu) : (s.modTmu f).weevils = s.weevils := rfl
@[simp] theorem State.modTmu_ms (s : State) (f : Tmu → Tmu) : (s.modTmu f).ms = s.ms := rfl
@[simp] theorem State.modTmu_far (s : State) (f : Tmu → Tmu) : (s.modTmu f).far = s.far := rfl
@[simp] theorem State.modTmu_queues (s : State) (f : Tmu → Tmu) : (s.modTmu f).queues = s.queues := rfl
@[simp] theorem State.modTmu_intu (s : State) (f : Tmu → Tmu) : (s.modTmu f).intu = s.intu := rfl
@[simp] theorem State.modTmu_rel (s : State) (f : Tmu → Tmu) : (s.modTmu f).rel = s.rel := rfl
@[simp] theorem State.modTmu_marks (s : State) (f : Tmu → Tmu) : (s.modTmu f).marks = s.marks := rfl
@[simp] theorem State.modTmu_pwr (s : State) (f : Tmu → Tmu) : (s.modTmu f).pwr = s.pwr := rfl
@[simp] theorem State.modTmu_image (s : State) (f : Tmu → Tmu) : (s.modTmu f).image = s.image := rfl
@[simp] theorem State.modTmu_shadow (s : State) (f : Tmu → Tmu) : (s.modTmu f).shadow = s.shadow := rfl
@[simp] theorem State.modTmu_defrec (s : State) (f : Tmu → Tmu) : (s.modTmu f).defrec = s.defrec := rfl
@[simp] theorem State.modTmu_serial (s : State) (f : Tmu → Tmu) : (s.modTmu f).serial = s.serial := rfl
@[simp] theorem State.modTmu_mgmt (s : State) (f : Tmu → Tmu) : (s.modTmu f).mgmt = s.mgmt := rfl
@[simp] theorem State.modTmu_strdbg (s : State) (f : Tmu → Tmu) : (s.modTmu f).strdbg = s.strdbg := rfl
@[simp] theorem State.modTmu_telem (s : State) (f : Tmu → Tmu) : (s.modTmu f).telem = s.telem := rfl
@[simp] theorem State.modTmu_trace (s : State) (f : Tmu → Tmu) : (s.modTmu f).trace = s.trace := rfl
@[simp] theorem State.modTmu_tap (s : State) (f : Tmu → Tmu) : (s.modTmu f).tap = s.tap := rfl
@[simp] theorem State.modTmu_free (s : State) (f : Tmu → Tmu) : (s.modTmu f).free = s.free := rfl
@[simp] theorem State.modTmu_out (s : State) (f : Tmu → Tmu) : (s.modTmu f).out = s.out := rfl
@[simp] theorem State.modTmu_pending (s : State) (f : Tmu → Tmu) : (s.modTmu f).pending = s.pending := rfl
@[simp] theorem State.modTmu_fetching (s : State) (f : Tmu → Tmu) : (s.modTmu f).fetching = s.fetching := rfl
@[simp] theorem State.modTmu_str (s : State) (f : Tmu → Tmu) (j : StrandId) : (s.modTmu f).str j = s.str j := rfl

/-! ### State.modMs -/

@[simp] theorem State.modMs_hw (s : State) (f : MemSys → MemSys) : (s.modMs f).hw = s.hw := rfl
@[simp] theorem State.modMs_feat (s : State) (f : MemSys → MemSys) : (s.modMs f).feat = s.feat := rfl
@[simp] theorem State.modMs_core (s : State) (f : MemSys → MemSys) : (s.modMs f).core = s.core := rfl
@[simp] theorem State.modMs_strands (s : State) (f : MemSys → MemSys) : (s.modMs f).strands = s.strands := rfl
@[simp] theorem State.modMs_near (s : State) (f : MemSys → MemSys) : (s.modMs f).near = s.near := rfl
@[simp] theorem State.modMs_home (s : State) (f : MemSys → MemSys) : (s.modMs f).home = s.home := rfl
@[simp] theorem State.modMs_spad (s : State) (f : MemSys → MemSys) : (s.modMs f).spad = s.spad := rfl
@[simp] theorem State.modMs_tiles (s : State) (f : MemSys → MemSys) : (s.modMs f).tiles = s.tiles := rfl
@[simp] theorem State.modMs_weevils (s : State) (f : MemSys → MemSys) : (s.modMs f).weevils = s.weevils := rfl
@[simp] theorem State.modMs_ms (s : State) (f : MemSys → MemSys) : (s.modMs f).ms = f s.ms := rfl
@[simp] theorem State.modMs_far (s : State) (f : MemSys → MemSys) : (s.modMs f).far = s.far := rfl
@[simp] theorem State.modMs_queues (s : State) (f : MemSys → MemSys) : (s.modMs f).queues = s.queues := rfl
@[simp] theorem State.modMs_intu (s : State) (f : MemSys → MemSys) : (s.modMs f).intu = s.intu := rfl
@[simp] theorem State.modMs_rel (s : State) (f : MemSys → MemSys) : (s.modMs f).rel = s.rel := rfl
@[simp] theorem State.modMs_marks (s : State) (f : MemSys → MemSys) : (s.modMs f).marks = s.marks := rfl
@[simp] theorem State.modMs_pwr (s : State) (f : MemSys → MemSys) : (s.modMs f).pwr = s.pwr := rfl
@[simp] theorem State.modMs_image (s : State) (f : MemSys → MemSys) : (s.modMs f).image = s.image := rfl
@[simp] theorem State.modMs_shadow (s : State) (f : MemSys → MemSys) : (s.modMs f).shadow = s.shadow := rfl
@[simp] theorem State.modMs_defrec (s : State) (f : MemSys → MemSys) : (s.modMs f).defrec = s.defrec := rfl
@[simp] theorem State.modMs_serial (s : State) (f : MemSys → MemSys) : (s.modMs f).serial = s.serial := rfl
@[simp] theorem State.modMs_mgmt (s : State) (f : MemSys → MemSys) : (s.modMs f).mgmt = s.mgmt := rfl
@[simp] theorem State.modMs_strdbg (s : State) (f : MemSys → MemSys) : (s.modMs f).strdbg = s.strdbg := rfl
@[simp] theorem State.modMs_telem (s : State) (f : MemSys → MemSys) : (s.modMs f).telem = s.telem := rfl
@[simp] theorem State.modMs_trace (s : State) (f : MemSys → MemSys) : (s.modMs f).trace = s.trace := rfl
@[simp] theorem State.modMs_tap (s : State) (f : MemSys → MemSys) : (s.modMs f).tap = s.tap := rfl
@[simp] theorem State.modMs_free (s : State) (f : MemSys → MemSys) : (s.modMs f).free = s.free := rfl
@[simp] theorem State.modMs_out (s : State) (f : MemSys → MemSys) : (s.modMs f).out = s.out := rfl
@[simp] theorem State.modMs_pending (s : State) (f : MemSys → MemSys) : (s.modMs f).pending = s.pending := rfl
@[simp] theorem State.modMs_fetching (s : State) (f : MemSys → MemSys) : (s.modMs f).fetching = s.fetching := rfl
@[simp] theorem State.modMs_str (s : State) (f : MemSys → MemSys) (j : StrandId) : (s.modMs f).str j = s.str j := rfl

/-! ### State.modPage -/

@[simp] theorem State.modPage_hw (s : State) (f : CachePage → CachePage) : (s.modPage f).hw = s.hw := rfl
@[simp] theorem State.modPage_feat (s : State) (f : CachePage → CachePage) : (s.modPage f).feat = s.feat := rfl
@[simp] theorem State.modPage_core (s : State) (f : CachePage → CachePage) : (s.modPage f).core = s.core := rfl
@[simp] theorem State.modPage_strands (s : State) (f : CachePage → CachePage) : (s.modPage f).strands = s.strands := rfl
@[simp] theorem State.modPage_near (s : State) (f : CachePage → CachePage) : (s.modPage f).near = s.near := rfl
@[simp] theorem State.modPage_home (s : State) (f : CachePage → CachePage) : (s.modPage f).home = s.home := rfl
@[simp] theorem State.modPage_spad (s : State) (f : CachePage → CachePage) : (s.modPage f).spad = s.spad := rfl
@[simp] theorem State.modPage_tiles (s : State) (f : CachePage → CachePage) : (s.modPage f).tiles = s.tiles := rfl
@[simp] theorem State.modPage_weevils (s : State) (f : CachePage → CachePage) : (s.modPage f).weevils = s.weevils := rfl
@[simp] theorem State.modPage_ms (s : State) (f : CachePage → CachePage) : (s.modPage f).ms = { s.ms with page := f s.ms.page } := rfl
@[simp] theorem State.modPage_far (s : State) (f : CachePage → CachePage) : (s.modPage f).far = s.far := rfl
@[simp] theorem State.modPage_queues (s : State) (f : CachePage → CachePage) : (s.modPage f).queues = s.queues := rfl
@[simp] theorem State.modPage_intu (s : State) (f : CachePage → CachePage) : (s.modPage f).intu = s.intu := rfl
@[simp] theorem State.modPage_rel (s : State) (f : CachePage → CachePage) : (s.modPage f).rel = s.rel := rfl
@[simp] theorem State.modPage_marks (s : State) (f : CachePage → CachePage) : (s.modPage f).marks = s.marks := rfl
@[simp] theorem State.modPage_pwr (s : State) (f : CachePage → CachePage) : (s.modPage f).pwr = s.pwr := rfl
@[simp] theorem State.modPage_image (s : State) (f : CachePage → CachePage) : (s.modPage f).image = s.image := rfl
@[simp] theorem State.modPage_shadow (s : State) (f : CachePage → CachePage) : (s.modPage f).shadow = s.shadow := rfl
@[simp] theorem State.modPage_defrec (s : State) (f : CachePage → CachePage) : (s.modPage f).defrec = s.defrec := rfl
@[simp] theorem State.modPage_serial (s : State) (f : CachePage → CachePage) : (s.modPage f).serial = s.serial := rfl
@[simp] theorem State.modPage_mgmt (s : State) (f : CachePage → CachePage) : (s.modPage f).mgmt = s.mgmt := rfl
@[simp] theorem State.modPage_strdbg (s : State) (f : CachePage → CachePage) : (s.modPage f).strdbg = s.strdbg := rfl
@[simp] theorem State.modPage_telem (s : State) (f : CachePage → CachePage) : (s.modPage f).telem = s.telem := rfl
@[simp] theorem State.modPage_trace (s : State) (f : CachePage → CachePage) : (s.modPage f).trace = s.trace := rfl
@[simp] theorem State.modPage_tap (s : State) (f : CachePage → CachePage) : (s.modPage f).tap = s.tap := rfl
@[simp] theorem State.modPage_free (s : State) (f : CachePage → CachePage) : (s.modPage f).free = s.free := rfl
@[simp] theorem State.modPage_out (s : State) (f : CachePage → CachePage) : (s.modPage f).out = s.out := rfl
@[simp] theorem State.modPage_pending (s : State) (f : CachePage → CachePage) : (s.modPage f).pending = s.pending := rfl
@[simp] theorem State.modPage_fetching (s : State) (f : CachePage → CachePage) : (s.modPage f).fetching = s.fetching := rfl
@[simp] theorem State.modPage_str (s : State) (f : CachePage → CachePage) (j : StrandId) : (s.modPage f).str j = s.str j := rfl

/-! ### State.modFar -/

@[simp] theorem State.modFar_hw (s : State) (f : Far → Far) : (s.modFar f).hw = s.hw := rfl
@[simp] theorem State.modFar_feat (s : State) (f : Far → Far) : (s.modFar f).feat = s.feat := rfl
@[simp] theorem State.modFar_core (s : State) (f : Far → Far) : (s.modFar f).core = s.core := rfl
@[simp] theorem State.modFar_strands (s : State) (f : Far → Far) : (s.modFar f).strands = s.strands := rfl
@[simp] theorem State.modFar_near (s : State) (f : Far → Far) : (s.modFar f).near = s.near := rfl
@[simp] theorem State.modFar_home (s : State) (f : Far → Far) : (s.modFar f).home = s.home := rfl
@[simp] theorem State.modFar_spad (s : State) (f : Far → Far) : (s.modFar f).spad = s.spad := rfl
@[simp] theorem State.modFar_tiles (s : State) (f : Far → Far) : (s.modFar f).tiles = s.tiles := rfl
@[simp] theorem State.modFar_weevils (s : State) (f : Far → Far) : (s.modFar f).weevils = s.weevils := rfl
@[simp] theorem State.modFar_ms (s : State) (f : Far → Far) : (s.modFar f).ms = s.ms := rfl
@[simp] theorem State.modFar_far (s : State) (f : Far → Far) : (s.modFar f).far = f s.far := rfl
@[simp] theorem State.modFar_queues (s : State) (f : Far → Far) : (s.modFar f).queues = s.queues := rfl
@[simp] theorem State.modFar_intu (s : State) (f : Far → Far) : (s.modFar f).intu = s.intu := rfl
@[simp] theorem State.modFar_rel (s : State) (f : Far → Far) : (s.modFar f).rel = s.rel := rfl
@[simp] theorem State.modFar_marks (s : State) (f : Far → Far) : (s.modFar f).marks = s.marks := rfl
@[simp] theorem State.modFar_pwr (s : State) (f : Far → Far) : (s.modFar f).pwr = s.pwr := rfl
@[simp] theorem State.modFar_image (s : State) (f : Far → Far) : (s.modFar f).image = s.image := rfl
@[simp] theorem State.modFar_shadow (s : State) (f : Far → Far) : (s.modFar f).shadow = s.shadow := rfl
@[simp] theorem State.modFar_defrec (s : State) (f : Far → Far) : (s.modFar f).defrec = s.defrec := rfl
@[simp] theorem State.modFar_serial (s : State) (f : Far → Far) : (s.modFar f).serial = s.serial := rfl
@[simp] theorem State.modFar_mgmt (s : State) (f : Far → Far) : (s.modFar f).mgmt = s.mgmt := rfl
@[simp] theorem State.modFar_strdbg (s : State) (f : Far → Far) : (s.modFar f).strdbg = s.strdbg := rfl
@[simp] theorem State.modFar_telem (s : State) (f : Far → Far) : (s.modFar f).telem = s.telem := rfl
@[simp] theorem State.modFar_trace (s : State) (f : Far → Far) : (s.modFar f).trace = s.trace := rfl
@[simp] theorem State.modFar_tap (s : State) (f : Far → Far) : (s.modFar f).tap = s.tap := rfl
@[simp] theorem State.modFar_free (s : State) (f : Far → Far) : (s.modFar f).free = s.free := rfl
@[simp] theorem State.modFar_out (s : State) (f : Far → Far) : (s.modFar f).out = s.out := rfl
@[simp] theorem State.modFar_pending (s : State) (f : Far → Far) : (s.modFar f).pending = s.pending := rfl
@[simp] theorem State.modFar_fetching (s : State) (f : Far → Far) : (s.modFar f).fetching = s.fetching := rfl
@[simp] theorem State.modFar_str (s : State) (f : Far → Far) (j : StrandId) : (s.modFar f).str j = s.str j := rfl

/-! ### State.modFarRegs -/

@[simp] theorem State.modFarRegs_hw (s : State) (f : FarRegs → FarRegs) : (s.modFarRegs f).hw = s.hw := rfl
@[simp] theorem State.modFarRegs_feat (s : State) (f : FarRegs → FarRegs) : (s.modFarRegs f).feat = s.feat := rfl
@[simp] theorem State.modFarRegs_core (s : State) (f : FarRegs → FarRegs) : (s.modFarRegs f).core = s.core := rfl
@[simp] theorem State.modFarRegs_strands (s : State) (f : FarRegs → FarRegs) : (s.modFarRegs f).strands = s.strands := rfl
@[simp] theorem State.modFarRegs_near (s : State) (f : FarRegs → FarRegs) : (s.modFarRegs f).near = s.near := rfl
@[simp] theorem State.modFarRegs_home (s : State) (f : FarRegs → FarRegs) : (s.modFarRegs f).home = s.home := rfl
@[simp] theorem State.modFarRegs_spad (s : State) (f : FarRegs → FarRegs) : (s.modFarRegs f).spad = s.spad := rfl
@[simp] theorem State.modFarRegs_tiles (s : State) (f : FarRegs → FarRegs) : (s.modFarRegs f).tiles = s.tiles := rfl
@[simp] theorem State.modFarRegs_weevils (s : State) (f : FarRegs → FarRegs) : (s.modFarRegs f).weevils = s.weevils := rfl
@[simp] theorem State.modFarRegs_ms (s : State) (f : FarRegs → FarRegs) : (s.modFarRegs f).ms = s.ms := rfl
@[simp] theorem State.modFarRegs_far (s : State) (f : FarRegs → FarRegs) : (s.modFarRegs f).far = { s.far with regs := f s.far.regs } := rfl
@[simp] theorem State.modFarRegs_queues (s : State) (f : FarRegs → FarRegs) : (s.modFarRegs f).queues = s.queues := rfl
@[simp] theorem State.modFarRegs_intu (s : State) (f : FarRegs → FarRegs) : (s.modFarRegs f).intu = s.intu := rfl
@[simp] theorem State.modFarRegs_rel (s : State) (f : FarRegs → FarRegs) : (s.modFarRegs f).rel = s.rel := rfl
@[simp] theorem State.modFarRegs_marks (s : State) (f : FarRegs → FarRegs) : (s.modFarRegs f).marks = s.marks := rfl
@[simp] theorem State.modFarRegs_pwr (s : State) (f : FarRegs → FarRegs) : (s.modFarRegs f).pwr = s.pwr := rfl
@[simp] theorem State.modFarRegs_image (s : State) (f : FarRegs → FarRegs) : (s.modFarRegs f).image = s.image := rfl
@[simp] theorem State.modFarRegs_shadow (s : State) (f : FarRegs → FarRegs) : (s.modFarRegs f).shadow = s.shadow := rfl
@[simp] theorem State.modFarRegs_defrec (s : State) (f : FarRegs → FarRegs) : (s.modFarRegs f).defrec = s.defrec := rfl
@[simp] theorem State.modFarRegs_serial (s : State) (f : FarRegs → FarRegs) : (s.modFarRegs f).serial = s.serial := rfl
@[simp] theorem State.modFarRegs_mgmt (s : State) (f : FarRegs → FarRegs) : (s.modFarRegs f).mgmt = s.mgmt := rfl
@[simp] theorem State.modFarRegs_strdbg (s : State) (f : FarRegs → FarRegs) : (s.modFarRegs f).strdbg = s.strdbg := rfl
@[simp] theorem State.modFarRegs_telem (s : State) (f : FarRegs → FarRegs) : (s.modFarRegs f).telem = s.telem := rfl
@[simp] theorem State.modFarRegs_trace (s : State) (f : FarRegs → FarRegs) : (s.modFarRegs f).trace = s.trace := rfl
@[simp] theorem State.modFarRegs_tap (s : State) (f : FarRegs → FarRegs) : (s.modFarRegs f).tap = s.tap := rfl
@[simp] theorem State.modFarRegs_free (s : State) (f : FarRegs → FarRegs) : (s.modFarRegs f).free = s.free := rfl
@[simp] theorem State.modFarRegs_out (s : State) (f : FarRegs → FarRegs) : (s.modFarRegs f).out = s.out := rfl
@[simp] theorem State.modFarRegs_pending (s : State) (f : FarRegs → FarRegs) : (s.modFarRegs f).pending = s.pending := rfl
@[simp] theorem State.modFarRegs_fetching (s : State) (f : FarRegs → FarRegs) : (s.modFarRegs f).fetching = s.fetching := rfl
@[simp] theorem State.modFarRegs_str (s : State) (f : FarRegs → FarRegs) (j : StrandId) : (s.modFarRegs f).str j = s.str j := rfl

/-! ### State.modLink -/

@[simp] theorem State.modLink_hw (s : State) (f : Link → Link) : (s.modLink f).hw = s.hw := rfl
@[simp] theorem State.modLink_feat (s : State) (f : Link → Link) : (s.modLink f).feat = s.feat := rfl
@[simp] theorem State.modLink_core (s : State) (f : Link → Link) : (s.modLink f).core = s.core := rfl
@[simp] theorem State.modLink_strands (s : State) (f : Link → Link) : (s.modLink f).strands = s.strands := rfl
@[simp] theorem State.modLink_near (s : State) (f : Link → Link) : (s.modLink f).near = s.near := rfl
@[simp] theorem State.modLink_home (s : State) (f : Link → Link) : (s.modLink f).home = s.home := rfl
@[simp] theorem State.modLink_spad (s : State) (f : Link → Link) : (s.modLink f).spad = s.spad := rfl
@[simp] theorem State.modLink_tiles (s : State) (f : Link → Link) : (s.modLink f).tiles = s.tiles := rfl
@[simp] theorem State.modLink_weevils (s : State) (f : Link → Link) : (s.modLink f).weevils = s.weevils := rfl
@[simp] theorem State.modLink_ms (s : State) (f : Link → Link) : (s.modLink f).ms = s.ms := rfl
@[simp] theorem State.modLink_far (s : State) (f : Link → Link) : (s.modLink f).far = { s.far with link := f s.far.link } := rfl
@[simp] theorem State.modLink_queues (s : State) (f : Link → Link) : (s.modLink f).queues = s.queues := rfl
@[simp] theorem State.modLink_intu (s : State) (f : Link → Link) : (s.modLink f).intu = s.intu := rfl
@[simp] theorem State.modLink_rel (s : State) (f : Link → Link) : (s.modLink f).rel = s.rel := rfl
@[simp] theorem State.modLink_marks (s : State) (f : Link → Link) : (s.modLink f).marks = s.marks := rfl
@[simp] theorem State.modLink_pwr (s : State) (f : Link → Link) : (s.modLink f).pwr = s.pwr := rfl
@[simp] theorem State.modLink_image (s : State) (f : Link → Link) : (s.modLink f).image = s.image := rfl
@[simp] theorem State.modLink_shadow (s : State) (f : Link → Link) : (s.modLink f).shadow = s.shadow := rfl
@[simp] theorem State.modLink_defrec (s : State) (f : Link → Link) : (s.modLink f).defrec = s.defrec := rfl
@[simp] theorem State.modLink_serial (s : State) (f : Link → Link) : (s.modLink f).serial = s.serial := rfl
@[simp] theorem State.modLink_mgmt (s : State) (f : Link → Link) : (s.modLink f).mgmt = s.mgmt := rfl
@[simp] theorem State.modLink_strdbg (s : State) (f : Link → Link) : (s.modLink f).strdbg = s.strdbg := rfl
@[simp] theorem State.modLink_telem (s : State) (f : Link → Link) : (s.modLink f).telem = s.telem := rfl
@[simp] theorem State.modLink_trace (s : State) (f : Link → Link) : (s.modLink f).trace = s.trace := rfl
@[simp] theorem State.modLink_tap (s : State) (f : Link → Link) : (s.modLink f).tap = s.tap := rfl
@[simp] theorem State.modLink_free (s : State) (f : Link → Link) : (s.modLink f).free = s.free := rfl
@[simp] theorem State.modLink_out (s : State) (f : Link → Link) : (s.modLink f).out = s.out := rfl
@[simp] theorem State.modLink_pending (s : State) (f : Link → Link) : (s.modLink f).pending = s.pending := rfl
@[simp] theorem State.modLink_fetching (s : State) (f : Link → Link) : (s.modLink f).fetching = s.fetching := rfl
@[simp] theorem State.modLink_str (s : State) (f : Link → Link) (j : StrandId) : (s.modLink f).str j = s.str j := rfl

/-! ### State.modReq -/

@[simp] theorem State.modReq_hw (s : State) (i : Nat) (f : FarReq → FarReq) : (s.modReq i f).hw = s.hw := rfl
@[simp] theorem State.modReq_feat (s : State) (i : Nat) (f : FarReq → FarReq) : (s.modReq i f).feat = s.feat := rfl
@[simp] theorem State.modReq_core (s : State) (i : Nat) (f : FarReq → FarReq) : (s.modReq i f).core = s.core := rfl
@[simp] theorem State.modReq_strands (s : State) (i : Nat) (f : FarReq → FarReq) : (s.modReq i f).strands = s.strands := rfl
@[simp] theorem State.modReq_near (s : State) (i : Nat) (f : FarReq → FarReq) : (s.modReq i f).near = s.near := rfl
@[simp] theorem State.modReq_home (s : State) (i : Nat) (f : FarReq → FarReq) : (s.modReq i f).home = s.home := rfl
@[simp] theorem State.modReq_spad (s : State) (i : Nat) (f : FarReq → FarReq) : (s.modReq i f).spad = s.spad := rfl
@[simp] theorem State.modReq_tiles (s : State) (i : Nat) (f : FarReq → FarReq) : (s.modReq i f).tiles = s.tiles := rfl
@[simp] theorem State.modReq_weevils (s : State) (i : Nat) (f : FarReq → FarReq) : (s.modReq i f).weevils = s.weevils := rfl
@[simp] theorem State.modReq_ms (s : State) (i : Nat) (f : FarReq → FarReq) : (s.modReq i f).ms = s.ms := rfl
@[simp] theorem State.modReq_queues (s : State) (i : Nat) (f : FarReq → FarReq) : (s.modReq i f).queues = s.queues := rfl
@[simp] theorem State.modReq_intu (s : State) (i : Nat) (f : FarReq → FarReq) : (s.modReq i f).intu = s.intu := rfl
@[simp] theorem State.modReq_rel (s : State) (i : Nat) (f : FarReq → FarReq) : (s.modReq i f).rel = s.rel := rfl
@[simp] theorem State.modReq_marks (s : State) (i : Nat) (f : FarReq → FarReq) : (s.modReq i f).marks = s.marks := rfl
@[simp] theorem State.modReq_pwr (s : State) (i : Nat) (f : FarReq → FarReq) : (s.modReq i f).pwr = s.pwr := rfl
@[simp] theorem State.modReq_image (s : State) (i : Nat) (f : FarReq → FarReq) : (s.modReq i f).image = s.image := rfl
@[simp] theorem State.modReq_shadow (s : State) (i : Nat) (f : FarReq → FarReq) : (s.modReq i f).shadow = s.shadow := rfl
@[simp] theorem State.modReq_defrec (s : State) (i : Nat) (f : FarReq → FarReq) : (s.modReq i f).defrec = s.defrec := rfl
@[simp] theorem State.modReq_serial (s : State) (i : Nat) (f : FarReq → FarReq) : (s.modReq i f).serial = s.serial := rfl
@[simp] theorem State.modReq_mgmt (s : State) (i : Nat) (f : FarReq → FarReq) : (s.modReq i f).mgmt = s.mgmt := rfl
@[simp] theorem State.modReq_strdbg (s : State) (i : Nat) (f : FarReq → FarReq) : (s.modReq i f).strdbg = s.strdbg := rfl
@[simp] theorem State.modReq_telem (s : State) (i : Nat) (f : FarReq → FarReq) : (s.modReq i f).telem = s.telem := rfl
@[simp] theorem State.modReq_trace (s : State) (i : Nat) (f : FarReq → FarReq) : (s.modReq i f).trace = s.trace := rfl
@[simp] theorem State.modReq_tap (s : State) (i : Nat) (f : FarReq → FarReq) : (s.modReq i f).tap = s.tap := rfl
@[simp] theorem State.modReq_free (s : State) (i : Nat) (f : FarReq → FarReq) : (s.modReq i f).free = s.free := rfl
@[simp] theorem State.modReq_out (s : State) (i : Nat) (f : FarReq → FarReq) : (s.modReq i f).out = s.out := rfl
@[simp] theorem State.modReq_pending (s : State) (i : Nat) (f : FarReq → FarReq) : (s.modReq i f).pending = s.pending := rfl
@[simp] theorem State.modReq_fetching (s : State) (i : Nat) (f : FarReq → FarReq) : (s.modReq i f).fetching = s.fetching := rfl
@[simp] theorem State.modReq_str (s : State) (i : Nat) (f : FarReq → FarReq) (j : StrandId) : (s.modReq i f).str j = s.str j := rfl

/-! ### State.dropReq -/

@[simp] theorem State.dropReq_hw (s : State) (i : Nat) : (s.dropReq i).hw = s.hw := rfl
@[simp] theorem State.dropReq_feat (s : State) (i : Nat) : (s.dropReq i).feat = s.feat := rfl
@[simp] theorem State.dropReq_core (s : State) (i : Nat) : (s.dropReq i).core = s.core := rfl
@[simp] theorem State.dropReq_strands (s : State) (i : Nat) : (s.dropReq i).strands = s.strands := rfl
@[simp] theorem State.dropReq_near (s : State) (i : Nat) : (s.dropReq i).near = s.near := rfl
@[simp] theorem State.dropReq_home (s : State) (i : Nat) : (s.dropReq i).home = s.home := rfl
@[simp] theorem State.dropReq_spad (s : State) (i : Nat) : (s.dropReq i).spad = s.spad := rfl
@[simp] theorem State.dropReq_tiles (s : State) (i : Nat) : (s.dropReq i).tiles = s.tiles := rfl
@[simp] theorem State.dropReq_weevils (s : State) (i : Nat) : (s.dropReq i).weevils = s.weevils := rfl
@[simp] theorem State.dropReq_ms (s : State) (i : Nat) : (s.dropReq i).ms = s.ms := rfl
@[simp] theorem State.dropReq_queues (s : State) (i : Nat) : (s.dropReq i).queues = s.queues := rfl
@[simp] theorem State.dropReq_intu (s : State) (i : Nat) : (s.dropReq i).intu = s.intu := rfl
@[simp] theorem State.dropReq_rel (s : State) (i : Nat) : (s.dropReq i).rel = s.rel := rfl
@[simp] theorem State.dropReq_marks (s : State) (i : Nat) : (s.dropReq i).marks = s.marks := rfl
@[simp] theorem State.dropReq_pwr (s : State) (i : Nat) : (s.dropReq i).pwr = s.pwr := rfl
@[simp] theorem State.dropReq_image (s : State) (i : Nat) : (s.dropReq i).image = s.image := rfl
@[simp] theorem State.dropReq_shadow (s : State) (i : Nat) : (s.dropReq i).shadow = s.shadow := rfl
@[simp] theorem State.dropReq_defrec (s : State) (i : Nat) : (s.dropReq i).defrec = s.defrec := rfl
@[simp] theorem State.dropReq_serial (s : State) (i : Nat) : (s.dropReq i).serial = s.serial := rfl
@[simp] theorem State.dropReq_mgmt (s : State) (i : Nat) : (s.dropReq i).mgmt = s.mgmt := rfl
@[simp] theorem State.dropReq_strdbg (s : State) (i : Nat) : (s.dropReq i).strdbg = s.strdbg := rfl
@[simp] theorem State.dropReq_telem (s : State) (i : Nat) : (s.dropReq i).telem = s.telem := rfl
@[simp] theorem State.dropReq_trace (s : State) (i : Nat) : (s.dropReq i).trace = s.trace := rfl
@[simp] theorem State.dropReq_tap (s : State) (i : Nat) : (s.dropReq i).tap = s.tap := rfl
@[simp] theorem State.dropReq_free (s : State) (i : Nat) : (s.dropReq i).free = s.free := rfl
@[simp] theorem State.dropReq_out (s : State) (i : Nat) : (s.dropReq i).out = s.out := rfl
@[simp] theorem State.dropReq_pending (s : State) (i : Nat) : (s.dropReq i).pending = s.pending := rfl
@[simp] theorem State.dropReq_fetching (s : State) (i : Nat) : (s.dropReq i).fetching = s.fetching := rfl
@[simp] theorem State.dropReq_str (s : State) (i : Nat) (j : StrandId) : (s.dropReq i).str j = s.str j := rfl

/-! ### State.modTgt -/

@[simp] theorem State.modTgt_hw (s : State) (n : BitVec 14) (f : TgtSess → TgtSess) : (s.modTgt n f).hw = s.hw := rfl
@[simp] theorem State.modTgt_feat (s : State) (n : BitVec 14) (f : TgtSess → TgtSess) : (s.modTgt n f).feat = s.feat := rfl
@[simp] theorem State.modTgt_core (s : State) (n : BitVec 14) (f : TgtSess → TgtSess) : (s.modTgt n f).core = s.core := rfl
@[simp] theorem State.modTgt_strands (s : State) (n : BitVec 14) (f : TgtSess → TgtSess) : (s.modTgt n f).strands = s.strands := rfl
@[simp] theorem State.modTgt_near (s : State) (n : BitVec 14) (f : TgtSess → TgtSess) : (s.modTgt n f).near = s.near := rfl
@[simp] theorem State.modTgt_home (s : State) (n : BitVec 14) (f : TgtSess → TgtSess) : (s.modTgt n f).home = s.home := rfl
@[simp] theorem State.modTgt_spad (s : State) (n : BitVec 14) (f : TgtSess → TgtSess) : (s.modTgt n f).spad = s.spad := rfl
@[simp] theorem State.modTgt_tiles (s : State) (n : BitVec 14) (f : TgtSess → TgtSess) : (s.modTgt n f).tiles = s.tiles := rfl
@[simp] theorem State.modTgt_weevils (s : State) (n : BitVec 14) (f : TgtSess → TgtSess) : (s.modTgt n f).weevils = s.weevils := rfl
@[simp] theorem State.modTgt_ms (s : State) (n : BitVec 14) (f : TgtSess → TgtSess) : (s.modTgt n f).ms = s.ms := rfl
@[simp] theorem State.modTgt_queues (s : State) (n : BitVec 14) (f : TgtSess → TgtSess) : (s.modTgt n f).queues = s.queues := rfl
@[simp] theorem State.modTgt_intu (s : State) (n : BitVec 14) (f : TgtSess → TgtSess) : (s.modTgt n f).intu = s.intu := rfl
@[simp] theorem State.modTgt_rel (s : State) (n : BitVec 14) (f : TgtSess → TgtSess) : (s.modTgt n f).rel = s.rel := rfl
@[simp] theorem State.modTgt_marks (s : State) (n : BitVec 14) (f : TgtSess → TgtSess) : (s.modTgt n f).marks = s.marks := rfl
@[simp] theorem State.modTgt_pwr (s : State) (n : BitVec 14) (f : TgtSess → TgtSess) : (s.modTgt n f).pwr = s.pwr := rfl
@[simp] theorem State.modTgt_image (s : State) (n : BitVec 14) (f : TgtSess → TgtSess) : (s.modTgt n f).image = s.image := rfl
@[simp] theorem State.modTgt_shadow (s : State) (n : BitVec 14) (f : TgtSess → TgtSess) : (s.modTgt n f).shadow = s.shadow := rfl
@[simp] theorem State.modTgt_defrec (s : State) (n : BitVec 14) (f : TgtSess → TgtSess) : (s.modTgt n f).defrec = s.defrec := rfl
@[simp] theorem State.modTgt_serial (s : State) (n : BitVec 14) (f : TgtSess → TgtSess) : (s.modTgt n f).serial = s.serial := rfl
@[simp] theorem State.modTgt_mgmt (s : State) (n : BitVec 14) (f : TgtSess → TgtSess) : (s.modTgt n f).mgmt = s.mgmt := rfl
@[simp] theorem State.modTgt_strdbg (s : State) (n : BitVec 14) (f : TgtSess → TgtSess) : (s.modTgt n f).strdbg = s.strdbg := rfl
@[simp] theorem State.modTgt_telem (s : State) (n : BitVec 14) (f : TgtSess → TgtSess) : (s.modTgt n f).telem = s.telem := rfl
@[simp] theorem State.modTgt_trace (s : State) (n : BitVec 14) (f : TgtSess → TgtSess) : (s.modTgt n f).trace = s.trace := rfl
@[simp] theorem State.modTgt_tap (s : State) (n : BitVec 14) (f : TgtSess → TgtSess) : (s.modTgt n f).tap = s.tap := rfl
@[simp] theorem State.modTgt_free (s : State) (n : BitVec 14) (f : TgtSess → TgtSess) : (s.modTgt n f).free = s.free := rfl
@[simp] theorem State.modTgt_out (s : State) (n : BitVec 14) (f : TgtSess → TgtSess) : (s.modTgt n f).out = s.out := rfl
@[simp] theorem State.modTgt_pending (s : State) (n : BitVec 14) (f : TgtSess → TgtSess) : (s.modTgt n f).pending = s.pending := rfl
@[simp] theorem State.modTgt_fetching (s : State) (n : BitVec 14) (f : TgtSess → TgtSess) : (s.modTgt n f).fetching = s.fetching := rfl
@[simp] theorem State.modTgt_str (s : State) (n : BitVec 14) (f : TgtSess → TgtSess) (j : StrandId) : (s.modTgt n f).str j = s.str j := rfl

/-! ### State.modWinR -/

@[simp] theorem State.modWinR_hw (s : State) (w : Fin 64) (f : RWin → RWin) : (s.modWinR w f).hw = s.hw := rfl
@[simp] theorem State.modWinR_feat (s : State) (w : Fin 64) (f : RWin → RWin) : (s.modWinR w f).feat = s.feat := rfl
@[simp] theorem State.modWinR_core (s : State) (w : Fin 64) (f : RWin → RWin) : (s.modWinR w f).core = s.core := rfl
@[simp] theorem State.modWinR_strands (s : State) (w : Fin 64) (f : RWin → RWin) : (s.modWinR w f).strands = s.strands := rfl
@[simp] theorem State.modWinR_near (s : State) (w : Fin 64) (f : RWin → RWin) : (s.modWinR w f).near = s.near := rfl
@[simp] theorem State.modWinR_home (s : State) (w : Fin 64) (f : RWin → RWin) : (s.modWinR w f).home = s.home := rfl
@[simp] theorem State.modWinR_spad (s : State) (w : Fin 64) (f : RWin → RWin) : (s.modWinR w f).spad = s.spad := rfl
@[simp] theorem State.modWinR_tiles (s : State) (w : Fin 64) (f : RWin → RWin) : (s.modWinR w f).tiles = s.tiles := rfl
@[simp] theorem State.modWinR_weevils (s : State) (w : Fin 64) (f : RWin → RWin) : (s.modWinR w f).weevils = s.weevils := rfl
@[simp] theorem State.modWinR_ms (s : State) (w : Fin 64) (f : RWin → RWin) : (s.modWinR w f).ms = s.ms := rfl
@[simp] theorem State.modWinR_queues (s : State) (w : Fin 64) (f : RWin → RWin) : (s.modWinR w f).queues = s.queues := rfl
@[simp] theorem State.modWinR_intu (s : State) (w : Fin 64) (f : RWin → RWin) : (s.modWinR w f).intu = s.intu := rfl
@[simp] theorem State.modWinR_rel (s : State) (w : Fin 64) (f : RWin → RWin) : (s.modWinR w f).rel = s.rel := rfl
@[simp] theorem State.modWinR_marks (s : State) (w : Fin 64) (f : RWin → RWin) : (s.modWinR w f).marks = s.marks := rfl
@[simp] theorem State.modWinR_pwr (s : State) (w : Fin 64) (f : RWin → RWin) : (s.modWinR w f).pwr = s.pwr := rfl
@[simp] theorem State.modWinR_image (s : State) (w : Fin 64) (f : RWin → RWin) : (s.modWinR w f).image = s.image := rfl
@[simp] theorem State.modWinR_shadow (s : State) (w : Fin 64) (f : RWin → RWin) : (s.modWinR w f).shadow = s.shadow := rfl
@[simp] theorem State.modWinR_defrec (s : State) (w : Fin 64) (f : RWin → RWin) : (s.modWinR w f).defrec = s.defrec := rfl
@[simp] theorem State.modWinR_serial (s : State) (w : Fin 64) (f : RWin → RWin) : (s.modWinR w f).serial = s.serial := rfl
@[simp] theorem State.modWinR_mgmt (s : State) (w : Fin 64) (f : RWin → RWin) : (s.modWinR w f).mgmt = s.mgmt := rfl
@[simp] theorem State.modWinR_strdbg (s : State) (w : Fin 64) (f : RWin → RWin) : (s.modWinR w f).strdbg = s.strdbg := rfl
@[simp] theorem State.modWinR_telem (s : State) (w : Fin 64) (f : RWin → RWin) : (s.modWinR w f).telem = s.telem := rfl
@[simp] theorem State.modWinR_trace (s : State) (w : Fin 64) (f : RWin → RWin) : (s.modWinR w f).trace = s.trace := rfl
@[simp] theorem State.modWinR_tap (s : State) (w : Fin 64) (f : RWin → RWin) : (s.modWinR w f).tap = s.tap := rfl
@[simp] theorem State.modWinR_free (s : State) (w : Fin 64) (f : RWin → RWin) : (s.modWinR w f).free = s.free := rfl
@[simp] theorem State.modWinR_out (s : State) (w : Fin 64) (f : RWin → RWin) : (s.modWinR w f).out = s.out := rfl
@[simp] theorem State.modWinR_pending (s : State) (w : Fin 64) (f : RWin → RWin) : (s.modWinR w f).pending = s.pending := rfl
@[simp] theorem State.modWinR_fetching (s : State) (w : Fin 64) (f : RWin → RWin) : (s.modWinR w f).fetching = s.fetching := rfl
@[simp] theorem State.modWinR_str (s : State) (w : Fin 64) (f : RWin → RWin) (j : StrandId) : (s.modWinR w f).str j = s.str j := rfl

/-! ### State.modRel -/

@[simp] theorem State.modRel_hw (s : State) (f : Rel → Rel) : (s.modRel f).hw = s.hw := rfl
@[simp] theorem State.modRel_feat (s : State) (f : Rel → Rel) : (s.modRel f).feat = s.feat := rfl
@[simp] theorem State.modRel_core (s : State) (f : Rel → Rel) : (s.modRel f).core = s.core := rfl
@[simp] theorem State.modRel_strands (s : State) (f : Rel → Rel) : (s.modRel f).strands = s.strands := rfl
@[simp] theorem State.modRel_near (s : State) (f : Rel → Rel) : (s.modRel f).near = s.near := rfl
@[simp] theorem State.modRel_home (s : State) (f : Rel → Rel) : (s.modRel f).home = s.home := rfl
@[simp] theorem State.modRel_spad (s : State) (f : Rel → Rel) : (s.modRel f).spad = s.spad := rfl
@[simp] theorem State.modRel_tiles (s : State) (f : Rel → Rel) : (s.modRel f).tiles = s.tiles := rfl
@[simp] theorem State.modRel_weevils (s : State) (f : Rel → Rel) : (s.modRel f).weevils = s.weevils := rfl
@[simp] theorem State.modRel_ms (s : State) (f : Rel → Rel) : (s.modRel f).ms = s.ms := rfl
@[simp] theorem State.modRel_far (s : State) (f : Rel → Rel) : (s.modRel f).far = s.far := rfl
@[simp] theorem State.modRel_queues (s : State) (f : Rel → Rel) : (s.modRel f).queues = s.queues := rfl
@[simp] theorem State.modRel_intu (s : State) (f : Rel → Rel) : (s.modRel f).intu = s.intu := rfl
@[simp] theorem State.modRel_rel (s : State) (f : Rel → Rel) : (s.modRel f).rel = f s.rel := rfl
@[simp] theorem State.modRel_marks (s : State) (f : Rel → Rel) : (s.modRel f).marks = s.marks := rfl
@[simp] theorem State.modRel_pwr (s : State) (f : Rel → Rel) : (s.modRel f).pwr = s.pwr := rfl
@[simp] theorem State.modRel_image (s : State) (f : Rel → Rel) : (s.modRel f).image = s.image := rfl
@[simp] theorem State.modRel_shadow (s : State) (f : Rel → Rel) : (s.modRel f).shadow = s.shadow := rfl
@[simp] theorem State.modRel_defrec (s : State) (f : Rel → Rel) : (s.modRel f).defrec = s.defrec := rfl
@[simp] theorem State.modRel_serial (s : State) (f : Rel → Rel) : (s.modRel f).serial = s.serial := rfl
@[simp] theorem State.modRel_mgmt (s : State) (f : Rel → Rel) : (s.modRel f).mgmt = s.mgmt := rfl
@[simp] theorem State.modRel_strdbg (s : State) (f : Rel → Rel) : (s.modRel f).strdbg = s.strdbg := rfl
@[simp] theorem State.modRel_telem (s : State) (f : Rel → Rel) : (s.modRel f).telem = s.telem := rfl
@[simp] theorem State.modRel_trace (s : State) (f : Rel → Rel) : (s.modRel f).trace = s.trace := rfl
@[simp] theorem State.modRel_tap (s : State) (f : Rel → Rel) : (s.modRel f).tap = s.tap := rfl
@[simp] theorem State.modRel_free (s : State) (f : Rel → Rel) : (s.modRel f).free = s.free := rfl
@[simp] theorem State.modRel_out (s : State) (f : Rel → Rel) : (s.modRel f).out = s.out := rfl
@[simp] theorem State.modRel_pending (s : State) (f : Rel → Rel) : (s.modRel f).pending = s.pending := rfl
@[simp] theorem State.modRel_fetching (s : State) (f : Rel → Rel) : (s.modRel f).fetching = s.fetching := rfl
@[simp] theorem State.modRel_str (s : State) (f : Rel → Rel) (j : StrandId) : (s.modRel f).str j = s.str j := rfl

/-! ### State.modPwr -/

@[simp] theorem State.modPwr_hw (s : State) (f : Pwr → Pwr) : (s.modPwr f).hw = s.hw := rfl
@[simp] theorem State.modPwr_feat (s : State) (f : Pwr → Pwr) : (s.modPwr f).feat = s.feat := rfl
@[simp] theorem State.modPwr_core (s : State) (f : Pwr → Pwr) : (s.modPwr f).core = s.core := rfl
@[simp] theorem State.modPwr_strands (s : State) (f : Pwr → Pwr) : (s.modPwr f).strands = s.strands := rfl
@[simp] theorem State.modPwr_near (s : State) (f : Pwr → Pwr) : (s.modPwr f).near = s.near := rfl
@[simp] theorem State.modPwr_home (s : State) (f : Pwr → Pwr) : (s.modPwr f).home = s.home := rfl
@[simp] theorem State.modPwr_spad (s : State) (f : Pwr → Pwr) : (s.modPwr f).spad = s.spad := rfl
@[simp] theorem State.modPwr_tiles (s : State) (f : Pwr → Pwr) : (s.modPwr f).tiles = s.tiles := rfl
@[simp] theorem State.modPwr_weevils (s : State) (f : Pwr → Pwr) : (s.modPwr f).weevils = s.weevils := rfl
@[simp] theorem State.modPwr_ms (s : State) (f : Pwr → Pwr) : (s.modPwr f).ms = s.ms := rfl
@[simp] theorem State.modPwr_far (s : State) (f : Pwr → Pwr) : (s.modPwr f).far = s.far := rfl
@[simp] theorem State.modPwr_queues (s : State) (f : Pwr → Pwr) : (s.modPwr f).queues = s.queues := rfl
@[simp] theorem State.modPwr_intu (s : State) (f : Pwr → Pwr) : (s.modPwr f).intu = s.intu := rfl
@[simp] theorem State.modPwr_rel (s : State) (f : Pwr → Pwr) : (s.modPwr f).rel = s.rel := rfl
@[simp] theorem State.modPwr_marks (s : State) (f : Pwr → Pwr) : (s.modPwr f).marks = s.marks := rfl
@[simp] theorem State.modPwr_pwr (s : State) (f : Pwr → Pwr) : (s.modPwr f).pwr = f s.pwr := rfl
@[simp] theorem State.modPwr_image (s : State) (f : Pwr → Pwr) : (s.modPwr f).image = s.image := rfl
@[simp] theorem State.modPwr_shadow (s : State) (f : Pwr → Pwr) : (s.modPwr f).shadow = s.shadow := rfl
@[simp] theorem State.modPwr_defrec (s : State) (f : Pwr → Pwr) : (s.modPwr f).defrec = s.defrec := rfl
@[simp] theorem State.modPwr_serial (s : State) (f : Pwr → Pwr) : (s.modPwr f).serial = s.serial := rfl
@[simp] theorem State.modPwr_mgmt (s : State) (f : Pwr → Pwr) : (s.modPwr f).mgmt = s.mgmt := rfl
@[simp] theorem State.modPwr_strdbg (s : State) (f : Pwr → Pwr) : (s.modPwr f).strdbg = s.strdbg := rfl
@[simp] theorem State.modPwr_telem (s : State) (f : Pwr → Pwr) : (s.modPwr f).telem = s.telem := rfl
@[simp] theorem State.modPwr_trace (s : State) (f : Pwr → Pwr) : (s.modPwr f).trace = s.trace := rfl
@[simp] theorem State.modPwr_tap (s : State) (f : Pwr → Pwr) : (s.modPwr f).tap = s.tap := rfl
@[simp] theorem State.modPwr_free (s : State) (f : Pwr → Pwr) : (s.modPwr f).free = s.free := rfl
@[simp] theorem State.modPwr_out (s : State) (f : Pwr → Pwr) : (s.modPwr f).out = s.out := rfl
@[simp] theorem State.modPwr_pending (s : State) (f : Pwr → Pwr) : (s.modPwr f).pending = s.pending := rfl
@[simp] theorem State.modPwr_fetching (s : State) (f : Pwr → Pwr) : (s.modPwr f).fetching = s.fetching := rfl
@[simp] theorem State.modPwr_str (s : State) (f : Pwr → Pwr) (j : StrandId) : (s.modPwr f).str j = s.str j := rfl

/-! ### State.modMgmt -/

@[simp] theorem State.modMgmt_hw (s : State) (f : Mgmt → Mgmt) : (s.modMgmt f).hw = s.hw := rfl
@[simp] theorem State.modMgmt_feat (s : State) (f : Mgmt → Mgmt) : (s.modMgmt f).feat = s.feat := rfl
@[simp] theorem State.modMgmt_core (s : State) (f : Mgmt → Mgmt) : (s.modMgmt f).core = s.core := rfl
@[simp] theorem State.modMgmt_strands (s : State) (f : Mgmt → Mgmt) : (s.modMgmt f).strands = s.strands := rfl
@[simp] theorem State.modMgmt_near (s : State) (f : Mgmt → Mgmt) : (s.modMgmt f).near = s.near := rfl
@[simp] theorem State.modMgmt_home (s : State) (f : Mgmt → Mgmt) : (s.modMgmt f).home = s.home := rfl
@[simp] theorem State.modMgmt_spad (s : State) (f : Mgmt → Mgmt) : (s.modMgmt f).spad = s.spad := rfl
@[simp] theorem State.modMgmt_tiles (s : State) (f : Mgmt → Mgmt) : (s.modMgmt f).tiles = s.tiles := rfl
@[simp] theorem State.modMgmt_weevils (s : State) (f : Mgmt → Mgmt) : (s.modMgmt f).weevils = s.weevils := rfl
@[simp] theorem State.modMgmt_ms (s : State) (f : Mgmt → Mgmt) : (s.modMgmt f).ms = s.ms := rfl
@[simp] theorem State.modMgmt_far (s : State) (f : Mgmt → Mgmt) : (s.modMgmt f).far = s.far := rfl
@[simp] theorem State.modMgmt_queues (s : State) (f : Mgmt → Mgmt) : (s.modMgmt f).queues = s.queues := rfl
@[simp] theorem State.modMgmt_intu (s : State) (f : Mgmt → Mgmt) : (s.modMgmt f).intu = s.intu := rfl
@[simp] theorem State.modMgmt_rel (s : State) (f : Mgmt → Mgmt) : (s.modMgmt f).rel = s.rel := rfl
@[simp] theorem State.modMgmt_marks (s : State) (f : Mgmt → Mgmt) : (s.modMgmt f).marks = s.marks := rfl
@[simp] theorem State.modMgmt_pwr (s : State) (f : Mgmt → Mgmt) : (s.modMgmt f).pwr = s.pwr := rfl
@[simp] theorem State.modMgmt_image (s : State) (f : Mgmt → Mgmt) : (s.modMgmt f).image = s.image := rfl
@[simp] theorem State.modMgmt_shadow (s : State) (f : Mgmt → Mgmt) : (s.modMgmt f).shadow = s.shadow := rfl
@[simp] theorem State.modMgmt_defrec (s : State) (f : Mgmt → Mgmt) : (s.modMgmt f).defrec = s.defrec := rfl
@[simp] theorem State.modMgmt_serial (s : State) (f : Mgmt → Mgmt) : (s.modMgmt f).serial = s.serial := rfl
@[simp] theorem State.modMgmt_mgmt (s : State) (f : Mgmt → Mgmt) : (s.modMgmt f).mgmt = f s.mgmt := rfl
@[simp] theorem State.modMgmt_strdbg (s : State) (f : Mgmt → Mgmt) : (s.modMgmt f).strdbg = s.strdbg := rfl
@[simp] theorem State.modMgmt_telem (s : State) (f : Mgmt → Mgmt) : (s.modMgmt f).telem = s.telem := rfl
@[simp] theorem State.modMgmt_trace (s : State) (f : Mgmt → Mgmt) : (s.modMgmt f).trace = s.trace := rfl
@[simp] theorem State.modMgmt_tap (s : State) (f : Mgmt → Mgmt) : (s.modMgmt f).tap = s.tap := rfl
@[simp] theorem State.modMgmt_free (s : State) (f : Mgmt → Mgmt) : (s.modMgmt f).free = s.free := rfl
@[simp] theorem State.modMgmt_out (s : State) (f : Mgmt → Mgmt) : (s.modMgmt f).out = s.out := rfl
@[simp] theorem State.modMgmt_pending (s : State) (f : Mgmt → Mgmt) : (s.modMgmt f).pending = s.pending := rfl
@[simp] theorem State.modMgmt_fetching (s : State) (f : Mgmt → Mgmt) : (s.modMgmt f).fetching = s.fetching := rfl
@[simp] theorem State.modMgmt_str (s : State) (f : Mgmt → Mgmt) (j : StrandId) : (s.modMgmt f).str j = s.str j := rfl

/-! ### State.modIntu -/

@[simp] theorem State.modIntu_hw (s : State) (f : Intu → Intu) : (s.modIntu f).hw = s.hw := rfl
@[simp] theorem State.modIntu_feat (s : State) (f : Intu → Intu) : (s.modIntu f).feat = s.feat := rfl
@[simp] theorem State.modIntu_core (s : State) (f : Intu → Intu) : (s.modIntu f).core = s.core := rfl
@[simp] theorem State.modIntu_strands (s : State) (f : Intu → Intu) : (s.modIntu f).strands = s.strands := rfl
@[simp] theorem State.modIntu_near (s : State) (f : Intu → Intu) : (s.modIntu f).near = s.near := rfl
@[simp] theorem State.modIntu_home (s : State) (f : Intu → Intu) : (s.modIntu f).home = s.home := rfl
@[simp] theorem State.modIntu_spad (s : State) (f : Intu → Intu) : (s.modIntu f).spad = s.spad := rfl
@[simp] theorem State.modIntu_tiles (s : State) (f : Intu → Intu) : (s.modIntu f).tiles = s.tiles := rfl
@[simp] theorem State.modIntu_weevils (s : State) (f : Intu → Intu) : (s.modIntu f).weevils = s.weevils := rfl
@[simp] theorem State.modIntu_ms (s : State) (f : Intu → Intu) : (s.modIntu f).ms = s.ms := rfl
@[simp] theorem State.modIntu_far (s : State) (f : Intu → Intu) : (s.modIntu f).far = s.far := rfl
@[simp] theorem State.modIntu_queues (s : State) (f : Intu → Intu) : (s.modIntu f).queues = s.queues := rfl
@[simp] theorem State.modIntu_intu (s : State) (f : Intu → Intu) : (s.modIntu f).intu = f s.intu := rfl
@[simp] theorem State.modIntu_rel (s : State) (f : Intu → Intu) : (s.modIntu f).rel = s.rel := rfl
@[simp] theorem State.modIntu_marks (s : State) (f : Intu → Intu) : (s.modIntu f).marks = s.marks := rfl
@[simp] theorem State.modIntu_pwr (s : State) (f : Intu → Intu) : (s.modIntu f).pwr = s.pwr := rfl
@[simp] theorem State.modIntu_image (s : State) (f : Intu → Intu) : (s.modIntu f).image = s.image := rfl
@[simp] theorem State.modIntu_shadow (s : State) (f : Intu → Intu) : (s.modIntu f).shadow = s.shadow := rfl
@[simp] theorem State.modIntu_defrec (s : State) (f : Intu → Intu) : (s.modIntu f).defrec = s.defrec := rfl
@[simp] theorem State.modIntu_serial (s : State) (f : Intu → Intu) : (s.modIntu f).serial = s.serial := rfl
@[simp] theorem State.modIntu_mgmt (s : State) (f : Intu → Intu) : (s.modIntu f).mgmt = s.mgmt := rfl
@[simp] theorem State.modIntu_strdbg (s : State) (f : Intu → Intu) : (s.modIntu f).strdbg = s.strdbg := rfl
@[simp] theorem State.modIntu_telem (s : State) (f : Intu → Intu) : (s.modIntu f).telem = s.telem := rfl
@[simp] theorem State.modIntu_trace (s : State) (f : Intu → Intu) : (s.modIntu f).trace = s.trace := rfl
@[simp] theorem State.modIntu_tap (s : State) (f : Intu → Intu) : (s.modIntu f).tap = s.tap := rfl
@[simp] theorem State.modIntu_free (s : State) (f : Intu → Intu) : (s.modIntu f).free = s.free := rfl
@[simp] theorem State.modIntu_out (s : State) (f : Intu → Intu) : (s.modIntu f).out = s.out := rfl
@[simp] theorem State.modIntu_pending (s : State) (f : Intu → Intu) : (s.modIntu f).pending = s.pending := rfl
@[simp] theorem State.modIntu_fetching (s : State) (f : Intu → Intu) : (s.modIntu f).fetching = s.fetching := rfl
@[simp] theorem State.modIntu_str (s : State) (f : Intu → Intu) (j : StrandId) : (s.modIntu f).str j = s.str j := rfl

/-! ### State.modEng -/

@[simp] theorem State.modEng_hw (s : State) (n : Fin 4) (f : Engine → Engine) : (s.modEng n f).hw = s.hw := rfl
@[simp] theorem State.modEng_feat (s : State) (n : Fin 4) (f : Engine → Engine) : (s.modEng n f).feat = s.feat := rfl
@[simp] theorem State.modEng_core (s : State) (n : Fin 4) (f : Engine → Engine) : (s.modEng n f).core = s.core := rfl
@[simp] theorem State.modEng_strands (s : State) (n : Fin 4) (f : Engine → Engine) : (s.modEng n f).strands = s.strands := rfl
@[simp] theorem State.modEng_near (s : State) (n : Fin 4) (f : Engine → Engine) : (s.modEng n f).near = s.near := rfl
@[simp] theorem State.modEng_home (s : State) (n : Fin 4) (f : Engine → Engine) : (s.modEng n f).home = s.home := rfl
@[simp] theorem State.modEng_spad (s : State) (n : Fin 4) (f : Engine → Engine) : (s.modEng n f).spad = s.spad := rfl
@[simp] theorem State.modEng_tiles (s : State) (n : Fin 4) (f : Engine → Engine) : (s.modEng n f).tiles = s.tiles := rfl
@[simp] theorem State.modEng_weevils (s : State) (n : Fin 4) (f : Engine → Engine) : (s.modEng n f).weevils = vmod s.weevils n f := rfl
@[simp] theorem State.modEng_ms (s : State) (n : Fin 4) (f : Engine → Engine) : (s.modEng n f).ms = s.ms := rfl
@[simp] theorem State.modEng_far (s : State) (n : Fin 4) (f : Engine → Engine) : (s.modEng n f).far = s.far := rfl
@[simp] theorem State.modEng_queues (s : State) (n : Fin 4) (f : Engine → Engine) : (s.modEng n f).queues = s.queues := rfl
@[simp] theorem State.modEng_intu (s : State) (n : Fin 4) (f : Engine → Engine) : (s.modEng n f).intu = s.intu := rfl
@[simp] theorem State.modEng_rel (s : State) (n : Fin 4) (f : Engine → Engine) : (s.modEng n f).rel = s.rel := rfl
@[simp] theorem State.modEng_marks (s : State) (n : Fin 4) (f : Engine → Engine) : (s.modEng n f).marks = s.marks := rfl
@[simp] theorem State.modEng_pwr (s : State) (n : Fin 4) (f : Engine → Engine) : (s.modEng n f).pwr = s.pwr := rfl
@[simp] theorem State.modEng_image (s : State) (n : Fin 4) (f : Engine → Engine) : (s.modEng n f).image = s.image := rfl
@[simp] theorem State.modEng_shadow (s : State) (n : Fin 4) (f : Engine → Engine) : (s.modEng n f).shadow = s.shadow := rfl
@[simp] theorem State.modEng_defrec (s : State) (n : Fin 4) (f : Engine → Engine) : (s.modEng n f).defrec = s.defrec := rfl
@[simp] theorem State.modEng_serial (s : State) (n : Fin 4) (f : Engine → Engine) : (s.modEng n f).serial = s.serial := rfl
@[simp] theorem State.modEng_mgmt (s : State) (n : Fin 4) (f : Engine → Engine) : (s.modEng n f).mgmt = s.mgmt := rfl
@[simp] theorem State.modEng_strdbg (s : State) (n : Fin 4) (f : Engine → Engine) : (s.modEng n f).strdbg = s.strdbg := rfl
@[simp] theorem State.modEng_telem (s : State) (n : Fin 4) (f : Engine → Engine) : (s.modEng n f).telem = s.telem := rfl
@[simp] theorem State.modEng_trace (s : State) (n : Fin 4) (f : Engine → Engine) : (s.modEng n f).trace = s.trace := rfl
@[simp] theorem State.modEng_tap (s : State) (n : Fin 4) (f : Engine → Engine) : (s.modEng n f).tap = s.tap := rfl
@[simp] theorem State.modEng_free (s : State) (n : Fin 4) (f : Engine → Engine) : (s.modEng n f).free = s.free := rfl
@[simp] theorem State.modEng_out (s : State) (n : Fin 4) (f : Engine → Engine) : (s.modEng n f).out = s.out := rfl
@[simp] theorem State.modEng_pending (s : State) (n : Fin 4) (f : Engine → Engine) : (s.modEng n f).pending = s.pending := rfl
@[simp] theorem State.modEng_fetching (s : State) (n : Fin 4) (f : Engine → Engine) : (s.modEng n f).fetching = s.fetching := rfl
@[simp] theorem State.modEng_str (s : State) (n : Fin 4) (f : Engine → Engine) (j : StrandId) : (s.modEng n f).str j = s.str j := rfl

/-! ### State.modQ -/

@[simp] theorem State.modQ_hw (s : State) (q : Nat) (f : QDesc → QDesc) : (s.modQ q f).hw = s.hw := rfl
@[simp] theorem State.modQ_feat (s : State) (q : Nat) (f : QDesc → QDesc) : (s.modQ q f).feat = s.feat := rfl
@[simp] theorem State.modQ_core (s : State) (q : Nat) (f : QDesc → QDesc) : (s.modQ q f).core = s.core := rfl
@[simp] theorem State.modQ_strands (s : State) (q : Nat) (f : QDesc → QDesc) : (s.modQ q f).strands = s.strands := rfl
@[simp] theorem State.modQ_near (s : State) (q : Nat) (f : QDesc → QDesc) : (s.modQ q f).near = s.near := rfl
@[simp] theorem State.modQ_home (s : State) (q : Nat) (f : QDesc → QDesc) : (s.modQ q f).home = s.home := rfl
@[simp] theorem State.modQ_spad (s : State) (q : Nat) (f : QDesc → QDesc) : (s.modQ q f).spad = s.spad := rfl
@[simp] theorem State.modQ_tiles (s : State) (q : Nat) (f : QDesc → QDesc) : (s.modQ q f).tiles = s.tiles := rfl
@[simp] theorem State.modQ_weevils (s : State) (q : Nat) (f : QDesc → QDesc) : (s.modQ q f).weevils = s.weevils := rfl
@[simp] theorem State.modQ_ms (s : State) (q : Nat) (f : QDesc → QDesc) : (s.modQ q f).ms = s.ms := rfl
@[simp] theorem State.modQ_far (s : State) (q : Nat) (f : QDesc → QDesc) : (s.modQ q f).far = s.far := rfl
@[simp] theorem State.modQ_intu (s : State) (q : Nat) (f : QDesc → QDesc) : (s.modQ q f).intu = s.intu := rfl
@[simp] theorem State.modQ_rel (s : State) (q : Nat) (f : QDesc → QDesc) : (s.modQ q f).rel = s.rel := rfl
@[simp] theorem State.modQ_marks (s : State) (q : Nat) (f : QDesc → QDesc) : (s.modQ q f).marks = s.marks := rfl
@[simp] theorem State.modQ_pwr (s : State) (q : Nat) (f : QDesc → QDesc) : (s.modQ q f).pwr = s.pwr := rfl
@[simp] theorem State.modQ_image (s : State) (q : Nat) (f : QDesc → QDesc) : (s.modQ q f).image = s.image := rfl
@[simp] theorem State.modQ_shadow (s : State) (q : Nat) (f : QDesc → QDesc) : (s.modQ q f).shadow = s.shadow := rfl
@[simp] theorem State.modQ_defrec (s : State) (q : Nat) (f : QDesc → QDesc) : (s.modQ q f).defrec = s.defrec := rfl
@[simp] theorem State.modQ_serial (s : State) (q : Nat) (f : QDesc → QDesc) : (s.modQ q f).serial = s.serial := rfl
@[simp] theorem State.modQ_mgmt (s : State) (q : Nat) (f : QDesc → QDesc) : (s.modQ q f).mgmt = s.mgmt := rfl
@[simp] theorem State.modQ_strdbg (s : State) (q : Nat) (f : QDesc → QDesc) : (s.modQ q f).strdbg = s.strdbg := rfl
@[simp] theorem State.modQ_telem (s : State) (q : Nat) (f : QDesc → QDesc) : (s.modQ q f).telem = s.telem := rfl
@[simp] theorem State.modQ_trace (s : State) (q : Nat) (f : QDesc → QDesc) : (s.modQ q f).trace = s.trace := rfl
@[simp] theorem State.modQ_tap (s : State) (q : Nat) (f : QDesc → QDesc) : (s.modQ q f).tap = s.tap := rfl
@[simp] theorem State.modQ_free (s : State) (q : Nat) (f : QDesc → QDesc) : (s.modQ q f).free = s.free := rfl
@[simp] theorem State.modQ_out (s : State) (q : Nat) (f : QDesc → QDesc) : (s.modQ q f).out = s.out := rfl
@[simp] theorem State.modQ_pending (s : State) (q : Nat) (f : QDesc → QDesc) : (s.modQ q f).pending = s.pending := rfl
@[simp] theorem State.modQ_fetching (s : State) (q : Nat) (f : QDesc → QDesc) : (s.modQ q f).fetching = s.fetching := rfl
@[simp] theorem State.modQ_str (s : State) (q : Nat) (f : QDesc → QDesc) (j : StrandId) : (s.modQ q f).str j = s.str j := rfl

/-! ### State.useQ -/

@[simp] theorem State.useQ_hw (s : State) (q : Nat) : (s.useQ q).hw = s.hw := rfl
@[simp] theorem State.useQ_feat (s : State) (q : Nat) : (s.useQ q).feat = s.feat := rfl
@[simp] theorem State.useQ_core (s : State) (q : Nat) : (s.useQ q).core = s.core := rfl
@[simp] theorem State.useQ_strands (s : State) (q : Nat) : (s.useQ q).strands = s.strands := rfl
@[simp] theorem State.useQ_near (s : State) (q : Nat) : (s.useQ q).near = s.near := rfl
@[simp] theorem State.useQ_home (s : State) (q : Nat) : (s.useQ q).home = s.home := rfl
@[simp] theorem State.useQ_spad (s : State) (q : Nat) : (s.useQ q).spad = s.spad := rfl
@[simp] theorem State.useQ_tiles (s : State) (q : Nat) : (s.useQ q).tiles = s.tiles := rfl
@[simp] theorem State.useQ_weevils (s : State) (q : Nat) : (s.useQ q).weevils = s.weevils := rfl
@[simp] theorem State.useQ_ms (s : State) (q : Nat) : (s.useQ q).ms = s.ms := rfl
@[simp] theorem State.useQ_far (s : State) (q : Nat) : (s.useQ q).far = s.far := rfl
@[simp] theorem State.useQ_intu (s : State) (q : Nat) : (s.useQ q).intu = s.intu := rfl
@[simp] theorem State.useQ_rel (s : State) (q : Nat) : (s.useQ q).rel = s.rel := rfl
@[simp] theorem State.useQ_marks (s : State) (q : Nat) : (s.useQ q).marks = s.marks := rfl
@[simp] theorem State.useQ_pwr (s : State) (q : Nat) : (s.useQ q).pwr = s.pwr := rfl
@[simp] theorem State.useQ_image (s : State) (q : Nat) : (s.useQ q).image = s.image := rfl
@[simp] theorem State.useQ_shadow (s : State) (q : Nat) : (s.useQ q).shadow = s.shadow := rfl
@[simp] theorem State.useQ_defrec (s : State) (q : Nat) : (s.useQ q).defrec = s.defrec := rfl
@[simp] theorem State.useQ_serial (s : State) (q : Nat) : (s.useQ q).serial = s.serial := rfl
@[simp] theorem State.useQ_mgmt (s : State) (q : Nat) : (s.useQ q).mgmt = s.mgmt := rfl
@[simp] theorem State.useQ_strdbg (s : State) (q : Nat) : (s.useQ q).strdbg = s.strdbg := rfl
@[simp] theorem State.useQ_telem (s : State) (q : Nat) : (s.useQ q).telem = s.telem := rfl
@[simp] theorem State.useQ_trace (s : State) (q : Nat) : (s.useQ q).trace = s.trace := rfl
@[simp] theorem State.useQ_tap (s : State) (q : Nat) : (s.useQ q).tap = s.tap := rfl
@[simp] theorem State.useQ_free (s : State) (q : Nat) : (s.useQ q).free = s.free := rfl
@[simp] theorem State.useQ_out (s : State) (q : Nat) : (s.useQ q).out = s.out := rfl
@[simp] theorem State.useQ_pending (s : State) (q : Nat) : (s.useQ q).pending = s.pending := rfl
@[simp] theorem State.useQ_fetching (s : State) (q : Nat) : (s.useQ q).fetching = s.fetching := rfl
@[simp] theorem State.useQ_str (s : State) (q : Nat) (j : StrandId) : (s.useQ q).str j = s.str j := rfl

/-! ### State.dropMark -/

@[simp] theorem State.dropMark_hw (s : State) (c l : Nat) : (s.dropMark c l).hw = s.hw := rfl
@[simp] theorem State.dropMark_feat (s : State) (c l : Nat) : (s.dropMark c l).feat = s.feat := rfl
@[simp] theorem State.dropMark_core (s : State) (c l : Nat) : (s.dropMark c l).core = s.core := rfl
@[simp] theorem State.dropMark_strands (s : State) (c l : Nat) : (s.dropMark c l).strands = s.strands := rfl
@[simp] theorem State.dropMark_near (s : State) (c l : Nat) : (s.dropMark c l).near = s.near := rfl
@[simp] theorem State.dropMark_home (s : State) (c l : Nat) : (s.dropMark c l).home = s.home := rfl
@[simp] theorem State.dropMark_spad (s : State) (c l : Nat) : (s.dropMark c l).spad = s.spad := rfl
@[simp] theorem State.dropMark_tiles (s : State) (c l : Nat) : (s.dropMark c l).tiles = s.tiles := rfl
@[simp] theorem State.dropMark_weevils (s : State) (c l : Nat) : (s.dropMark c l).weevils = s.weevils := rfl
@[simp] theorem State.dropMark_ms (s : State) (c l : Nat) : (s.dropMark c l).ms = s.ms := rfl
@[simp] theorem State.dropMark_far (s : State) (c l : Nat) : (s.dropMark c l).far = s.far := rfl
@[simp] theorem State.dropMark_queues (s : State) (c l : Nat) : (s.dropMark c l).queues = s.queues := rfl
@[simp] theorem State.dropMark_intu (s : State) (c l : Nat) : (s.dropMark c l).intu = s.intu := rfl
@[simp] theorem State.dropMark_rel (s : State) (c l : Nat) : (s.dropMark c l).rel = s.rel := rfl
@[simp] theorem State.dropMark_pwr (s : State) (c l : Nat) : (s.dropMark c l).pwr = s.pwr := rfl
@[simp] theorem State.dropMark_image (s : State) (c l : Nat) : (s.dropMark c l).image = s.image := rfl
@[simp] theorem State.dropMark_shadow (s : State) (c l : Nat) : (s.dropMark c l).shadow = s.shadow := rfl
@[simp] theorem State.dropMark_defrec (s : State) (c l : Nat) : (s.dropMark c l).defrec = s.defrec := rfl
@[simp] theorem State.dropMark_serial (s : State) (c l : Nat) : (s.dropMark c l).serial = s.serial := rfl
@[simp] theorem State.dropMark_mgmt (s : State) (c l : Nat) : (s.dropMark c l).mgmt = s.mgmt := rfl
@[simp] theorem State.dropMark_strdbg (s : State) (c l : Nat) : (s.dropMark c l).strdbg = s.strdbg := rfl
@[simp] theorem State.dropMark_telem (s : State) (c l : Nat) : (s.dropMark c l).telem = s.telem := rfl
@[simp] theorem State.dropMark_trace (s : State) (c l : Nat) : (s.dropMark c l).trace = s.trace := rfl
@[simp] theorem State.dropMark_tap (s : State) (c l : Nat) : (s.dropMark c l).tap = s.tap := rfl
@[simp] theorem State.dropMark_free (s : State) (c l : Nat) : (s.dropMark c l).free = s.free := rfl
@[simp] theorem State.dropMark_out (s : State) (c l : Nat) : (s.dropMark c l).out = s.out := rfl
@[simp] theorem State.dropMark_pending (s : State) (c l : Nat) : (s.dropMark c l).pending = s.pending := rfl
@[simp] theorem State.dropMark_fetching (s : State) (c l : Nat) : (s.dropMark c l).fetching = s.fetching := rfl
@[simp] theorem State.dropMark_str (s : State) (c l : Nat) (j : StrandId) : (s.dropMark c l).str j = s.str j := rfl

/-! ### State.addMark -/

@[simp] theorem State.addMark_hw (s : State) (m : ErrMark) : (s.addMark m).hw = s.hw := rfl
@[simp] theorem State.addMark_feat (s : State) (m : ErrMark) : (s.addMark m).feat = s.feat := rfl
@[simp] theorem State.addMark_core (s : State) (m : ErrMark) : (s.addMark m).core = s.core := rfl
@[simp] theorem State.addMark_strands (s : State) (m : ErrMark) : (s.addMark m).strands = s.strands := rfl
@[simp] theorem State.addMark_near (s : State) (m : ErrMark) : (s.addMark m).near = s.near := rfl
@[simp] theorem State.addMark_home (s : State) (m : ErrMark) : (s.addMark m).home = s.home := rfl
@[simp] theorem State.addMark_spad (s : State) (m : ErrMark) : (s.addMark m).spad = s.spad := rfl
@[simp] theorem State.addMark_tiles (s : State) (m : ErrMark) : (s.addMark m).tiles = s.tiles := rfl
@[simp] theorem State.addMark_weevils (s : State) (m : ErrMark) : (s.addMark m).weevils = s.weevils := rfl
@[simp] theorem State.addMark_ms (s : State) (m : ErrMark) : (s.addMark m).ms = s.ms := rfl
@[simp] theorem State.addMark_far (s : State) (m : ErrMark) : (s.addMark m).far = s.far := rfl
@[simp] theorem State.addMark_queues (s : State) (m : ErrMark) : (s.addMark m).queues = s.queues := rfl
@[simp] theorem State.addMark_intu (s : State) (m : ErrMark) : (s.addMark m).intu = s.intu := rfl
@[simp] theorem State.addMark_rel (s : State) (m : ErrMark) : (s.addMark m).rel = s.rel := rfl
@[simp] theorem State.addMark_marks (s : State) (m : ErrMark) : (s.addMark m).marks = s.marks ++ [m] := rfl
@[simp] theorem State.addMark_pwr (s : State) (m : ErrMark) : (s.addMark m).pwr = s.pwr := rfl
@[simp] theorem State.addMark_image (s : State) (m : ErrMark) : (s.addMark m).image = s.image := rfl
@[simp] theorem State.addMark_shadow (s : State) (m : ErrMark) : (s.addMark m).shadow = s.shadow := rfl
@[simp] theorem State.addMark_defrec (s : State) (m : ErrMark) : (s.addMark m).defrec = s.defrec := rfl
@[simp] theorem State.addMark_serial (s : State) (m : ErrMark) : (s.addMark m).serial = s.serial := rfl
@[simp] theorem State.addMark_mgmt (s : State) (m : ErrMark) : (s.addMark m).mgmt = s.mgmt := rfl
@[simp] theorem State.addMark_strdbg (s : State) (m : ErrMark) : (s.addMark m).strdbg = s.strdbg := rfl
@[simp] theorem State.addMark_telem (s : State) (m : ErrMark) : (s.addMark m).telem = s.telem := rfl
@[simp] theorem State.addMark_trace (s : State) (m : ErrMark) : (s.addMark m).trace = s.trace := rfl
@[simp] theorem State.addMark_tap (s : State) (m : ErrMark) : (s.addMark m).tap = s.tap := rfl
@[simp] theorem State.addMark_free (s : State) (m : ErrMark) : (s.addMark m).free = s.free := rfl
@[simp] theorem State.addMark_out (s : State) (m : ErrMark) : (s.addMark m).out = s.out := rfl
@[simp] theorem State.addMark_pending (s : State) (m : ErrMark) : (s.addMark m).pending = s.pending := rfl
@[simp] theorem State.addMark_fetching (s : State) (m : ErrMark) : (s.addMark m).fetching = s.fetching := rfl
@[simp] theorem State.addMark_str (s : State) (m : ErrMark) (j : StrandId) : (s.addMark m).str j = s.str j := rfl

/-! ### retire -/

@[simp] theorem retire_hw (s : State) (k : StrandId) (n : Nat) : (retire s k n).hw = s.hw := rfl
@[simp] theorem retire_feat (s : State) (k : StrandId) (n : Nat) : (retire s k n).feat = s.feat := rfl
@[simp] theorem retire_core (s : State) (k : StrandId) (n : Nat) : (retire s k n).core = s.core := rfl
@[simp] theorem retire_near (s : State) (k : StrandId) (n : Nat) : (retire s k n).near = s.near := rfl
@[simp] theorem retire_home (s : State) (k : StrandId) (n : Nat) : (retire s k n).home = s.home := rfl
@[simp] theorem retire_spad (s : State) (k : StrandId) (n : Nat) : (retire s k n).spad = s.spad := rfl
@[simp] theorem retire_tiles (s : State) (k : StrandId) (n : Nat) : (retire s k n).tiles = s.tiles := rfl
@[simp] theorem retire_weevils (s : State) (k : StrandId) (n : Nat) : (retire s k n).weevils = s.weevils := rfl
@[simp] theorem retire_ms (s : State) (k : StrandId) (n : Nat) : (retire s k n).ms = s.ms := rfl
@[simp] theorem retire_far (s : State) (k : StrandId) (n : Nat) : (retire s k n).far = s.far := rfl
@[simp] theorem retire_queues (s : State) (k : StrandId) (n : Nat) : (retire s k n).queues = s.queues := rfl
@[simp] theorem retire_intu (s : State) (k : StrandId) (n : Nat) : (retire s k n).intu = s.intu := rfl
@[simp] theorem retire_rel (s : State) (k : StrandId) (n : Nat) : (retire s k n).rel = s.rel := rfl
@[simp] theorem retire_marks (s : State) (k : StrandId) (n : Nat) : (retire s k n).marks = s.marks := rfl
@[simp] theorem retire_pwr (s : State) (k : StrandId) (n : Nat) : (retire s k n).pwr = s.pwr := rfl
@[simp] theorem retire_image (s : State) (k : StrandId) (n : Nat) : (retire s k n).image = s.image := rfl
@[simp] theorem retire_shadow (s : State) (k : StrandId) (n : Nat) : (retire s k n).shadow = s.shadow := rfl
@[simp] theorem retire_defrec (s : State) (k : StrandId) (n : Nat) : (retire s k n).defrec = s.defrec := rfl
@[simp] theorem retire_serial (s : State) (k : StrandId) (n : Nat) : (retire s k n).serial = s.serial := rfl
@[simp] theorem retire_mgmt (s : State) (k : StrandId) (n : Nat) : (retire s k n).mgmt = s.mgmt := rfl
@[simp] theorem retire_strdbg (s : State) (k : StrandId) (n : Nat) : (retire s k n).strdbg = s.strdbg := rfl
@[simp] theorem retire_telem (s : State) (k : StrandId) (n : Nat) : (retire s k n).telem = s.telem := rfl
@[simp] theorem retire_trace (s : State) (k : StrandId) (n : Nat) : (retire s k n).trace = s.trace := rfl
@[simp] theorem retire_tap (s : State) (k : StrandId) (n : Nat) : (retire s k n).tap = s.tap := rfl
@[simp] theorem retire_free (s : State) (k : StrandId) (n : Nat) : (retire s k n).free = s.free := rfl
@[simp] theorem retire_out (s : State) (k : StrandId) (n : Nat) : (retire s k n).out = s.out := rfl
@[simp] theorem retire_pending (s : State) (k : StrandId) (n : Nat) : (retire s k n).pending = s.pending := rfl
@[simp] theorem retire_fetching (s : State) (k : StrandId) (n : Nat) : (retire s k n).fetching = s.fetching := rfl

/-! ### retireTo -/

@[simp] theorem retireTo_hw (s : State) (k : StrandId) (pc : Word) : (retireTo s k pc).hw = s.hw := rfl
@[simp] theorem retireTo_feat (s : State) (k : StrandId) (pc : Word) : (retireTo s k pc).feat = s.feat := rfl
@[simp] theorem retireTo_core (s : State) (k : StrandId) (pc : Word) : (retireTo s k pc).core = s.core := rfl
@[simp] theorem retireTo_near (s : State) (k : StrandId) (pc : Word) : (retireTo s k pc).near = s.near := rfl
@[simp] theorem retireTo_home (s : State) (k : StrandId) (pc : Word) : (retireTo s k pc).home = s.home := rfl
@[simp] theorem retireTo_spad (s : State) (k : StrandId) (pc : Word) : (retireTo s k pc).spad = s.spad := rfl
@[simp] theorem retireTo_tiles (s : State) (k : StrandId) (pc : Word) : (retireTo s k pc).tiles = s.tiles := rfl
@[simp] theorem retireTo_weevils (s : State) (k : StrandId) (pc : Word) : (retireTo s k pc).weevils = s.weevils := rfl
@[simp] theorem retireTo_ms (s : State) (k : StrandId) (pc : Word) : (retireTo s k pc).ms = s.ms := rfl
@[simp] theorem retireTo_far (s : State) (k : StrandId) (pc : Word) : (retireTo s k pc).far = s.far := rfl
@[simp] theorem retireTo_queues (s : State) (k : StrandId) (pc : Word) : (retireTo s k pc).queues = s.queues := rfl
@[simp] theorem retireTo_intu (s : State) (k : StrandId) (pc : Word) : (retireTo s k pc).intu = s.intu := rfl
@[simp] theorem retireTo_rel (s : State) (k : StrandId) (pc : Word) : (retireTo s k pc).rel = s.rel := rfl
@[simp] theorem retireTo_marks (s : State) (k : StrandId) (pc : Word) : (retireTo s k pc).marks = s.marks := rfl
@[simp] theorem retireTo_pwr (s : State) (k : StrandId) (pc : Word) : (retireTo s k pc).pwr = s.pwr := rfl
@[simp] theorem retireTo_image (s : State) (k : StrandId) (pc : Word) : (retireTo s k pc).image = s.image := rfl
@[simp] theorem retireTo_shadow (s : State) (k : StrandId) (pc : Word) : (retireTo s k pc).shadow = s.shadow := rfl
@[simp] theorem retireTo_defrec (s : State) (k : StrandId) (pc : Word) : (retireTo s k pc).defrec = s.defrec := rfl
@[simp] theorem retireTo_serial (s : State) (k : StrandId) (pc : Word) : (retireTo s k pc).serial = s.serial := rfl
@[simp] theorem retireTo_mgmt (s : State) (k : StrandId) (pc : Word) : (retireTo s k pc).mgmt = s.mgmt := rfl
@[simp] theorem retireTo_strdbg (s : State) (k : StrandId) (pc : Word) : (retireTo s k pc).strdbg = s.strdbg := rfl
@[simp] theorem retireTo_telem (s : State) (k : StrandId) (pc : Word) : (retireTo s k pc).telem = s.telem := rfl
@[simp] theorem retireTo_trace (s : State) (k : StrandId) (pc : Word) : (retireTo s k pc).trace = s.trace := rfl
@[simp] theorem retireTo_tap (s : State) (k : StrandId) (pc : Word) : (retireTo s k pc).tap = s.tap := rfl
@[simp] theorem retireTo_free (s : State) (k : StrandId) (pc : Word) : (retireTo s k pc).free = s.free := rfl
@[simp] theorem retireTo_out (s : State) (k : StrandId) (pc : Word) : (retireTo s k pc).out = s.out := rfl
@[simp] theorem retireTo_pending (s : State) (k : StrandId) (pc : Word) : (retireTo s k pc).pending = s.pending := rfl
@[simp] theorem retireTo_fetching (s : State) (k : StrandId) (pc : Word) : (retireTo s k pc).fetching = s.fetching := rfl

/-! ### State.emit and State.freeVal -/

@[simp] theorem State.emit_hw (s : State) (m : OutMsg) : (s.emit m).hw = s.hw := by cases m <;> rfl
@[simp] theorem State.emit_feat (s : State) (m : OutMsg) : (s.emit m).feat = s.feat := by cases m <;> rfl
@[simp] theorem State.emit_core (s : State) (m : OutMsg) : (s.emit m).core = s.core := by cases m <;> rfl
@[simp] theorem State.emit_strands (s : State) (m : OutMsg) : (s.emit m).strands = s.strands := by cases m <;> rfl
@[simp] theorem State.emit_near (s : State) (m : OutMsg) : (s.emit m).near = s.near := by cases m <;> rfl
@[simp] theorem State.emit_spad (s : State) (m : OutMsg) : (s.emit m).spad = s.spad := by cases m <;> rfl
@[simp] theorem State.emit_tiles (s : State) (m : OutMsg) : (s.emit m).tiles = s.tiles := by cases m <;> rfl
@[simp] theorem State.emit_weevils (s : State) (m : OutMsg) : (s.emit m).weevils = s.weevils := by cases m <;> rfl
@[simp] theorem State.emit_ms (s : State) (m : OutMsg) : (s.emit m).ms = s.ms := by cases m <;> rfl
@[simp] theorem State.emit_far (s : State) (m : OutMsg) : (s.emit m).far = s.far := by cases m <;> rfl
@[simp] theorem State.emit_queues (s : State) (m : OutMsg) : (s.emit m).queues = s.queues := by cases m <;> rfl
@[simp] theorem State.emit_intu (s : State) (m : OutMsg) : (s.emit m).intu = s.intu := by cases m <;> rfl
@[simp] theorem State.emit_rel (s : State) (m : OutMsg) : (s.emit m).rel = s.rel := by cases m <;> rfl
@[simp] theorem State.emit_marks (s : State) (m : OutMsg) : (s.emit m).marks = s.marks := by cases m <;> rfl
@[simp] theorem State.emit_pwr (s : State) (m : OutMsg) : (s.emit m).pwr = s.pwr := by cases m <;> rfl
@[simp] theorem State.emit_image (s : State) (m : OutMsg) : (s.emit m).image = s.image := by cases m <;> rfl
@[simp] theorem State.emit_shadow (s : State) (m : OutMsg) : (s.emit m).shadow = s.shadow := by cases m <;> rfl
@[simp] theorem State.emit_defrec (s : State) (m : OutMsg) : (s.emit m).defrec = s.defrec := by cases m <;> rfl
@[simp] theorem State.emit_serial (s : State) (m : OutMsg) : (s.emit m).serial = s.serial := by cases m <;> rfl
@[simp] theorem State.emit_mgmt (s : State) (m : OutMsg) : (s.emit m).mgmt = s.mgmt := by cases m <;> rfl
@[simp] theorem State.emit_strdbg (s : State) (m : OutMsg) : (s.emit m).strdbg = s.strdbg := by cases m <;> rfl
@[simp] theorem State.emit_telem (s : State) (m : OutMsg) : (s.emit m).telem = s.telem := by cases m <;> rfl
@[simp] theorem State.emit_trace (s : State) (m : OutMsg) : (s.emit m).trace = s.trace := by cases m <;> rfl
@[simp] theorem State.emit_tap (s : State) (m : OutMsg) : (s.emit m).tap = s.tap := by cases m <;> rfl
@[simp] theorem State.emit_free (s : State) (m : OutMsg) : (s.emit m).free = s.free := by cases m <;> rfl
@[simp] theorem State.emit_pending (s : State) (m : OutMsg) : (s.emit m).pending = s.pending := by cases m <;> rfl
@[simp] theorem State.emit_fetching (s : State) (m : OutMsg) : (s.emit m).fetching = s.fetching := by cases m <;> rfl
@[simp] theorem State.emit_out (s : State) (m : OutMsg) : (s.emit m).out = s.out ++ [m] := by cases m <;> rfl
@[simp] theorem State.emit_str (s : State) (m : OutMsg) (j : StrandId) : (s.emit m).str j = s.str j := by cases m <;> rfl
@[simp] theorem State.freeVal_hw (s : State) : s.freeVal.2.hw = s.hw := rfl
@[simp] theorem State.freeVal_feat (s : State) : s.freeVal.2.feat = s.feat := rfl
@[simp] theorem State.freeVal_core (s : State) : s.freeVal.2.core = s.core := rfl
@[simp] theorem State.freeVal_strands (s : State) : s.freeVal.2.strands = s.strands := rfl
@[simp] theorem State.freeVal_near (s : State) : s.freeVal.2.near = s.near := rfl
@[simp] theorem State.freeVal_home (s : State) : s.freeVal.2.home = s.home := rfl
@[simp] theorem State.freeVal_spad (s : State) : s.freeVal.2.spad = s.spad := rfl
@[simp] theorem State.freeVal_tiles (s : State) : s.freeVal.2.tiles = s.tiles := rfl
@[simp] theorem State.freeVal_weevils (s : State) : s.freeVal.2.weevils = s.weevils := rfl
@[simp] theorem State.freeVal_ms (s : State) : s.freeVal.2.ms = s.ms := rfl
@[simp] theorem State.freeVal_far (s : State) : s.freeVal.2.far = s.far := rfl
@[simp] theorem State.freeVal_queues (s : State) : s.freeVal.2.queues = s.queues := rfl
@[simp] theorem State.freeVal_intu (s : State) : s.freeVal.2.intu = s.intu := rfl
@[simp] theorem State.freeVal_rel (s : State) : s.freeVal.2.rel = s.rel := rfl
@[simp] theorem State.freeVal_marks (s : State) : s.freeVal.2.marks = s.marks := rfl
@[simp] theorem State.freeVal_pwr (s : State) : s.freeVal.2.pwr = s.pwr := rfl
@[simp] theorem State.freeVal_image (s : State) : s.freeVal.2.image = s.image := rfl
@[simp] theorem State.freeVal_shadow (s : State) : s.freeVal.2.shadow = s.shadow := rfl
@[simp] theorem State.freeVal_defrec (s : State) : s.freeVal.2.defrec = s.defrec := rfl
@[simp] theorem State.freeVal_serial (s : State) : s.freeVal.2.serial = s.serial := rfl
@[simp] theorem State.freeVal_mgmt (s : State) : s.freeVal.2.mgmt = s.mgmt := rfl
@[simp] theorem State.freeVal_strdbg (s : State) : s.freeVal.2.strdbg = s.strdbg := rfl
@[simp] theorem State.freeVal_telem (s : State) : s.freeVal.2.telem = s.telem := rfl
@[simp] theorem State.freeVal_trace (s : State) : s.freeVal.2.trace = s.trace := rfl
@[simp] theorem State.freeVal_tap (s : State) : s.freeVal.2.tap = s.tap := rfl
@[simp] theorem State.freeVal_free (s : State) : s.freeVal.2.free = s.free + 1 := rfl
@[simp] theorem State.freeVal_out (s : State) : s.freeVal.2.out = s.out := rfl
@[simp] theorem State.freeVal_pending (s : State) : s.freeVal.2.pending = s.pending := rfl
@[simp] theorem State.freeVal_fetching (s : State) : s.freeVal.2.fetching = s.fetching := rfl
@[simp] theorem State.freeVal_str (s : State) (j : StrandId) : s.freeVal.2.str j = s.str j := rfl

/-! ### State.modArr -/

@[simp] theorem State.modArr_hw (s : State) (c : CId) (f : CacheArr → CacheArr) : (s.modArr c f).hw = s.hw := rfl
@[simp] theorem State.modArr_feat (s : State) (c : CId) (f : CacheArr → CacheArr) : (s.modArr c f).feat = s.feat := rfl
@[simp] theorem State.modArr_core (s : State) (c : CId) (f : CacheArr → CacheArr) : (s.modArr c f).core = s.core := rfl
@[simp] theorem State.modArr_strands (s : State) (c : CId) (f : CacheArr → CacheArr) : (s.modArr c f).strands = s.strands := rfl
@[simp] theorem State.modArr_near (s : State) (c : CId) (f : CacheArr → CacheArr) : (s.modArr c f).near = s.near := rfl
@[simp] theorem State.modArr_home (s : State) (c : CId) (f : CacheArr → CacheArr) : (s.modArr c f).home = s.home := rfl
@[simp] theorem State.modArr_spad (s : State) (c : CId) (f : CacheArr → CacheArr) : (s.modArr c f).spad = s.spad := rfl
@[simp] theorem State.modArr_tiles (s : State) (c : CId) (f : CacheArr → CacheArr) : (s.modArr c f).tiles = s.tiles := rfl
@[simp] theorem State.modArr_weevils (s : State) (c : CId) (f : CacheArr → CacheArr) : (s.modArr c f).weevils = s.weevils := rfl
@[simp] theorem State.modArr_far (s : State) (c : CId) (f : CacheArr → CacheArr) : (s.modArr c f).far = s.far := rfl
@[simp] theorem State.modArr_queues (s : State) (c : CId) (f : CacheArr → CacheArr) : (s.modArr c f).queues = s.queues := rfl
@[simp] theorem State.modArr_intu (s : State) (c : CId) (f : CacheArr → CacheArr) : (s.modArr c f).intu = s.intu := rfl
@[simp] theorem State.modArr_rel (s : State) (c : CId) (f : CacheArr → CacheArr) : (s.modArr c f).rel = s.rel := rfl
@[simp] theorem State.modArr_marks (s : State) (c : CId) (f : CacheArr → CacheArr) : (s.modArr c f).marks = s.marks := rfl
@[simp] theorem State.modArr_pwr (s : State) (c : CId) (f : CacheArr → CacheArr) : (s.modArr c f).pwr = s.pwr := rfl
@[simp] theorem State.modArr_image (s : State) (c : CId) (f : CacheArr → CacheArr) : (s.modArr c f).image = s.image := rfl
@[simp] theorem State.modArr_shadow (s : State) (c : CId) (f : CacheArr → CacheArr) : (s.modArr c f).shadow = s.shadow := rfl
@[simp] theorem State.modArr_defrec (s : State) (c : CId) (f : CacheArr → CacheArr) : (s.modArr c f).defrec = s.defrec := rfl
@[simp] theorem State.modArr_serial (s : State) (c : CId) (f : CacheArr → CacheArr) : (s.modArr c f).serial = s.serial := rfl
@[simp] theorem State.modArr_mgmt (s : State) (c : CId) (f : CacheArr → CacheArr) : (s.modArr c f).mgmt = s.mgmt := rfl
@[simp] theorem State.modArr_strdbg (s : State) (c : CId) (f : CacheArr → CacheArr) : (s.modArr c f).strdbg = s.strdbg := rfl
@[simp] theorem State.modArr_telem (s : State) (c : CId) (f : CacheArr → CacheArr) : (s.modArr c f).telem = s.telem := rfl
@[simp] theorem State.modArr_trace (s : State) (c : CId) (f : CacheArr → CacheArr) : (s.modArr c f).trace = s.trace := rfl
@[simp] theorem State.modArr_tap (s : State) (c : CId) (f : CacheArr → CacheArr) : (s.modArr c f).tap = s.tap := rfl
@[simp] theorem State.modArr_free (s : State) (c : CId) (f : CacheArr → CacheArr) : (s.modArr c f).free = s.free := rfl
@[simp] theorem State.modArr_out (s : State) (c : CId) (f : CacheArr → CacheArr) : (s.modArr c f).out = s.out := rfl
@[simp] theorem State.modArr_pending (s : State) (c : CId) (f : CacheArr → CacheArr) : (s.modArr c f).pending = s.pending := rfl
@[simp] theorem State.modArr_fetching (s : State) (c : CId) (f : CacheArr → CacheArr) : (s.modArr c f).fetching = s.fetching := rfl

/-! ### State.modSlot -/

@[simp] theorem State.modSlot_hw (s : State) (k : StrandId) (d : Nat) (f : DSlot → DSlot) : (s.modSlot k d f).hw = s.hw := rfl
@[simp] theorem State.modSlot_feat (s : State) (k : StrandId) (d : Nat) (f : DSlot → DSlot) : (s.modSlot k d f).feat = s.feat := rfl
@[simp] theorem State.modSlot_core (s : State) (k : StrandId) (d : Nat) (f : DSlot → DSlot) : (s.modSlot k d f).core = s.core := rfl
@[simp] theorem State.modSlot_near (s : State) (k : StrandId) (d : Nat) (f : DSlot → DSlot) : (s.modSlot k d f).near = s.near := rfl
@[simp] theorem State.modSlot_home (s : State) (k : StrandId) (d : Nat) (f : DSlot → DSlot) : (s.modSlot k d f).home = s.home := rfl
@[simp] theorem State.modSlot_spad (s : State) (k : StrandId) (d : Nat) (f : DSlot → DSlot) : (s.modSlot k d f).spad = s.spad := rfl
@[simp] theorem State.modSlot_tiles (s : State) (k : StrandId) (d : Nat) (f : DSlot → DSlot) : (s.modSlot k d f).tiles = s.tiles := rfl
@[simp] theorem State.modSlot_weevils (s : State) (k : StrandId) (d : Nat) (f : DSlot → DSlot) : (s.modSlot k d f).weevils = s.weevils := rfl
@[simp] theorem State.modSlot_ms (s : State) (k : StrandId) (d : Nat) (f : DSlot → DSlot) : (s.modSlot k d f).ms = s.ms := rfl
@[simp] theorem State.modSlot_far (s : State) (k : StrandId) (d : Nat) (f : DSlot → DSlot) : (s.modSlot k d f).far = s.far := rfl
@[simp] theorem State.modSlot_queues (s : State) (k : StrandId) (d : Nat) (f : DSlot → DSlot) : (s.modSlot k d f).queues = s.queues := rfl
@[simp] theorem State.modSlot_intu (s : State) (k : StrandId) (d : Nat) (f : DSlot → DSlot) : (s.modSlot k d f).intu = s.intu := rfl
@[simp] theorem State.modSlot_rel (s : State) (k : StrandId) (d : Nat) (f : DSlot → DSlot) : (s.modSlot k d f).rel = s.rel := rfl
@[simp] theorem State.modSlot_marks (s : State) (k : StrandId) (d : Nat) (f : DSlot → DSlot) : (s.modSlot k d f).marks = s.marks := rfl
@[simp] theorem State.modSlot_pwr (s : State) (k : StrandId) (d : Nat) (f : DSlot → DSlot) : (s.modSlot k d f).pwr = s.pwr := rfl
@[simp] theorem State.modSlot_image (s : State) (k : StrandId) (d : Nat) (f : DSlot → DSlot) : (s.modSlot k d f).image = s.image := rfl
@[simp] theorem State.modSlot_shadow (s : State) (k : StrandId) (d : Nat) (f : DSlot → DSlot) : (s.modSlot k d f).shadow = s.shadow := rfl
@[simp] theorem State.modSlot_defrec (s : State) (k : StrandId) (d : Nat) (f : DSlot → DSlot) : (s.modSlot k d f).defrec = s.defrec := rfl
@[simp] theorem State.modSlot_serial (s : State) (k : StrandId) (d : Nat) (f : DSlot → DSlot) : (s.modSlot k d f).serial = s.serial := rfl
@[simp] theorem State.modSlot_mgmt (s : State) (k : StrandId) (d : Nat) (f : DSlot → DSlot) : (s.modSlot k d f).mgmt = s.mgmt := rfl
@[simp] theorem State.modSlot_strdbg (s : State) (k : StrandId) (d : Nat) (f : DSlot → DSlot) : (s.modSlot k d f).strdbg = s.strdbg := rfl
@[simp] theorem State.modSlot_telem (s : State) (k : StrandId) (d : Nat) (f : DSlot → DSlot) : (s.modSlot k d f).telem = s.telem := rfl
@[simp] theorem State.modSlot_trace (s : State) (k : StrandId) (d : Nat) (f : DSlot → DSlot) : (s.modSlot k d f).trace = s.trace := rfl
@[simp] theorem State.modSlot_tap (s : State) (k : StrandId) (d : Nat) (f : DSlot → DSlot) : (s.modSlot k d f).tap = s.tap := rfl
@[simp] theorem State.modSlot_free (s : State) (k : StrandId) (d : Nat) (f : DSlot → DSlot) : (s.modSlot k d f).free = s.free := rfl
@[simp] theorem State.modSlot_out (s : State) (k : StrandId) (d : Nat) (f : DSlot → DSlot) : (s.modSlot k d f).out = s.out := rfl
@[simp] theorem State.modSlot_pending (s : State) (k : StrandId) (d : Nat) (f : DSlot → DSlot) : (s.modSlot k d f).pending = s.pending := rfl
@[simp] theorem State.modSlot_fetching (s : State) (k : StrandId) (d : Nat) (f : DSlot → DSlot) : (s.modSlot k d f).fetching = s.fetching := rfl

/-! ### State.modSrc -/

@[simp] theorem State.modSrc_hw (s : State) (n : BitVec 14) (e : BitVec 6) (f : SrcSess → SrcSess) : (s.modSrc n e f).hw = s.hw := rfl
@[simp] theorem State.modSrc_feat (s : State) (n : BitVec 14) (e : BitVec 6) (f : SrcSess → SrcSess) : (s.modSrc n e f).feat = s.feat := rfl
@[simp] theorem State.modSrc_core (s : State) (n : BitVec 14) (e : BitVec 6) (f : SrcSess → SrcSess) : (s.modSrc n e f).core = s.core := rfl
@[simp] theorem State.modSrc_strands (s : State) (n : BitVec 14) (e : BitVec 6) (f : SrcSess → SrcSess) : (s.modSrc n e f).strands = s.strands := rfl
@[simp] theorem State.modSrc_near (s : State) (n : BitVec 14) (e : BitVec 6) (f : SrcSess → SrcSess) : (s.modSrc n e f).near = s.near := rfl
@[simp] theorem State.modSrc_home (s : State) (n : BitVec 14) (e : BitVec 6) (f : SrcSess → SrcSess) : (s.modSrc n e f).home = s.home := rfl
@[simp] theorem State.modSrc_spad (s : State) (n : BitVec 14) (e : BitVec 6) (f : SrcSess → SrcSess) : (s.modSrc n e f).spad = s.spad := rfl
@[simp] theorem State.modSrc_tiles (s : State) (n : BitVec 14) (e : BitVec 6) (f : SrcSess → SrcSess) : (s.modSrc n e f).tiles = s.tiles := rfl
@[simp] theorem State.modSrc_weevils (s : State) (n : BitVec 14) (e : BitVec 6) (f : SrcSess → SrcSess) : (s.modSrc n e f).weevils = s.weevils := rfl
@[simp] theorem State.modSrc_ms (s : State) (n : BitVec 14) (e : BitVec 6) (f : SrcSess → SrcSess) : (s.modSrc n e f).ms = s.ms := rfl
@[simp] theorem State.modSrc_queues (s : State) (n : BitVec 14) (e : BitVec 6) (f : SrcSess → SrcSess) : (s.modSrc n e f).queues = s.queues := rfl
@[simp] theorem State.modSrc_intu (s : State) (n : BitVec 14) (e : BitVec 6) (f : SrcSess → SrcSess) : (s.modSrc n e f).intu = s.intu := rfl
@[simp] theorem State.modSrc_rel (s : State) (n : BitVec 14) (e : BitVec 6) (f : SrcSess → SrcSess) : (s.modSrc n e f).rel = s.rel := rfl
@[simp] theorem State.modSrc_marks (s : State) (n : BitVec 14) (e : BitVec 6) (f : SrcSess → SrcSess) : (s.modSrc n e f).marks = s.marks := rfl
@[simp] theorem State.modSrc_pwr (s : State) (n : BitVec 14) (e : BitVec 6) (f : SrcSess → SrcSess) : (s.modSrc n e f).pwr = s.pwr := rfl
@[simp] theorem State.modSrc_image (s : State) (n : BitVec 14) (e : BitVec 6) (f : SrcSess → SrcSess) : (s.modSrc n e f).image = s.image := rfl
@[simp] theorem State.modSrc_shadow (s : State) (n : BitVec 14) (e : BitVec 6) (f : SrcSess → SrcSess) : (s.modSrc n e f).shadow = s.shadow := rfl
@[simp] theorem State.modSrc_defrec (s : State) (n : BitVec 14) (e : BitVec 6) (f : SrcSess → SrcSess) : (s.modSrc n e f).defrec = s.defrec := rfl
@[simp] theorem State.modSrc_serial (s : State) (n : BitVec 14) (e : BitVec 6) (f : SrcSess → SrcSess) : (s.modSrc n e f).serial = s.serial := rfl
@[simp] theorem State.modSrc_mgmt (s : State) (n : BitVec 14) (e : BitVec 6) (f : SrcSess → SrcSess) : (s.modSrc n e f).mgmt = s.mgmt := rfl
@[simp] theorem State.modSrc_strdbg (s : State) (n : BitVec 14) (e : BitVec 6) (f : SrcSess → SrcSess) : (s.modSrc n e f).strdbg = s.strdbg := rfl
@[simp] theorem State.modSrc_telem (s : State) (n : BitVec 14) (e : BitVec 6) (f : SrcSess → SrcSess) : (s.modSrc n e f).telem = s.telem := rfl
@[simp] theorem State.modSrc_trace (s : State) (n : BitVec 14) (e : BitVec 6) (f : SrcSess → SrcSess) : (s.modSrc n e f).trace = s.trace := rfl
@[simp] theorem State.modSrc_tap (s : State) (n : BitVec 14) (e : BitVec 6) (f : SrcSess → SrcSess) : (s.modSrc n e f).tap = s.tap := rfl
@[simp] theorem State.modSrc_free (s : State) (n : BitVec 14) (e : BitVec 6) (f : SrcSess → SrcSess) : (s.modSrc n e f).free = s.free := rfl
@[simp] theorem State.modSrc_out (s : State) (n : BitVec 14) (e : BitVec 6) (f : SrcSess → SrcSess) : (s.modSrc n e f).out = s.out := rfl
@[simp] theorem State.modSrc_pending (s : State) (n : BitVec 14) (e : BitVec 6) (f : SrcSess → SrcSess) : (s.modSrc n e f).pending = s.pending := rfl
@[simp] theorem State.modSrc_fetching (s : State) (n : BitVec 14) (e : BitVec 6) (f : SrcSess → SrcSess) : (s.modSrc n e f).fetching = s.fetching := rfl

/-! ### State.modBank -/

@[simp] theorem State.modBank_hw (s : State) (c : CtxId) (f : Mem → Mem) : (s.modBank c f).hw = s.hw := by unfold State.modBank; split <;> rfl
@[simp] theorem State.modBank_feat (s : State) (c : CtxId) (f : Mem → Mem) : (s.modBank c f).feat = s.feat := by unfold State.modBank; split <;> rfl
@[simp] theorem State.modBank_core (s : State) (c : CtxId) (f : Mem → Mem) : (s.modBank c f).core = s.core := by unfold State.modBank; split <;> rfl
@[simp] theorem State.modBank_strands (s : State) (c : CtxId) (f : Mem → Mem) : (s.modBank c f).strands = s.strands := by unfold State.modBank; split <;> rfl
@[simp] theorem State.modBank_near (s : State) (c : CtxId) (f : Mem → Mem) : (s.modBank c f).near = s.near := by unfold State.modBank; split <;> rfl
@[simp] theorem State.modBank_home (s : State) (c : CtxId) (f : Mem → Mem) : (s.modBank c f).home = s.home := by unfold State.modBank; split <;> rfl
@[simp] theorem State.modBank_spad (s : State) (c : CtxId) (f : Mem → Mem) : (s.modBank c f).spad = s.spad := by unfold State.modBank; split <;> rfl
@[simp] theorem State.modBank_weevils (s : State) (c : CtxId) (f : Mem → Mem) : (s.modBank c f).weevils = s.weevils := by unfold State.modBank; split <;> rfl
@[simp] theorem State.modBank_ms (s : State) (c : CtxId) (f : Mem → Mem) : (s.modBank c f).ms = s.ms := by unfold State.modBank; split <;> rfl
@[simp] theorem State.modBank_far (s : State) (c : CtxId) (f : Mem → Mem) : (s.modBank c f).far = s.far := by unfold State.modBank; split <;> rfl
@[simp] theorem State.modBank_queues (s : State) (c : CtxId) (f : Mem → Mem) : (s.modBank c f).queues = s.queues := by unfold State.modBank; split <;> rfl
@[simp] theorem State.modBank_intu (s : State) (c : CtxId) (f : Mem → Mem) : (s.modBank c f).intu = s.intu := by unfold State.modBank; split <;> rfl
@[simp] theorem State.modBank_rel (s : State) (c : CtxId) (f : Mem → Mem) : (s.modBank c f).rel = s.rel := by unfold State.modBank; split <;> rfl
@[simp] theorem State.modBank_marks (s : State) (c : CtxId) (f : Mem → Mem) : (s.modBank c f).marks = s.marks := by unfold State.modBank; split <;> rfl
@[simp] theorem State.modBank_pwr (s : State) (c : CtxId) (f : Mem → Mem) : (s.modBank c f).pwr = s.pwr := by unfold State.modBank; split <;> rfl
@[simp] theorem State.modBank_image (s : State) (c : CtxId) (f : Mem → Mem) : (s.modBank c f).image = s.image := by unfold State.modBank; split <;> rfl
@[simp] theorem State.modBank_shadow (s : State) (c : CtxId) (f : Mem → Mem) : (s.modBank c f).shadow = s.shadow := by unfold State.modBank; split <;> rfl
@[simp] theorem State.modBank_defrec (s : State) (c : CtxId) (f : Mem → Mem) : (s.modBank c f).defrec = s.defrec := by unfold State.modBank; split <;> rfl
@[simp] theorem State.modBank_serial (s : State) (c : CtxId) (f : Mem → Mem) : (s.modBank c f).serial = s.serial := by unfold State.modBank; split <;> rfl
@[simp] theorem State.modBank_mgmt (s : State) (c : CtxId) (f : Mem → Mem) : (s.modBank c f).mgmt = s.mgmt := by unfold State.modBank; split <;> rfl
@[simp] theorem State.modBank_strdbg (s : State) (c : CtxId) (f : Mem → Mem) : (s.modBank c f).strdbg = s.strdbg := by unfold State.modBank; split <;> rfl
@[simp] theorem State.modBank_telem (s : State) (c : CtxId) (f : Mem → Mem) : (s.modBank c f).telem = s.telem := by unfold State.modBank; split <;> rfl
@[simp] theorem State.modBank_trace (s : State) (c : CtxId) (f : Mem → Mem) : (s.modBank c f).trace = s.trace := by unfold State.modBank; split <;> rfl
@[simp] theorem State.modBank_tap (s : State) (c : CtxId) (f : Mem → Mem) : (s.modBank c f).tap = s.tap := by unfold State.modBank; split <;> rfl
@[simp] theorem State.modBank_free (s : State) (c : CtxId) (f : Mem → Mem) : (s.modBank c f).free = s.free := by unfold State.modBank; split <;> rfl
@[simp] theorem State.modBank_out (s : State) (c : CtxId) (f : Mem → Mem) : (s.modBank c f).out = s.out := by unfold State.modBank; split <;> rfl
@[simp] theorem State.modBank_pending (s : State) (c : CtxId) (f : Mem → Mem) : (s.modBank c f).pending = s.pending := by unfold State.modBank; split <;> rfl
@[simp] theorem State.modBank_fetching (s : State) (c : CtxId) (f : Mem → Mem) : (s.modBank c f).fetching = s.fetching := by unfold State.modBank; split <;> rfl

/-! ### State.putBody -/

@[simp] theorem State.putBody_hw (s : State) (id : Nat) (b : TBody) : (s.putBody id b).hw = s.hw := rfl
@[simp] theorem State.putBody_feat (s : State) (id : Nat) (b : TBody) : (s.putBody id b).feat = s.feat := rfl
@[simp] theorem State.putBody_core (s : State) (id : Nat) (b : TBody) : (s.putBody id b).core = s.core := rfl
@[simp] theorem State.putBody_strands (s : State) (id : Nat) (b : TBody) : (s.putBody id b).strands = s.strands := rfl
@[simp] theorem State.putBody_near (s : State) (id : Nat) (b : TBody) : (s.putBody id b).near = s.near := rfl
@[simp] theorem State.putBody_home (s : State) (id : Nat) (b : TBody) : (s.putBody id b).home = s.home := rfl
@[simp] theorem State.putBody_spad (s : State) (id : Nat) (b : TBody) : (s.putBody id b).spad = s.spad := rfl
@[simp] theorem State.putBody_weevils (s : State) (id : Nat) (b : TBody) : (s.putBody id b).weevils = s.weevils := rfl
@[simp] theorem State.putBody_ms (s : State) (id : Nat) (b : TBody) : (s.putBody id b).ms = s.ms := rfl
@[simp] theorem State.putBody_far (s : State) (id : Nat) (b : TBody) : (s.putBody id b).far = s.far := rfl
@[simp] theorem State.putBody_queues (s : State) (id : Nat) (b : TBody) : (s.putBody id b).queues = s.queues := rfl
@[simp] theorem State.putBody_intu (s : State) (id : Nat) (b : TBody) : (s.putBody id b).intu = s.intu := rfl
@[simp] theorem State.putBody_rel (s : State) (id : Nat) (b : TBody) : (s.putBody id b).rel = s.rel := rfl
@[simp] theorem State.putBody_marks (s : State) (id : Nat) (b : TBody) : (s.putBody id b).marks = s.marks := rfl
@[simp] theorem State.putBody_pwr (s : State) (id : Nat) (b : TBody) : (s.putBody id b).pwr = s.pwr := rfl
@[simp] theorem State.putBody_image (s : State) (id : Nat) (b : TBody) : (s.putBody id b).image = s.image := rfl
@[simp] theorem State.putBody_shadow (s : State) (id : Nat) (b : TBody) : (s.putBody id b).shadow = s.shadow := rfl
@[simp] theorem State.putBody_defrec (s : State) (id : Nat) (b : TBody) : (s.putBody id b).defrec = s.defrec := rfl
@[simp] theorem State.putBody_serial (s : State) (id : Nat) (b : TBody) : (s.putBody id b).serial = s.serial := rfl
@[simp] theorem State.putBody_mgmt (s : State) (id : Nat) (b : TBody) : (s.putBody id b).mgmt = s.mgmt := rfl
@[simp] theorem State.putBody_strdbg (s : State) (id : Nat) (b : TBody) : (s.putBody id b).strdbg = s.strdbg := rfl
@[simp] theorem State.putBody_telem (s : State) (id : Nat) (b : TBody) : (s.putBody id b).telem = s.telem := rfl
@[simp] theorem State.putBody_trace (s : State) (id : Nat) (b : TBody) : (s.putBody id b).trace = s.trace := rfl
@[simp] theorem State.putBody_tap (s : State) (id : Nat) (b : TBody) : (s.putBody id b).tap = s.tap := rfl
@[simp] theorem State.putBody_free (s : State) (id : Nat) (b : TBody) : (s.putBody id b).free = s.free := rfl
@[simp] theorem State.putBody_out (s : State) (id : Nat) (b : TBody) : (s.putBody id b).out = s.out := rfl
@[simp] theorem State.putBody_pending (s : State) (id : Nat) (b : TBody) : (s.putBody id b).pending = s.pending := rfl
@[simp] theorem State.putBody_fetching (s : State) (id : Nat) (b : TBody) : (s.putBody id b).fetching = s.fetching := rfl

/-! ### State.setSlot -/

@[simp] theorem State.setSlot_hw (s : State) (k : StrandId) (n : Nat) (v : Word) : (s.setSlot k n v).hw = s.hw := rfl
@[simp] theorem State.setSlot_feat (s : State) (k : StrandId) (n : Nat) (v : Word) : (s.setSlot k n v).feat = s.feat := rfl
@[simp] theorem State.setSlot_core (s : State) (k : StrandId) (n : Nat) (v : Word) : (s.setSlot k n v).core = s.core := rfl
@[simp] theorem State.setSlot_near (s : State) (k : StrandId) (n : Nat) (v : Word) : (s.setSlot k n v).near = s.near := rfl
@[simp] theorem State.setSlot_home (s : State) (k : StrandId) (n : Nat) (v : Word) : (s.setSlot k n v).home = s.home := rfl
@[simp] theorem State.setSlot_spad (s : State) (k : StrandId) (n : Nat) (v : Word) : (s.setSlot k n v).spad = s.spad := rfl
@[simp] theorem State.setSlot_tiles (s : State) (k : StrandId) (n : Nat) (v : Word) : (s.setSlot k n v).tiles = s.tiles := rfl
@[simp] theorem State.setSlot_weevils (s : State) (k : StrandId) (n : Nat) (v : Word) : (s.setSlot k n v).weevils = s.weevils := rfl
@[simp] theorem State.setSlot_ms (s : State) (k : StrandId) (n : Nat) (v : Word) : (s.setSlot k n v).ms = s.ms := rfl
@[simp] theorem State.setSlot_far (s : State) (k : StrandId) (n : Nat) (v : Word) : (s.setSlot k n v).far = s.far := rfl
@[simp] theorem State.setSlot_queues (s : State) (k : StrandId) (n : Nat) (v : Word) : (s.setSlot k n v).queues = s.queues := rfl
@[simp] theorem State.setSlot_intu (s : State) (k : StrandId) (n : Nat) (v : Word) : (s.setSlot k n v).intu = s.intu := rfl
@[simp] theorem State.setSlot_rel (s : State) (k : StrandId) (n : Nat) (v : Word) : (s.setSlot k n v).rel = s.rel := rfl
@[simp] theorem State.setSlot_marks (s : State) (k : StrandId) (n : Nat) (v : Word) : (s.setSlot k n v).marks = s.marks := rfl
@[simp] theorem State.setSlot_pwr (s : State) (k : StrandId) (n : Nat) (v : Word) : (s.setSlot k n v).pwr = s.pwr := rfl
@[simp] theorem State.setSlot_image (s : State) (k : StrandId) (n : Nat) (v : Word) : (s.setSlot k n v).image = s.image := rfl
@[simp] theorem State.setSlot_shadow (s : State) (k : StrandId) (n : Nat) (v : Word) : (s.setSlot k n v).shadow = s.shadow := rfl
@[simp] theorem State.setSlot_defrec (s : State) (k : StrandId) (n : Nat) (v : Word) : (s.setSlot k n v).defrec = s.defrec := rfl
@[simp] theorem State.setSlot_serial (s : State) (k : StrandId) (n : Nat) (v : Word) : (s.setSlot k n v).serial = s.serial := rfl
@[simp] theorem State.setSlot_mgmt (s : State) (k : StrandId) (n : Nat) (v : Word) : (s.setSlot k n v).mgmt = s.mgmt := rfl
@[simp] theorem State.setSlot_strdbg (s : State) (k : StrandId) (n : Nat) (v : Word) : (s.setSlot k n v).strdbg = s.strdbg := rfl
@[simp] theorem State.setSlot_telem (s : State) (k : StrandId) (n : Nat) (v : Word) : (s.setSlot k n v).telem = s.telem := rfl
@[simp] theorem State.setSlot_trace (s : State) (k : StrandId) (n : Nat) (v : Word) : (s.setSlot k n v).trace = s.trace := rfl
@[simp] theorem State.setSlot_tap (s : State) (k : StrandId) (n : Nat) (v : Word) : (s.setSlot k n v).tap = s.tap := rfl
@[simp] theorem State.setSlot_free (s : State) (k : StrandId) (n : Nat) (v : Word) : (s.setSlot k n v).free = s.free := rfl
@[simp] theorem State.setSlot_out (s : State) (k : StrandId) (n : Nat) (v : Word) : (s.setSlot k n v).out = s.out := rfl
@[simp] theorem State.setSlot_pending (s : State) (k : StrandId) (n : Nat) (v : Word) : (s.setSlot k n v).pending = s.pending := rfl
@[simp] theorem State.setSlot_fetching (s : State) (k : StrandId) (n : Nat) (v : Word) : (s.setSlot k n v).fetching = s.fetching := rfl

end Sys2Proof.Machine
end

