-- ==== Sys2Proof/Laws/Strand.lean ====
section
/-! SUPPORT. What a strand holds after an update of it: vectors, the strand accessor, and register reads after register writes. -/

namespace Sys2Proof.Machine

open Sys2Proof

/-! ### Vectors -/

theorem vmod_self {α : Type} {n : Nat} (v : Vector α n) (i : Fin n) (f : α → α) : (vmod v i f)[i] = f v[i] := by
  simp [vmod]

theorem vmod_other {α : Type} {n : Nat} (v : Vector α n) (i j : Fin n) (f : α → α) (h : j ≠ i) : (vmod v i f)[j] = v[j] := by
  have h' : i.val ≠ j.val := fun e => h (Fin.ext e.symm)
  simp [vmod, h']

theorem vmod_get {α : Type} {n : Nat} (v : Vector α n) (i j : Fin n) (f : α → α) :
    (vmod v i f)[j] = if j = i then f v[i] else v[j] := by
  by_cases h : j = i
  · subst h; simpa using vmod_self v j f
  · simp [vmod_other v i j f h, h]

/-- A read of an element by number after the element with number i changed. -/
theorem vupd_getD {α : Type} {n : Nat} (v : Vector α n) (i j : Nat) (f : α → α) (d : α) (hi : i < n) :
    (vupd v i f).getD j d = if j = i then f (v.getD i d) else v.getD j d := by
  by_cases h : j = i
  · subst h; simp [vupd, hi, Vector.getD]
  · by_cases hj : j < n
    · simp [vupd, hi, Vector.getD, hj, Ne.symm h, h]
    · simp [vupd, hi, Vector.getD, hj, h]

/-! ### The strand accessor -/

@[simp] theorem State.str_modStr_self (s : State) (k : StrandId) (f : Strand → Strand) : (s.modStr k f).str k = f (s.str k) :=
  vmod_self s.strands k f

theorem State.str_modStr_other (s : State) (k j : StrandId) (f : Strand → Strand) (h : j ≠ k) : (s.modStr k f).str j = s.str j :=
  vmod_other s.strands k j f h

theorem State.str_modStr (s : State) (k j : StrandId) (f : Strand → Strand) :
    (s.modStr k f).str j = if j = k then f (s.str k) else s.str j := vmod_get s.strands k j f

/-- Two changes of one strand are one change. -/
theorem State.modStr_modStr (s : State) (k : StrandId) (f g : Strand → Strand) :
    (s.modStr k f).modStr k g = s.modStr k (fun t => g (f t)) := by
  simp [State.modStr, vmod]

@[simp] theorem State.str_modRun_self (s : State) (k : StrandId) (f : RunInfo → RunInfo) : (s.modRun k f).str k = { s.str k with run := f (s.str k).run } :=
  State.str_modStr_self s k _

theorem State.str_modRun_other (s : State) (k j : StrandId) (f : RunInfo → RunInfo) (h : j ≠ k) : (s.modRun k f).str j = s.str j :=
  State.str_modStr_other s k j _ h

@[simp] theorem State.str_modWin_self (s : State) (k : StrandId) (f : Win → Win) : (s.modWin k f).str k = { s.str k with win := f (s.str k).win } :=
  State.str_modStr_self s k _

theorem State.str_modWin_other (s : State) (k j : StrandId) (f : Win → Win) (h : j ≠ k) : (s.modWin k f).str j = s.str j :=
  State.str_modStr_other s k j _ h

@[simp] theorem State.str_setX_self (s : State) (k : StrandId) (r : RSpec) (v : Word) : (s.setX k r v).str k = (s.str k).setX r v :=
  State.str_modStr_self s k _

theorem State.str_setX_other (s : State) (k j : StrandId) (r : RSpec) (v : Word) (h : j ≠ k) : (s.setX k r v).str j = s.str j :=
  State.str_modStr_other s k j _ h

@[simp] theorem State.str_setF_self (s : State) (k : StrandId) (r : RSpec) (v : Word) : (s.setF k r v).str k = (s.str k).setF r v :=
  State.str_modStr_self s k _

theorem State.str_setF_other (s : State) (k j : StrandId) (r : RSpec) (v : Word) (h : j ≠ k) : (s.setF k r v).str j = s.str j :=
  State.str_modStr_other s k j _ h

@[simp] theorem str_retire_self (s : State) (k : StrandId) (n : Nat) :
    (retire s k n).str k = { s.str k with
      loops := (loopStep (s.str k).loops (s.str k).pc n).1
      pc := (loopStep (s.str k).loops (s.str k).pc n).2
      run := { (s.str k).run with cond := none, merged := none } } := State.str_modStr_self s k _

theorem str_retire_other (s : State) (k j : StrandId) (n : Nat) (h : j ≠ k) : (retire s k n).str j = s.str j :=
  State.str_modStr_other s k j _ h

@[simp] theorem str_retireTo_self (s : State) (k : StrandId) (pc : Word) :
    (retireTo s k pc).str k = { s.str k with pc := pc, run := { (s.str k).run with cond := none, merged := none } } := State.str_modStr_self s k _

theorem str_retireTo_other (s : State) (k j : StrandId) (pc : Word) (h : j ≠ k) : (retireTo s k pc).str j = s.str j :=
  State.str_modStr_other s k j _ h

/-! ### What a register write leaves of a strand -/

/-- A write of an integer register changes the registers and the window ring only. -/
theorem Strand.setX_form (t : Strand) (r : RSpec) (v : Word) :
    t.setX r v = { t with regs := { (t.setX r v).regs with f := t.regs.f }, win := (t.setX r v).win } := by
  unfold Strand.setX; dsimp only
  repeat' split
  all_goals rfl

@[simp] theorem Strand.setX_pc (t : Strand) (r : RSpec) (v : Word) : (t.setX r v).pc = t.pc := by
  rw [Strand.setX_form]
@[simp] theorem Strand.setX_status (t : Strand) (r : RSpec) (v : Word) : (t.setX r v).status = t.status := by
  rw [Strand.setX_form]
@[simp] theorem Strand.setX_saves (t : Strand) (r : RSpec) (v : Word) : (t.setX r v).saves = t.saves := by
  rw [Strand.setX_form]
@[simp] theorem Strand.setX_fctl (t : Strand) (r : RSpec) (v : Word) : (t.setX r v).fctl = t.fctl := by
  rw [Strand.setX_form]
@[simp] theorem Strand.setX_loops (t : Strand) (r : RSpec) (v : Word) : (t.setX r v).loops = t.loops := by
  rw [Strand.setX_form]
@[simp] theorem Strand.setX_num (t : Strand) (r : RSpec) (v : Word) : (t.setX r v).num = t.num := by
  rw [Strand.setX_form]
@[simp] theorem Strand.setX_xl (t : Strand) (r : RSpec) (v : Word) : (t.setX r v).xl = t.xl := by
  rw [Strand.setX_form]
@[simp] theorem Strand.setX_run (t : Strand) (r : RSpec) (v : Word) : (t.setX r v).run = t.run := by
  rw [Strand.setX_form]
@[simp] theorem Strand.setX_ctx (t : Strand) (r : RSpec) (v : Word) : (t.setX r v).ctx = t.ctx := by
  rw [Strand.setX_form]
@[simp] theorem Strand.setX_cslots (t : Strand) (r : RSpec) (v : Word) : (t.setX r v).cslots = t.cslots := by
  rw [Strand.setX_form]
@[simp] theorem Strand.setX_dslots (t : Strand) (r : RSpec) (v : Word) : (t.setX r v).dslots = t.dslots := by
  rw [Strand.setX_form]
@[simp] theorem Strand.setX_chains (t : Strand) (r : RSpec) (v : Word) : (t.setX r v).chains = t.chains := by
  rw [Strand.setX_form]
@[simp] theorem Strand.setF_pc (t : Strand) (r : RSpec) (v : Word) : (t.setF r v).pc = t.pc := rfl
@[simp] theorem Strand.setF_win (t : Strand) (r : RSpec) (v : Word) : (t.setF r v).win = t.win := rfl
@[simp] theorem Strand.setF_status (t : Strand) (r : RSpec) (v : Word) : (t.setF r v).status = t.status := rfl
@[simp] theorem Strand.setF_saves (t : Strand) (r : RSpec) (v : Word) : (t.setF r v).saves = t.saves := rfl
@[simp] theorem Strand.setF_fctl (t : Strand) (r : RSpec) (v : Word) : (t.setF r v).fctl = t.fctl := rfl
@[simp] theorem Strand.setF_loops (t : Strand) (r : RSpec) (v : Word) : (t.setF r v).loops = t.loops := rfl
@[simp] theorem Strand.setF_num (t : Strand) (r : RSpec) (v : Word) : (t.setF r v).num = t.num := rfl
@[simp] theorem Strand.setF_xl (t : Strand) (r : RSpec) (v : Word) : (t.setF r v).xl = t.xl := rfl
@[simp] theorem Strand.setF_run (t : Strand) (r : RSpec) (v : Word) : (t.setF r v).run = t.run := rfl
@[simp] theorem Strand.setF_ctx (t : Strand) (r : RSpec) (v : Word) : (t.setF r v).ctx = t.ctx := rfl
@[simp] theorem Strand.setF_cslots (t : Strand) (r : RSpec) (v : Word) : (t.setF r v).cslots = t.cslots := rfl
@[simp] theorem Strand.setF_dslots (t : Strand) (r : RSpec) (v : Word) : (t.setF r v).dslots = t.dslots := rfl
@[simp] theorem Strand.setF_chains (t : Strand) (r : RSpec) (v : Word) : (t.setF r v).chains = t.chains := rfl

@[simp] theorem Strand.setX_f (t : Strand) (r q : RSpec) (v : Word) : (t.setX r v).f q = t.f q := by
  unfold Strand.f; rw [Strand.setX_form]

@[simp] theorem Strand.setF_x (t : Strand) (r q : RSpec) (v : Word) : (t.setF r v).x q = t.x q := rfl

/-- A write to g0 is discarded (Table 4-2). -/
@[simp] theorem Strand.setX_zero (t : Strand) (v : Word) : t.setX 0 v = t := rfl

/-- A window read of the ring after a change of one slot. -/
theorem Win.modSlot_get (w : Win) (i j : Fin 12) (f : Slot → Slot) :
    (w.modSlot i f).ring[j] = if j = i then f w.ring[i] else w.ring[j] := vmod_get w.ring i j f

@[simp] theorem Win.modSlot_wcur (w : Win) (i : Fin 12) (f : Slot → Slot) : (w.modSlot i f).wcur = w.wcur := rfl
@[simp] theorem Win.modSlot_resw (w : Win) (i : Fin 12) (f : Slot → Slot) : (w.modSlot i f).resw = w.resw := rfl
@[simp] theorem Win.modSlot_nextSlot (w : Win) (i : Fin 12) (f : Slot → Slot) : (w.modSlot i f).nextSlot = w.nextSlot := rfl

theorem Win.next_ne (w : Win) : w.nextSlot ≠ w.wcur := by
  unfold Win.nextSlot; generalize w.wcur = c; revert c; decide

/-- Where an integer specifier reads, by its number. -/
theorem Strand.x_of (t : Strand) (r : RSpec) :
    t.x r = if r.toNat = 0 then 0 else if r.toNat < 15 then t.regs.g.getD r.toNat 0
      else if r.toNat = 15 then t.regs.g15[t.status.lvl.rank]
      else if r.toNat < 0x18 then (t.win.ring[t.win.nextSlot]).i.getD (r.toNat - 0x10) 0
      else if r.toNat < 0x20 then (t.win.ring[t.win.wcur]).l.getD (r.toNat - 0x18) 0
      else if r.toNat < 0x28 then (t.win.ring[t.win.wcur]).i.getD (r.toNat - 0x20) 0 else 0 := rfl

/-- Reading an integer register after writing one: the value written, or what it held. -/
theorem Strand.x_setX (t : Strand) (r q : RSpec) (v : Word) (hr : xOk r = true) (h0 : r ≠ 0) :
    (t.setX r v).x q = if q = r then v else t.x q := by
  have hr' : r.toNat < 0x28 := by simpa [xOk] using hr
  have h0' : r.toNat ≠ 0 := fun e => h0 (BitVec.eq_of_toNat_eq e)
  have hq : q = r ↔ q.toNat = r.toNat := BitVec.toNat_inj.symm
  have hw := t.win.next_ne
  have hw' : t.win.wcur ≠ t.win.nextSlot := fun e => hw e.symm
  simp only [hq, Strand.x_of, Strand.setX]
  generalize r.toNat = m at *
  generalize q.toNat = n at *
  by_cases c1 : m < 15
  · simp only [h0', c1, if_false, if_true]
    rw [vupd_getD _ _ _ _ _ (by omega)]
    by_cases e : n = m
    · subst e; simp only [h0', c1, if_false, if_true]
    · simp only [e, if_false]
  by_cases c2 : m = 15
  · simp only [c2, if_false, if_true, vmod_get, Nat.lt_irrefl, Nat.reduceEqDiff]
    by_cases e : n = 15
    · simp only [e, if_false, if_true, Nat.lt_irrefl, Nat.reduceEqDiff]
    · simp only [e, if_false]
  by_cases c3 : m < 0x18
  · simp only [h0', c1, c2, c3, if_false, if_true, Win.modSlot_nextSlot, Win.modSlot_wcur, Win.modSlot_get, hw']
    rw [vupd_getD _ _ _ _ _ (by omega)]
    by_cases e : n = m
    · subst e; simp only [h0', c1, c2, c3, if_false, if_true]
    by_cases d : n - 0x10 = m - 0x10
    · rcases (show n = 0 ∨ (n ≠ 0 ∧ n < 15) ∨ (n ≠ 0 ∧ ¬ n < 15 ∧ n < 0x10) by omega) with d0 | ⟨d0, d1⟩ | ⟨d0, d1, d2⟩
      · simp only [d0, if_true, Ne.symm h0', if_false]
      · simp only [d0, d1, e, if_true, if_false]
      · simp only [show n = 15 by omega, Nat.lt_irrefl, Nat.reduceEqDiff, if_true, if_false]; simp only [show ¬ 15 = m by omega, if_false]
    · simp only [e, d, if_false]
  by_cases c4 : m < 0x20
  · simp only [h0', c1, c2, c3, c4, if_false, if_true, Win.modSlot_nextSlot, Win.modSlot_wcur, Win.modSlot_get, hw]
    rw [vupd_getD _ _ _ _ _ (by omega)]
    by_cases e : n = m
    · subst e; simp only [h0', c1, c2, c3, c4, if_false, if_true]
    by_cases d : n - 0x18 = m - 0x18
    · rcases (show n = 0 ∨ (n ≠ 0 ∧ n < 15) ∨ (n ≠ 0 ∧ ¬ n < 15 ∧ n < 0x18) by omega) with d0 | ⟨d0, d1⟩ | ⟨d0, d1, d2⟩
      · simp only [d0, if_true, Ne.symm h0', if_false]
      · simp only [d0, d1, e, if_true, if_false]
      · simp only [d0, d1, e, d2, if_false, if_true]
    · simp only [e, d, if_false]
  · simp only [h0', c1, c2, c3, c4, hr', if_false, if_true, Win.modSlot_nextSlot, Win.modSlot_wcur, Win.modSlot_get, hw]
    rw [vupd_getD _ _ _ _ _ (by omega)]
    by_cases e : n = m
    · subst e; simp only [h0', c1, c2, c3, c4, hr', if_false, if_true]
    by_cases d : n - 0x20 = m - 0x20
    · rcases (show n = 0 ∨ (n ≠ 0 ∧ n < 15) ∨ (n ≠ 0 ∧ ¬ n < 15 ∧ n < 0x20) by omega) with d0 | ⟨d0, d1⟩ | ⟨d0, d1, d2⟩
      · simp only [d0, if_true, Ne.symm h0', if_false]
      · simp only [d0, d1, e, if_true, if_false]
      · simp only [d0, d1, e, d2, if_false, if_true]
    · simp only [e, d, if_false]

/-- Reading a floating register after writing one. -/
theorem Strand.f_setF (t : Strand) (r q : RSpec) (v : Word) (hr : fOk r = true) :
    (t.setF r v).f q = if q = r then v else t.f q := by
  have hr' : r.toNat < 32 := by simpa [fOk] using hr
  simp only [Strand.setF, Strand.f]
  rw [vupd_getD _ _ _ _ _ hr']
  simp [BitVec.toNat_inj]

end Sys2Proof.Machine
end

