-- ==== Sys2Proof/Laws/Access.lean ====
section
/-! SUPPORT. What the block's own near accesses change when no error waits in the arrays: the caches only. -/

namespace Sys2Proof.Machine

open Sys2Proof

/-- Nothing but the caches and TLBs differs. -/
def OnlyMs (s t : State) : Prop := { t with ms := s.ms } = s

theorem OnlyMs.refl (s : State) : OnlyMs s s := rfl

theorem OnlyMs.trans {s t u : State} (h1 : OnlyMs s t) (h2 : OnlyMs t u) : OnlyMs s u := by
  unfold OnlyMs at *
  have e : ({ u with ms := s.ms } : State) = { ({ u with ms := t.ms } : State) with ms := s.ms } := rfl
  rw [e, h2, h1]

theorem OnlyMs.of_ms (s : State) (m : MemSys) : OnlyMs s { s with ms := m } := rfl

theorem OnlyMs.modMs (s : State) (f : MemSys → MemSys) : OnlyMs s (s.modMs f) := rfl

theorem OnlyMs.modArr (s : State) (c : CId) (f : CacheArr → CacheArr) : OnlyMs s (s.modArr c f) := rfl

/-- Every field but the caches is the same. -/
theorem OnlyMs.field {α : Type} {s t : State} (h : OnlyMs s t) (g : State → α)
    (hg : ∀ (u : State) (m : MemSys), g { u with ms := m } = g u) : g t = g s := by
  rw [← hg t s.ms, h]

theorem OnlyMs.near {s t : State} (h : OnlyMs s t) : t.near = s.near := h.field (fun u => u.near) (fun _ _ => rfl)
theorem OnlyMs.home {s t : State} (h : OnlyMs s t) : t.home = s.home := h.field (fun u => u.home) (fun _ _ => rfl)
theorem OnlyMs.spad {s t : State} (h : OnlyMs s t) : t.spad = s.spad := h.field (fun u => u.spad) (fun _ _ => rfl)
theorem OnlyMs.marks {s t : State} (h : OnlyMs s t) : t.marks = s.marks := h.field (fun u => u.marks) (fun _ _ => rfl)
theorem OnlyMs.tiles {s t : State} (h : OnlyMs s t) : t.tiles = s.tiles := h.field (fun u => u.tiles) (fun _ _ => rfl)
theorem OnlyMs.strands {s t : State} (h : OnlyMs s t) : t.strands = s.strands := h.field (fun u => u.strands) (fun _ _ => rfl)
theorem OnlyMs.pending {s t : State} (h : OnlyMs s t) : t.pending = s.pending := h.field (fun u => u.pending) (fun _ _ => rfl)
theorem OnlyMs.str {s t : State} (h : OnlyMs s t) (k : StrandId) : t.str k = s.str k :=
  h.field (fun u => u.str k) (fun _ _ => rfl)

theorem State.markAt_nil (s : State) (c l : Nat) (h : s.marks = []) : s.markAt c l = none := by
  simp [State.markAt, h]

/-- A line that leaves the L2 meets no error when none waits. -/
theorem meetLeaving_clean (s : State) (l : Line) (d : Bool) (h : s.marks = []) : meetLeaving s l d = s := by
  simp [meetLeaving, h]

theorem meetHalves_clean (s : State) (line : Nat) (h : s.marks = []) : meetHalves s line = s := by simp [meetHalves, h]

theorem clearPlace_clean (s : State) (code set way : Nat) (h : s.marks = []) : clearPlace s code set way = s := by
  cases s; simp only at h; subst h; rfl

theorem readTag_clean (fire : Bool) (s : State) (c : CId) (set way : Nat) (h : s.marks = []) : readTag fire s c set way = s := by
  unfold readTag
  simp only [State.markAt_nil s _ _ h]

/-- A lookup of the L2 finds what it holds, and changes nothing, when no error waits. -/
theorem lookL2_clean (s : State) (line : Nat) (h : s.marks = []) : lookL2 s line = (s.ms.l2.find false line, s) := by
  unfold lookL2 meetTag
  split
  · next e => rw [e]
  · simp only [readTag_clean false s _ _ _ h]

/-- A lookup of the L1D finds what it holds, and changes nothing, when no error waits. -/
theorem lookL1D_clean (s : State) (l64 : Nat) (h : s.marks = []) : lookL1D s l64 = (s.ms.l1d.find false l64, s) := by
  unfold lookL1D meetTag
  split
  · next e => rw [e]
  · simp only [readTag_clean false s _ _ _ h]

theorem probeLine_clean (s : State) (line : Nat) (h : s.marks = []) : probeLine s line = s := by
  simp only [probeLine, lookL1D_clean s _ h, lookL2_clean s _ h]

theorem clearBuf_clean (s : State) (code line : Nat) (h : s.marks = []) : clearBuf s code line = s := by
  cases s; simp only at h; subst h; rfl

theorem dropReads_onlyMs (s : State) (w : PWho) : OnlyMs s (dropReads s w) := by unfold dropReads; split <;> rfl

theorem engDone_onlyMs (s : State) (g : Ag) : OnlyMs s (engDone s g) := by unfold engDone; split <;> rfl

/-- A line is neither poisoned nor answered with an error when no error waits. -/
theorem lookPoison_clean (s : State) (k : StrandId) (line : Nat) (h : s.marks = []) : lookPoison s k line = none := by
  simp [lookPoison, State.badLine, State.markAt_nil s _ _ h]

/-- Words of a line are read without an error when none waits. -/
theorem meetWords_clean (s : State) (k : StrandId) (l : Line) (ws : List Nat) (h : s.marks = []) : meetWords s k l ws = .ok s := by
  simp [meetWords, h]

theorem mergeL1D_onlyMs (s : State) (line : Nat) (h : s.marks = []) : OnlyMs s (mergeL1D s line) := by
  unfold mergeL1D
  rw [meetHalves_clean s line h]
  split
  · exact (OnlyMs.modArr s _ _).trans (OnlyMs.modArr _ _ _)
  · exact OnlyMs.refl s

/-- A victim leaves the L2: the caches alone change. -/
theorem evictL2_onlyMs (s t : State) (l : Line) (hm : s.marks = []) (h : evictL2 s l = some t) : OnlyMs s t := by
  simp only [evictL2, probeLine_clean s _ hm, meetLeaving_clean s l _ hm] at h
  split at h
  · cases h; rfl
  · split at h
    · cases h
    · have hd : (dropL1 s l.line).marks = [] := hm
      rw [clearBuf_clean _ _ _ hd] at h
      cases h; rfl

/-- A line is put into the L2: the caches alone change. -/
theorem installL2_onlyMs (s t : State) (line : Nat) (st : Mesi) (w : Option Nat) (hm : s.marks = [])
    (h : installL2 s line st w = some t) : OnlyMs s t := by
  have go : ∀ (u : State) (x : Nat) (f : CacheArr → CacheArr), OnlyMs s u → OnlyMs s ((clearPlace u 3 (line % 1024) x).modArr .l2 f) := by
    intro u x f hu
    rw [clearPlace_clean u _ _ _ (hu.marks.trans hm)]
    exact hu.trans (OnlyMs.modArr u _ _)
  unfold installL2 at h
  dsimp only at h
  repeat' split at h
  all_goals first
    | (cases h; done)
    | (cases h; exact go s _ _ (OnlyMs.refl s))
    | (simp only [Option.map_eq_some_iff] at h
       obtain ⟨u, hu, rfl⟩ := h
       exact go u _ _ (evictL2_onlyMs s u _ hm hu))

/-- What an engine's read of a held line of Normal memory does when no error waits: the bytes are there, and the caches alone change. -/
theorem readUse_held (s : State) (g : Ag) (pa n : Nat) (walk : Bool) (hm : s.marks = [])
    (hl : (s.ms.l2.find false (pa / 128)).isSome = true) : ∃ t : State, readUse s g pa n walk = .hit t ∧ OnlyMs s t := by
  obtain ⟨l, e⟩ := Option.isSome_iff_exists.mp hl
  refine ⟨_, ?_, ((mergeL1D_onlyMs s (pa / 128) hm).trans (OnlyMs.modArr _ .l2 (fun c => c.touch 4 l.set l.way))).trans (engDone_onlyMs _ g)⟩
  unfold readUse
  simp only [lookL2_clean s _ hm, e, meetWords_clean s g.k l _ hm, lookPoison_clean s g.k _ hm, Option.isSome_some, if_true]

/-- A table read of a held line, or of one past the caches that the near port has answered: the caches alone change. -/
theorem tableRead_held (s : State) (k : StrandId) (va : Word) (pa n : Nat) (hm : s.marks = []) (hl : TableHeld s k va pa n) :
    ∃ t : State, tableRead s k va pa n = .hit t ∧ OnlyMs s t := by
  by_cases h : s.mtype pa = .normal
  · obtain ⟨t, ht, ho⟩ := readUse_held s { k := k, id := 0 } pa n true hm (hl.1 h)
    exact ⟨t, by simp [tableRead, h, State.markAt_nil s _ _ hm, ht], ho⟩
  · obtain ⟨r, hr, hd, hp, he⟩ := hl.2 h
    exact ⟨s, by simp [tableRead, h, askPort, hr, hd, hp, he], OnlyMs.refl s⟩

/-! ### Translation with PTB.E clear -/

/-- At ML with translation off a near address below 2^48 is the physical address (R325). -/
theorem translate_ml_off (s : State) (x : XCtx) (kind : AK) (va : Word) (h1 : va.toNat < 2 ^ 48) (h2 : x.ptb.getLsbD 0 = false)
    (h3 : x.lv = .ml) : translate s x kind va = .ok va.toNat (s.mtype va.toNat) s := by
  unfold translate
  rw [if_neg (by omega), h2, Bool.not_false, if_pos rfl, if_pos h3]

/-- The fetch of an instruction by a strand at ML with translation off, outside the window, succeeds and changes nothing. -/
theorem fetchWords_ml_off (s : State) (k : StrandId) (pc : Word) (h1 : pc.toNat < 2 ^ 48) (h2 : isWin pc = false)
    (h3 : (s.str k).status.lvl = .ml) (h4 : (s.str k).xl.ptb.getLsbD 0 = false) : fetchWords s k pc = .ok [] s := by
  unfold fetchWords
  rw [h2, translate_ml_off s (s.xctx k) .fetch pc h1 h4 h3]
  rfl

/-! ### Save frames -/

/-- Bytes read outside every frame whose contents are unpredictable are those of memory. -/
theorem frameLoad_off (s : State) (k : StrandId) (va : Nat) (bs : List Byte) (h : s.framesHit k va bs.length = false) :
    frameLoad s k va bs = (bs, s) := by simp [frameLoad, h]

/-- A store outside every such frame changes no context. -/
theorem frameStore_off (s : State) (k : StrandId) (va n : Nat) (h : s.framesHit k va n = false) : frameStore s k va n = s := by
  simp [frameStore, h]

/-! ### The window -/

/-- A scratchpad write when no error waits. -/
theorem spWrite_clean (s : State) (k : StrandId) (o : Nat) (bs : List Byte) (h : s.marks = []) :
    spWrite s k o bs = { s with spad := s.spad.putN o bs } := by
  simp [spWrite, h]

theorem spMeet_clean (s : State) (k : StrandId) (o n : Nat) (h : s.marks = []) : spMeet s k o n = (true, s) := by
  simp [spMeet, h]

end Sys2Proof.Machine
end

