-- ==== Sys2Proof/Laws/Mem.lean ====
section
/-! SUPPORT. The addressed memories: a read after a write gives the byte written, a write leaves every other byte alone, and
every memory operation keeps the canonical form. -/

namespace Sys2Proof.Machine

open Sys2Proof

/-! ### One byte -/

/-- The canonical form as a statement: addresses strictly rising, no entry of 0. -/
theorem Memory.wf_iff (m : Mem) : Memory.wf m = true ↔ (m.Pairwise (fun a b => a.1 < b.1) ∧ ∀ c ∈ m, c.2 ≠ 0) := by
  induction m with
  | nil => simp [Memory.wf]
  | cons a r ih =>
    cases r with
    | nil => simp [Memory.wf]
    | cons b q =>
      have e : Memory.wf (a :: b :: q) = (a.2 != 0 && decide (a.1 < b.1) && Memory.wf (b :: q)) := rfl
      rw [e]
      simp only [Bool.and_eq_true, ih, bne_iff_ne, decide_eq_true_eq, List.pairwise_cons, List.forall_mem_cons]
      constructor
      · rintro ⟨⟨h1, h2⟩, ⟨h3, h4⟩, h5, h6⟩
        exact ⟨⟨⟨h2, fun c hc => Nat.lt_trans h2 (h3 c hc)⟩, h3, h4⟩, h1, h5, h6⟩
      · rintro ⟨⟨⟨h2, _⟩, h3, h4⟩, h1, h5, h6⟩
        exact ⟨⟨h1, h2⟩, ⟨h3, h4⟩, h5, h6⟩

/-- An entry of a memory in canonical form is what its address reads as. -/
theorem Mem.get_below (m : Mem) (a : Nat) (h : ∀ c ∈ m, a < c.1) : m.get a = 0 := by
  cases m with
  | nil => rfl
  | cons c r =>
    have hc := h c (by simp)
    simp [Mem.get, hc, Nat.ne_of_lt hc]

theorem Mem.get_cons (y x : Nat) (d : Byte) (r : Mem) : Mem.get ((y, d) :: r) x = if x = y then d else if x < y then 0 else r.get x := rfl

/-- A read after a write of one byte. -/
theorem Mem.get_put (m : Mem) (a x : Nat) (b : Byte) (h : Memory.wf m = true) :
    (m.put a b).get x = if x = a then b else m.get x := by
  induction m with
  | nil =>
    by_cases hb : b = 0
    · subst hb; simp [Mem.put, Mem.get]
    · rw [Mem.put, if_neg hb, Mem.get_cons]; by_cases e : x = a
      · rw [if_pos e, if_pos e]
      · rw [if_neg e, if_neg e]; exact ite_self _
  | cons c r ih =>
    have hw := (Memory.wf_iff _).1 h
    have hr : Memory.wf r = true := (Memory.wf_iff r).2 ⟨(List.pairwise_cons.1 hw.1).2, fun c hc => hw.2 c (by simp [hc])⟩
    have hlt : ∀ d ∈ r, c.1 < d.1 := (List.pairwise_cons.1 hw.1).1
    obtain ⟨y, d⟩ := c
    simp only [Mem.put]
    by_cases h1 : a < y
    · have below : ∀ z, z < y → Mem.get ((y, d) :: r) z = 0 := fun z hz =>
        Mem.get_below _ z (fun c hc => (List.mem_cons.1 hc).elim (fun e => by rw [e]; exact hz) (fun hc => Nat.lt_trans hz (hlt c hc)))
      rw [if_pos h1]
      by_cases hb : b = 0
      · rw [if_pos hb]
        by_cases e : x = a
        · rw [if_pos e, e, below a h1, hb]
        · rw [if_neg e]
      · rw [if_neg hb, Mem.get_cons]
        by_cases e : x = a
        · rw [if_pos e, if_pos e]
        · rw [if_neg e, if_neg e]
          by_cases hx : x < a
          · rw [if_pos hx, below x (Nat.lt_trans hx h1)]
          · rw [if_neg hx]
    · rw [if_neg h1]
      by_cases h2 : a = y
      · subst h2
        rw [if_pos rfl]
        by_cases hb : b = 0
        · rw [if_pos hb]
          by_cases e : x = a
          · rw [if_pos e, e, hb]; exact Mem.get_below r _ hlt
          · rw [if_neg e, Mem.get_cons, if_neg e]
            by_cases hx : x < a
            · rw [if_pos hx]; exact Mem.get_below r _ (fun c hc => Nat.lt_trans hx (hlt c hc))
            · rw [if_neg hx]
        · rw [if_neg hb, Mem.get_cons, Mem.get_cons]
          by_cases e : x = a
          · rw [if_pos e, if_pos e]
          · rw [if_neg e, if_neg e, if_neg e]
      · rw [if_neg h2, Mem.get_cons, Mem.get_cons, ih hr]
        by_cases e : x = a
        · rw [if_pos e, if_pos e, if_neg (by omega), if_neg (by omega)]
        · rw [if_neg e, if_neg e]

theorem Mem.mem_put (m : Mem) (a : Nat) (b : Byte) (c : Host.Cell) (h : c ∈ m.put a b) : c ∈ m ∨ (c = (a, b) ∧ b ≠ 0) := by
  induction m with
  | nil =>
    simp only [Mem.put] at h
    split at h
    · simp at h
    · simp at h; exact .inr ⟨h, ‹_›⟩
  | cons d r ih =>
    obtain ⟨y, e⟩ := d
    simp only [Mem.put] at h
    split at h
    · split at h
      · exact .inl h
      · rcases List.mem_cons.1 h with h | h
        · exact .inr ⟨h, ‹_›⟩
        · exact .inl h
    · split at h
      · split at h
        · exact .inl (by simp [h])
        · rcases List.mem_cons.1 h with h | h
          · exact .inr ⟨h, ‹_›⟩
          · exact .inl (by simp [h])
      · rcases List.mem_cons.1 h with h | h
        · exact .inl (by simp [h])
        · rcases ih h with h | h
          · exact .inl (by simp [h])
          · exact .inr h

/-- A write of one byte keeps the canonical form. -/
theorem Mem.wf_put (m : Mem) (a : Nat) (b : Byte) (h : Memory.wf m = true) : Memory.wf (m.put a b) = true := by
  rw [Memory.wf_iff] at *
  refine ⟨?_, fun c hc => ?_⟩
  · induction m with
    | nil => simp only [Mem.put]; split <;> simp
    | cons d r ih =>
      obtain ⟨y, e⟩ := d
      obtain ⟨hp, hz⟩ := h
      have hc := List.pairwise_cons.1 hp
      simp only [Mem.put]
      split <;> rename_i h1
      · split
        · exact hp
        · refine List.pairwise_cons.2 ⟨fun c hm => ?_, hp⟩
          rcases List.mem_cons.1 hm with rfl | hm
          · exact h1
          · exact Nat.lt_trans h1 (hc.1 c hm)
      · split <;> rename_i h2
        · subst h2
          split
          · exact hc.2
          · exact List.pairwise_cons.2 ⟨hc.1, hc.2⟩
        · refine List.pairwise_cons.2 ⟨fun c hm => ?_, ih ⟨hc.2, fun c hm => hz c (by simp [hm])⟩⟩
          rcases Mem.mem_put r a b c hm with hm | ⟨rfl, _⟩
          · exact hc.1 c hm
          · simp only; omega
  · rcases Mem.mem_put m a b c hc with hm | ⟨rfl, hb⟩
    · exact h.2 c hm
    · exact hb

/-! ### Several bytes -/

theorem Mem.wf_putN (m : Mem) (a : Nat) (bs : List Byte) (h : Memory.wf m = true) : Memory.wf (m.putN a bs) = true := by
  induction bs generalizing m a with
  | nil => exact h
  | cons b r ih => exact ih _ _ (Mem.wf_put m a b h)

theorem Mem.wf_putLE (m : Mem) (a n v : Nat) (h : Memory.wf m = true) : Memory.wf (m.putLE a n v) = true :=
  Mem.wf_putN m a _ h

/-- A read after a write of bytes: within them the byte written, elsewhere what was there. -/
theorem Mem.get_putN (m : Mem) (a x : Nat) (bs : List Byte) (h : Memory.wf m = true) :
    (m.putN a bs).get x = if a ≤ x ∧ x < a + bs.length then bs.getD (x - a) 0 else m.get x := by
  induction bs generalizing m a with
  | nil => simp only [Mem.putN, List.length_nil]; rw [if_neg (by omega)]
  | cons b r ih =>
    simp only [Mem.putN, ih _ _ (Mem.wf_put m a b h), Mem.get_put m a x b h, List.length_cons]
    by_cases e : x = a
    · subst e; rw [if_neg (by omega), if_pos rfl, if_pos (by omega), Nat.sub_self]; rfl
    · by_cases hx : a ≤ x ∧ x < a + (r.length + 1)
      · have h1 : a + 1 ≤ x ∧ x < a + 1 + r.length := by omega
        have h2 : x - a = (x - (a + 1)) + 1 := by omega
        simp only [h1, hx, and_self, if_true, h2, List.getD_cons_succ]
      · have h1 : ¬ (a + 1 ≤ x ∧ x < a + 1 + r.length) := by omega
        simp only [h1, hx, e, if_false]

@[simp] theorem toLE_length (n v : Nat) : (toLE n v).length = n := by
  induction n generalizing v with
  | zero => rfl
  | succ n ih => simp [toLE, ih]

theorem toLE_getD (n v i : Nat) (hi : i < n) : (toLE n v).getD i 0 = BitVec.ofNat 8 (v / 256 ^ i) := by
  induction n generalizing v i with
  | zero => omega
  | succ n ih =>
    cases i with
    | zero => simp [toLE]
    | succ i => simp only [toLE, List.getD_cons_succ, ih _ i (by omega), Nat.pow_succ', Nat.div_div_eq_div_mul]

theorem leNat_toLE (n v : Nat) : leNat (toLE n v) = v % 256 ^ n := by
  induction n generalizing v with
  | zero => simp [toLE, leNat, Nat.mod_one]
  | succ n ih =>
    have e : (BitVec.ofNat 8 v).toNat = v % 256 := BitVec.toNat_ofNat v 8
    rw [toLE, leNat, ih, e, Nat.pow_succ', Nat.mod_mul]

/-- A read of a memory outside the bytes written. -/
theorem Mem.get_putN_out (m : Mem) (a x : Nat) (bs : List Byte) (h : Memory.wf m = true) (hx : x < a ∨ a + bs.length ≤ x) :
    (m.putN a bs).get x = m.get x := by
  rw [Mem.get_putN m a x bs h, if_neg (by omega)]

/-! ### Whole ranges -/

theorem Memory.wf_filter (m : Mem) (p : Host.Cell → Bool) (h : Memory.wf m = true) : Memory.wf (m.filter p) = true := by
  rw [Memory.wf_iff] at *
  exact ⟨h.1.filter p, fun c hc => h.2 c (List.mem_filter.1 hc).1⟩

theorem Mem.wf_zeroN (m : Mem) (a n : Nat) (h : Memory.wf m = true) : Memory.wf (m.zeroN a n) = true := Memory.wf_filter m _ h

theorem Mem.wf_slice (m : Mem) (a n : Nat) (h : Memory.wf m = true) : Memory.wf (m.slice a n) = true := by
  have h1 := (Memory.wf_iff _).1 (Memory.wf_filter m (fun c => decide (a ≤ c.1) && decide (c.1 < a + n)) h)
  rw [Memory.wf_iff, Mem.slice]
  refine ⟨List.pairwise_map.2 (h1.1.imp_of_mem fun {c d} hc hd hlt => ?_), fun c hc => ?_⟩
  · have := (List.mem_filter.1 hc).2
    simp only [Bool.and_eq_true, decide_eq_true_eq] at this
    simp only; omega
  · obtain ⟨d, hd, rfl⟩ := List.mem_map.1 hc
    exact h1.2 d hd

theorem mem_cellsFrom (a : Nat) (bs : List Byte) (c : Host.Cell) (h : c ∈ cellsFrom a bs) :
    a ≤ c.1 ∧ c.1 < a + bs.length ∧ c.2 ≠ 0 := by
  induction bs generalizing a with
  | nil => simp [cellsFrom] at h
  | cons b r ih =>
    simp only [cellsFrom] at h
    split at h
    · obtain ⟨h1, h2, h3⟩ := ih (a + 1) h; rw [List.length_cons]; exact ⟨by omega, by omega, h3⟩
    · rcases List.mem_cons.1 h with rfl | h
      · exact ⟨Nat.le_refl _, by simp, ‹_›⟩
      · obtain ⟨h1, h2, h3⟩ := ih (a + 1) h; rw [List.length_cons]; exact ⟨by omega, by omega, h3⟩

theorem cellsFrom_pairwise (a : Nat) (bs : List Byte) : (cellsFrom a bs).Pairwise (fun c d => c.1 < d.1) := by
  induction bs generalizing a with
  | nil => simp [cellsFrom]
  | cons b r ih =>
    simp only [cellsFrom]
    split
    · exact ih _
    · refine List.pairwise_cons.2 ⟨fun c hc => ?_, ih _⟩
      have := mem_cellsFrom _ _ _ hc
      simp only; omega

theorem wf_cellsFrom (a : Nat) (bs : List Byte) : Memory.wf (cellsFrom a bs) = true :=
  (Memory.wf_iff _).2 ⟨cellsFrom_pairwise a bs, fun c hc => (mem_cellsFrom a bs c hc).2.2⟩

theorem Mem.wf_splice (m : Mem) (a : Nat) (bs : List Byte) (h : Memory.wf m = true) : Memory.wf (m.splice a bs) = true := by
  rw [Memory.wf_iff] at *
  have hf := fun (p : Host.Cell → Bool) => h.1.filter p
  refine ⟨List.pairwise_append.2 ⟨List.pairwise_append.2 ⟨hf _, cellsFrom_pairwise a bs, ?_⟩, hf _, ?_⟩, ?_⟩
  · intro c hc d hd
    have h1 := (List.mem_filter.1 hc).2; have h2 := mem_cellsFrom a bs d hd
    simp only [decide_eq_true_eq] at h1; omega
  · intro c hc d hd
    have h2 := (List.mem_filter.1 hd).2
    simp only [decide_eq_true_eq] at h2
    rcases List.mem_append.1 hc with hc | hc
    · have h1 := (List.mem_filter.1 hc).2
      simp only [decide_eq_true_eq] at h1; omega
    · have := mem_cellsFrom a bs c hc; omega
  · intro c hc
    rcases List.mem_append.1 hc with hc | hc
    · rcases List.mem_append.1 hc with hc | hc
      · exact h.2 c (List.mem_filter.1 hc).1
      · exact (mem_cellsFrom a bs c hc).2.2
    · exact h.2 c (List.mem_filter.1 hc).1

/-! ### The memories at reset -/

theorem reset_near_wf : Memory.wf State.reset.near = true := rfl
theorem reset_spad_wf : Memory.wf State.reset.spad = true := rfl
theorem reset_home_wf : Memory.wf State.reset.home = true := rfl

end Sys2Proof.Machine
end

