-- ==== Sys2Proof/Laws/Block.lean ====
section
/-! SUPPORT. What blocks of the strand's own accesses do in the scratchpad when no error waits there (R51, R98, R283). -/

namespace Sys2Proof.Machine

open Sys2Proof

theorem State.spadSize_le (s : State) : s.spadSize ≤ 0x400000 := by
  unfold State.spadSize
  split <;> omega

/-- A range of the window. -/
theorem win_range (s : State) (va : Word) (n : Nat) (h1 : spw ≤ va.toNat) (h2 : va.toNat + n ≤ spw + s.spadSize) :
    winPart va n = false ∧ isWin va = true ∧ va.toNat - spw + n ≤ s.spadSize := by
  have := s.spadSize_le
  have e : spw = 0x7E0000000000 := rfl
  refine ⟨?_, ?_, by omega⟩
  · simp only [winPart, Bool.and_eq_false_iff, Bool.not_eq_false', Bool.and_eq_true, decide_eq_true_eq, decide_eq_false_iff_not]
    omega
  · simp only [isWin, Bool.and_eq_true, decide_eq_true_eq]
    omega

/-! ### Blocks -/

/-- Units that lie in the scratchpad, with their places. -/
def spadUnits (as : List Word) : List Unit1 := as.map (fun a => (a, .sp (a.toNat - spw)))

/-- The places of units in the scratchpad: nothing is translated, and nothing changes. -/
theorem placeUnits_spad (x : XCtx) (st : Bool) (u : Nat) (as : List Word) (acc : List Unit1) (s : State)
    (h : ∀ a ∈ as, spw ≤ a.toNat ∧ a.toNat + u ≤ spw + s.spadSize) :
    placeUnits x st u as acc s = .ok (acc ++ spadUnits as, s) := by
  induction as generalizing acc with
  | nil => simp [placeUnits, spadUnits]
  | cons a r ih =>
    obtain ⟨h1, h2⟩ := h a (.head _)
    have hw := win_range s a u h1 h2
    have hz := s.spadSize_le
    have e : spw = 0x7E0000000000 := rfl
    have hn : a.getLsbD 63 = false := by
      rw [BitVec.getLsbD, Nat.testBit_lt_two_pow]
      omega
    unfold placeUnits
    rw [hn, hw.1, hw.2.1, if_neg (by simp), if_neg (by simp), if_pos rfl]
    dsimp only
    rw [if_neg (by omega), ih _ (fun b hb => h b (.tail _ hb))]
    simp [spadUnits]

@[simp] theorem memSegs_spad (as : List Word) : memSegs (spadUnits as) = [] := by simp [memSegs, spadUnits]
@[simp] theorem farUnits_spad (as : List Word) : farUnits (spadUnits as) = [] := by simp [farUnits, spadUnits]
@[simp] theorem portCuts_spad (as : List Word) : portCuts (spadUnits as) = [] := by simp [portCuts, spadUnits]
@[simp] theorem hasNear_spad (as : List Word) : hasNear (spadUnits as) = false := by simp [hasNear, spadUnits]
@[simp] theorem hasDev_spad (as : List Word) : hasDev (spadUnits as) = false := by simp [hasDev, spadUnits]

theorem unitsHeld_spad (s : State) (k : StrandId) (wr : Bool) (u : Nat) (as : List Word) :
    unitsHeld s k wr u (spadUnits as) = as.any (fun a => moveHits s k true wr (a.toNat - spw) u) := by
  simp [unitsHeld, spadUnits, List.any_map, Function.comp_def]

theorem spUnits_spad (k : StrandId) (u : Nat) (as : List Word) (s : State) (hm : s.marks = []) :
    spUnits k u (spadUnits as) s = (true, s) := by
  induction as with
  | nil => rfl
  | cons a r ih => simpa [spadUnits, spUnits, spMeet_clean _ _ _ _ hm] using ih

theorem unitBytes_spad (s : State) (u : Nat) (as : List Word) (pb : List Byte) (fs : List (List Byte)) :
    unitBytes s u (spadUnits as) pb fs = as.flatMap (fun a => s.spad.getN (a.toNat - spw) u) := by
  induction as with
  | nil => rfl
  | cons a r ih => simpa [spadUnits, unitBytes] using ih

/-- A block read of units in the scratchpad: their bytes, and nothing changes. -/
theorem loadBlock_units (s : State) (x : XCtx) (va : Word) (n u : Nat) (hm : s.marks = [])
    (h : ∀ a ∈ unitAddrs va n u, spw ≤ a.toNat ∧ a.toNat + u ≤ spw + s.spadSize)
    (hh : ∀ a ∈ unitAddrs va n u, moveHits s x.k true false (a.toNat - spw) u = false) (hd : devOpen s x.k = false)
    (hf : s.framesHit x.k va.toNat ((unitAddrs va n u).flatMap (fun a => s.spad.getN (a.toNat - spw) u)).length = false) :
    loadBlock s x va n u = .ok ((unitAddrs va n u).flatMap (fun a => s.spad.getN (a.toNat - spw) u)) s := by
  have hu : unitsHeld s x.k false u (spadUnits (unitAddrs va n u)) = false := by
    rw [unitsHeld_spad, List.any_eq_false]
    simpa using hh
  unfold loadBlock
  rw [placeUnits_spad x false u _ [] s h]
  dsimp only
  rw [List.nil_append, hu, hd]
  simp [segWords, lookAll, farAll, farTake, spUnits_spad _ _ _ _ hm, unitBytes_spad, frameLoad_off _ _ _ _ hf]

theorem Mem.getN_length (m : Mem) (a n : Nat) : (m.getN a n).length = n := by
  induction n generalizing a with
  | zero => rfl
  | succ n ih => simp [Mem.getN, ih]

theorem Mem.getN_add (m : Mem) (a i j : Nat) : m.getN a (i + j) = m.getN a i ++ m.getN (a + i) j := by
  induction i generalizing a with
  | zero => simp [Mem.getN]
  | succ i ih => rw [Nat.succ_add, Mem.getN, Mem.getN, ih]; simp [Nat.add_assoc, Nat.add_comm 1 i]

/-- Units of equal size one after another hold the bytes of their range. -/
theorem Mem.getN_units (m : Mem) (o u c : Nat) :
    (List.range c).flatMap (fun i => m.getN (o + u * i) u) = m.getN o (u * c) := by
  induction c with
  | zero => rfl
  | succ c ih => rw [List.range_succ, List.flatMap_append, ih, Nat.mul_succ, Mem.getN_add]; simp

/-- A tile move that meets no byte of a range meets none of a part of it. -/
theorem moveHits_part (s : State) (k : StrandId) (wr : Bool) (a n b m : Nat) (h : moveHits s k true wr a n = false)
    (h1 : a ≤ b) (h2 : b + m ≤ a + n) : moveHits s k true wr b m = false := by
  unfold moveHits at h ⊢
  rw [List.any_eq_false] at h ⊢
  intro o ho
  have hx := h o ho
  have sub : ∀ t : List MvPiece, (t.any (fun q => (q.pl == .sp) == true && decide (q.a < b + m) && decide (b < q.a + q.n))) = true →
      (t.any (fun q => (q.pl == .sp) == true && decide (q.a < a + n) && decide (a < q.a + q.n))) = true := by
    intro t ht
    rw [List.any_eq_true] at ht ⊢
    obtain ⟨q, hq, hc⟩ := ht
    refine ⟨q, hq, ?_⟩
    simp only [Bool.and_eq_true, decide_eq_true_eq] at hc ⊢
    exact ⟨⟨hc.1.1, by omega⟩, by omega⟩
  simp only [Bool.and_eq_true, not_and] at hx ⊢
  intro hc hb
  refine hx hc ?_
  revert hb
  cases o.body <;> simp only [Bool.and_eq_true] <;> first | exact fun ⟨w, hb⟩ => ⟨w, sub _ hb⟩ | exact fun hb => sub _ hb | exact fun hb => hb

/-- A block read in the scratchpad: its bytes, and nothing changes. -/
theorem loadBlock_spad (s : State) (x : XCtx) (va : Word) (u c : Nat) (hm : s.marks = []) (hu : 0 < u) (h1 : spw ≤ va.toNat)
    (h2 : va.toNat + u * c ≤ spw + s.spadSize) (hh : moveHits s x.k true false (va.toNat - spw) (u * c) = false)
    (hd : devOpen s x.k = false) (hf : s.framesHit x.k va.toNat (u * c) = false) :
    loadBlock s x va (u * c) u = .ok (s.spad.getN (va.toNat - spw) (u * c)) s := by
  have hz := s.spadSize_le
  have e : spw = 0x7E0000000000 := rfl
  have hc : (u * c + u - 1) / u = c := by
    rw [Nat.add_sub_assoc hu, Nat.mul_add_div hu, Nat.div_eq_of_lt (by omega), Nat.add_zero]
  have hi : ∀ i < c, u * i + u ≤ u * c := fun i hi => by rw [← Nat.mul_succ]; exact Nat.mul_le_mul_left u hi
  have ha : ∀ i < c, (va + w64 (u * i)).toNat = va.toNat + u * i := by
    intro i hc
    have := hi i hc
    rw [w64, BitVec.toNat_add, BitVec.toNat_ofNat, Nat.mod_eq_of_lt (b := 2 ^ 64) (by omega), Nat.mod_eq_of_lt (by omega)]
  have hm' : ∀ a ∈ unitAddrs va (u * c) u, ∃ i < c, a = va + w64 (u * i) := by
    intro a h
    rw [unitAddrs, hc, List.mem_map] at h
    obtain ⟨i, hr, rfl⟩ := h
    exact ⟨i, List.mem_range.mp hr, rfl⟩
  have hs : (unitAddrs va (u * c) u).flatMap (fun a => s.spad.getN (a.toNat - spw) u) = s.spad.getN (va.toNat - spw) (u * c) := by
    have hb : (List.range c).map (fun i => s.spad.getN ((va + w64 (u * i)).toNat - spw) u)
        = (List.range c).map (fun i => s.spad.getN (va.toNat - spw + u * i) u) :=
      List.map_congr_left (fun i hr => by rw [ha i (List.mem_range.mp hr), Nat.sub_add_comm h1])
    rw [← Mem.getN_units, unitAddrs, hc, List.flatMap_map, List.flatMap_def, hb, List.flatMap_def]
  rw [loadBlock_units s x va (u * c) u hm _ _ hd (by rw [hs, Mem.getN_length]; exact hf), hs]
  · intro a h
    obtain ⟨i, hc, rfl⟩ := hm' a h
    have := hi i hc
    rw [ha i hc]
    omega
  · intro a h
    obtain ⟨i, hc, rfl⟩ := hm' a h
    have := hi i hc
    rw [ha i hc]
    exact moveHits_part s x.k false _ _ _ _ hh (by omega) (by omega)

end Sys2Proof.Machine
end

