-- ==== Sys2Proof/Laws/Boot.lean ====
section
/-! SUPPORT. CRC-32C is a 32-bit value, a serial memory reads as the bytes that its cells were laid from, and a block that ends with its
CRC is good. -/

namespace Sys2Proof.Machine

open Sys2Proof

theorem crcBit_lt (c : Nat) (h : c < 2 ^ 32) : crcBit c < 2 ^ 32 := by
  unfold crcBit
  split
  · exact Nat.xor_lt_two_pow (by omega) (by omega)
  · omega

theorem crcByte_lt (c : Nat) (b : Byte) (h : c < 2 ^ 32) : crcByte c b < 2 ^ 32 := by
  have hb : b.toNat < 2 ^ 32 := by omega
  unfold crcByte
  exact crcBit_lt _ (crcBit_lt _ (crcBit_lt _ (crcBit_lt _ (crcBit_lt _ (crcBit_lt _ (crcBit_lt _ (crcBit_lt _ (Nat.xor_lt_two_pow h hb))))))))

theorem crcFold_lt (bs : List Byte) (c : Nat) (h : c < 2 ^ 32) : bs.foldl crcByte c < 2 ^ 32 := by
  induction bs generalizing c with
  | nil => exact h
  | cons b bs ih => exact ih _ (crcByte_lt c b h)

theorem crc32c_lt (bs : List Byte) : crc32c bs < 2 ^ 32 := Nat.xor_lt_two_pow (crcFold_lt bs _ (by omega)) (by omega)

theorem flashCells_ge (a : Nat) (bs : List Byte) : ∀ c ∈ flashCells a bs, a ≤ c.1 := by
  induction bs generalizing a with
  | nil => simp [flashCells]
  | cons b bs ih =>
    intro c h
    unfold flashCells at h
    split at h
    · have := ih _ c h
      omega
    · rcases List.mem_cons.1 h with rfl | h
      · exact Nat.le_refl _
      · have := ih _ c h
        omega

theorem flashGo_cells (a : Nat) (bs : List Byte) : flashGo bs.length a (flashCells a bs) = bs := by
  induction bs generalizing a with
  | nil => rfl
  | cons b bs ih =>
    unfold flashCells
    split
    · rename_i hb
      have hg := flashCells_ge (a + 1) bs
      have := ih (a + 1)
      cases hc : flashCells (a + 1) bs with
      | nil =>
        rw [hc] at this
        rw [List.length_cons, flashGo, this, hb]
      | cons p r =>
        obtain ⟨x, y⟩ := p
        rw [hc] at this hg
        have hx : x ≠ a := by
          have := hg (x, y) (by simp)
          simp only at this
          omega
        rw [List.length_cons, flashGo, if_neg hx, this, hb]
    · rw [List.length_cons, flashGo, if_pos rfl, ih]

/-- What a serial memory laid from bytes reads as. -/
theorem flashRead_cells (ser : Serial) (bs : List Byte) (h : ser.flash = flashCells 0 bs) : flashRead ser 0 bs.length = bs := by
  unfold flashRead
  rw [h]
  have : (flashCells 0 bs).dropWhile (fun c => decide (c.1 < 0)) = flashCells 0 bs := by
    cases flashCells 0 bs with
    | nil => rfl
    | cons p r => simp [List.dropWhile]
  rw [this, flashGo_cells]

/-- A block that ends with its CRC is good (R436). -/
theorem blockGood_crc (pay : List Byte) (h : pay.length = 4092) : blockGood (pay ++ toLE 4 (crc32c pay)) = true := by
  have := crc32c_lt pay
  unfold blockGood
  rw [List.take_left' h, List.drop_left' h, leNat_toLE, Nat.mod_eq_of_lt (by simpa using this), beq_self_eq_true]

end Sys2Proof.Machine
end

