-- ==== Sys2Proof/Laws/Far.lean ====
section
/-! SUPPORT. A session record in memory takes 6,208 bytes (R358), and making room for one changes no memory outside the records. -/

namespace Sys2Proof.Machine

open Sys2Proof

theorem flatMap_len {α : Type} (n : Nat) (f : Nat → List α) (r : List Nat) (h : ∀ i ∈ r, (f i).length = n) :
    (r.flatMap f).length = n * r.length := by
  induction r with
  | nil => rfl
  | cons a r ih =>
    rw [List.flatMap_cons, List.length_append, h a (by simp), ih (fun i hi => h i (by simp [hi])), List.length_cons, Nat.mul_succ]
    omega

theorem recordBytes_length (free : Nat) (t : TgtSess) : (recordBytes free t).length = 6208 := by
  unfold recordBytes
  rw [List.length_append, List.length_map, List.length_range, flatMap_len 96, List.length_range]
  intro i _
  have key : ∀ known : List Byte, known.length ≤ 96 →
      (known ++ (List.range (96 - known.length)).map (fun j => Config.freeByte free (64 + 96 * i + known.length + j))).length = 96 := by
    intro known hk
    rw [List.length_append, List.length_map, List.length_range]
    omega
  apply key
  split
  · rw [List.length_take]; omega
  · exact Nat.zero_le _

/-- While fewer than 256 records are held, making room changes nothing. -/
theorem roomRecord_few (s : State) (h : (s.far.tgt.filter (fun t => t.held)).length < 256) : roomRecord s = s := by
  unfold roomRecord
  rw [if_pos h]

end Sys2Proof.Machine
end

