-- ==== Sys2Proof/Laws/Instr.lean ====
section
/-! SUPPORT. The frame that every instruction shares: what an instruction can end as, how it completes when it is ready, and when
it does nothing. -/

namespace Sys2Proof.Machine

open Sys2Proof

/-! ### The ends of an instruction -/

/-- Everything the frame of an instruction can answer. -/
theorem instr_cases (n : Nat) (ctl barred : Bool) (s : State) (body : StrandId → State → Res) :
    instr n ctl barred s body = s
    ∨ ∃ k : StrandId, issuing s = some k ∧ nextEvent s k = none ∧ s.core.hold.getLsbD k.val = false ∧
      ((∃ (e : Ev) (u : State), fetchCheck s k n = .fault e u ∧ instr n ctl barred s body = raise u k e)
      ∨ (∃ u : State, fetchCheck s k n = .check u ∧ instr n ctl barred s body = u)
      ∨ (∃ (b : List Byte) (u : State), fetchCheck s k n = .ok b u ∧
          ((∃ v : State, regCheck u k = some v ∧ instr n ctl barred s body = v)
          ∨ (regCheck u k = none ∧ ((ctl = true ∧ atEnd (u.str k) n = true) ∨ (barred = true ∧ u.rel.aborted = true))
              ∧ instr n ctl barred s body = raise u k (mkEv 0x01 0 0 .ul))
          ∨ (regCheck u k = none ∧ instr n ctl barred s body = finish k n (body k u))))) := by
  unfold instr
  cases h : issuing s with
  | none => exact .inl rfl
  | some k =>
    dsimp only
    cases h2 : nextEvent s k with
    | some p => exact .inl rfl
    | none =>
      cases hh : s.core.hold.getLsbD k.val with
      | true => exact .inl rfl
      | false =>
      refine .inr ⟨k, rfl, h2, hh, ?_⟩
      simp only [Option.isSome_none, Bool.or_self, Bool.false_eq_true, if_false]
      cases h3 : fetchCheck s k n with
      | fault e u => exact .inl ⟨e, u, rfl, rfl⟩
      | check u => exact .inr (.inl ⟨u, rfl, rfl⟩)
      | ok b u =>
        refine .inr (.inr ⟨b, u, rfl, ?_⟩)
        dsimp only
        cases h4 : regCheck u k with
        | some v => exact .inl ⟨v, rfl, rfl⟩
        | none =>
          dsimp only
          split
          · rename_i hc
            refine .inr (.inl ⟨rfl, ?_, rfl⟩)
            simpa [Bool.or_eq_true, Bool.and_eq_true] using hc
          · exact .inr (.inr ⟨rfl, rfl⟩)

/-- An invariant that the parts of an instruction keep, the instruction keeps. -/
theorem instr_keeps (P : State → Prop) (n : Nat) (ctl barred : Bool) (s : State) (body : StrandId → State → Res) (h0 : P s)
    (hfetch : ∀ k : StrandId, match fetchCheck s k n with | .ok _ u => P u | .fault _ u => P u | .check u => P u)
    (hraise : ∀ (u : State) (k : StrandId) (e : Ev), P u → P (raise u k e))
    (hreg : ∀ (u v : State) (k : StrandId), P u → regCheck u k = some v → P v)
    (hbody : ∀ (u : State) (k : StrandId), P u → P (finish k n (body k u))) :
    P (instr n ctl barred s body) := by
  rcases instr_cases n ctl barred s body with h | ⟨k, _, _, _, h⟩
  · rw [h]; exact h0
  · have hf := hfetch k
    rcases h with ⟨e, u, h1, h⟩ | ⟨u, h1, h⟩ | ⟨b, u, h1, h⟩
    · rw [h1] at hf; rw [h]; exact hraise u k e hf
    · rw [h1] at hf; rw [h]; exact hf
    · rw [h1] at hf
      rcases h with ⟨v, h2, h⟩ | ⟨_, _, h⟩ | ⟨_, h⟩
      · rw [h]; exact hreg u v k hf h2
      · rw [h]; exact hraise u k _ hf
      · rw [h]; exact hbody u k hf

/-! ### Instructions that are ready -/

/-- The body of a ready instruction runs on the state as it stands. -/
theorem instr_ready (n : Nat) (ctl barred : Bool) (s : State) (k : StrandId) (body : StrandId → State → Res) (h : Ready s k n)
    (h1 : ctl = true → atEnd (s.str k) n = false) (h2 : barred = true → s.rel.aborted = false) :
    instr n ctl barred s body = finish k n (body k s) := by
  obtain ⟨a, b, e, c, d⟩ := h
  unfold instr
  simp only [a, b, c, d, e, Option.isSome_none, Bool.or_self, Bool.false_eq_true, if_false]
  rw [if_neg]
  intro hc
  rcases Bool.or_eq_true _ _ ▸ hc with hc | hc
  · obtain ⟨x, y⟩ := Bool.and_eq_true _ _ ▸ hc; simp [h1 x] at y
  · obtain ⟨x, y⟩ := Bool.and_eq_true _ _ ▸ hc; simp [h2 x] at y

theorem base_ready (s : State) (k : StrandId) (body : StrandId → State → Res) (h : Ready s k 4) :
    base s body = .next (finish k 4 (body k s)) := by
  rw [base, instr_ready 4 false false s k body h (by simp) (by simp)]

theorem ext_ready (s : State) (k : StrandId) (body : StrandId → State → Res) (h : Ready s k 8) :
    ext s body = .next (finish k 8 (body k s)) := by
  rw [ext, instr_ready 8 false false s k body h (by simp) (by simp)]

theorem baseCtl_ready (s : State) (k : StrandId) (body : StrandId → State → Res) (h : Ready s k 4) (he : atEnd (s.str k) 4 = false) :
    baseCtl s body = .next (finish k 4 (body k s)) := by
  rw [baseCtl, instr_ready 4 true false s k body h (fun _ => he) (by simp)]

theorem extBarred_ready (s : State) (k : StrandId) (body : StrandId → State → Res) (h : Ready s k 8) (ha : s.rel.aborted = false) :
    extBarred s body = .next (finish k 8 (body k s)) := by
  rw [extBarred, instr_ready 8 false true s k body h (by simp) (fun _ => ha)]

/-- A control transfer at END of an active loop raises 0x01 (R116). -/
theorem baseCtl_atEnd (s : State) (k : StrandId) (body : StrandId → State → Res) (h : Ready s k 4) (he : atEnd (s.str k) 4 = true) :
    baseCtl s body = .next (raise s k (mkEv 0x01 0 0 .ul)) := by
  obtain ⟨a, b, e, c, d⟩ := h
  simp only [baseCtl, instr, a, b, c, d, e, he, Option.isSome_none, Bool.or_self, Bool.false_eq_true, if_false, Bool.and_self,
    Bool.true_or, if_true]

/-- A group that job abort bars raises 0x01 in job abort (R406). -/
theorem extBarred_aborted (s : State) (k : StrandId) (body : StrandId → State → Res) (h : Ready s k 8) (ha : s.rel.aborted = true) :
    extBarred s body = .next (raise s k (mkEv 0x01 0 0 .ul)) := by
  obtain ⟨a, b, e, c, d⟩ := h
  simp only [extBarred, instr, a, b, c, d, e, ha, Option.isSome_none, Bool.or_self, Bool.false_eq_true, if_false, Bool.and_self,
    Bool.false_and, Bool.false_or, if_true]

/-! ### Instructions that are not issued -/

theorem instr_not_issuing (n : Nat) (ctl barred : Bool) (s : State) (body : StrandId → State → Res) (h : issuing s = none) :
    instr n ctl barred s body = s := by
  simp [instr, h]

theorem instr_event_first (n : Nat) (ctl barred : Bool) (s : State) (k : StrandId) (body : StrandId → State → Res) (p : Pick)
    (h : issuing s = some k) (h2 : nextEvent s k = some p) : instr n ctl barred s body = s := by
  simp [instr, h, h2]

/-! ### The register forms -/

theorem alu2_ready (op : Word → Word → Word) (rd a b : RSpec) (s : State) (k : StrandId) (h : Ready s k 4) (h0 : xOk rd = true)
    (h1 : xOk a = true) (h2 : xOk b = true) :
    alu2 op rd a b s = .next (retire (s.setX k rd (op ((s.str k).x a) ((s.str k).x b))) k 4) := by
  rw [alu2, base_ready s k _ h]; simp [h0, h1, h2, finish]

theorem alu1_ready (op : Word → Word) (rd a : RSpec) (s : State) (k : StrandId) (h : Ready s k 4) (h0 : xOk rd = true)
    (h1 : xOk a = true) : alu1 op rd a s = .next (retire (s.setX k rd (op ((s.str k).x a))) k 4) := by
  rw [alu1, base_ready s k _ h]; simp [h0, h1, finish]

theorem alu1x_ready (op : Word → Word) (rd a : RSpec) (s : State) (k : StrandId) (h : Ready s k 8) (h0 : xOk rd = true)
    (h1 : xOk a = true) : alu1x op rd a s = .next (retire (s.setX k rd (op ((s.str k).x a))) k 8) := by
  rw [alu1x, ext_ready s k _ h]; simp [h0, h1, finish]

/-- A reserved register specifier raises 0x01 (R88). -/
theorem alu2_reserved (op : Word → Word → Word) (rd a b : RSpec) (s : State) (k : StrandId) (h : Ready s k 4)
    (h0 : (xOk rd && xOk a && xOk b) = false) : alu2 op rd a b s = .next (raise s k (mkEv 0x01 0 0 .ul)) := by
  rw [alu2, base_ready s k _ h]; simp only [h0, illegal, finish, Bool.false_eq_true, if_false]

theorem alu1_reserved (op : Word → Word) (rd a : RSpec) (s : State) (k : StrandId) (h : Ready s k 4)
    (h0 : (xOk rd && xOk a) = false) : alu1 op rd a s = .next (raise s k (mkEv 0x01 0 0 .ul)) := by
  rw [alu1, base_ready s k _ h]; simp only [h0, illegal, finish, Bool.false_eq_true, if_false]

theorem alu1x_reserved (op : Word → Word) (rd a : RSpec) (s : State) (k : StrandId) (h : Ready s k 8)
    (h0 : (xOk rd && xOk a) = false) : alu1x op rd a s = .next (raise s k (mkEv 0x01 0 0 .ul)) := by
  rw [alu1x, ext_ready s k _ h]; simp only [h0, illegal, finish, Bool.false_eq_true, if_false]

/-! ### The loop step -/

theorem loopStep_none (pc : Word) (n : Nat) : loopStep [] pc n = ([], pc + w64 n) := rfl

/-- An instruction that does not hold END of the innermost loop leaves the loops (R115). -/
theorem loopStep_elsewhere (ls : List Loop) (pc : Word) (n : Nat) (hl : ls.length ≤ 2)
    (h : ∀ l ∈ ls.getLast?, holdsWord pc n l.last = false) : loopStep ls pc n = (ls, pc + w64 n) := by
  match ls, hl with
  | [], _ => rfl
  | [o], _ => simp only [loopStep, h o (by simp), Bool.false_eq_true, if_false]
  | [o, i], _ => simp only [loopStep, h i (by simp), Bool.false_eq_true, if_false]

/-- The innermost loop goes round again: COUNT goes down by one and the PC returns to START (R115). -/
theorem loopStep_again (o : Loop) (pc : Word) (n : Nat) (h : holdsWord pc n o.last = true) (hc : o.count - 1 ≠ 0) :
    loopStep [o] pc n = ([{ o with count := o.count - 1 }], o.start) := by
  simp only [loopStep, h, if_true, if_neg hc]

/-- The only loop ends (R115). -/
theorem loopStep_ends (o : Loop) (pc : Word) (n : Nat) (h : holdsWord pc n o.last = true) (hc : o.count - 1 = 0) :
    loopStep [o] pc n = ([], pc + w64 n) := by
  simp only [loopStep, h, if_true, if_pos hc]

/-- Completion with no loop active moves the PC past the instruction. -/
theorem retire_noLoop (s : State) (k : StrandId) (n : Nat) (h : (s.str k).loops = []) :
    (retire s k n).str k = { s.str k with pc := (s.str k).pc + w64 n, run := { (s.str k).run with cond := none, merged := none } } := by
  rw [str_retire_self, h, loopStep_none]
  simp only [← h]

/-! ### Events -/

/-- The EDT entry of a number is read at once when its line is held, or the near port has answered, and no error waits; the read changes the
caches alone. -/
theorem edtRead_held (s : State) (k : StrandId) (n : Nat) (d : EdtE) (hm : s.marks = []) (hd : s.edt n = some d)
    (hl : TableHeld s k (w64 (s.edtAddr n)) (s.edtAddr n) 32) : ∃ t : State, edtRead s k n = .entry d t ∧ OnlyMs s t := by
  obtain ⟨t0, ht, ho0⟩ := tableRead_held s k _ (s.edtAddr n) 32 hm hl
  have ho := ho0.trans (dropReads_onlyMs t0 (.table k (w64 (s.edtAddr n))))
  have he : (dropReads t0 (.table k (w64 (s.edtAddr n)))).edt n = some d := by
    rw [ho.field (fun u => u.edt n) (fun _ _ => rfl)]; exact hd
  have hv : s.core.edtb.getLsbD 0 = true := by
    cases hv : s.core.edtb.getLsbD 0 with
    | true => rfl
    | false => simp only [State.edt, hv, Bool.false_and, Bool.false_eq_true, if_false, reduceCtorEq] at hd
  exact ⟨_, by simp only [edtRead, hv, ht, he, Bool.not_true, Bool.false_eq_true, if_false], ho⟩

/-- Taking an event with no pending write, once its EDT entry has been read, runs the entry sequence (R66). -/
theorem takeEvent_edt (s t : State) (k : StrandId) (e : Ev) (rpc : Word) (pend : Bool) (drop : State → State) (d : EdtE)
    (hp : (s.str k).run.pend = Pend.none) (hd : edtRead s k e.num.toNat = .entry d t) :
    takeEvent s k e rpc pend drop = (match enterEv t k e rpc pend d with | .taken u => .taken (drop u) | r => r) := by
  have ha : applyPend s k = .ok s := by simp [applyPend, hp]
  simp only [takeEvent, ha, hd]
  all_goals (cases enterEv t k e rpc pend d <;> rfl)

/-- An instruction's event is an entry that resumes at the instruction (R74). -/
theorem raise_edt (s t : State) (k : StrandId) (e : Ev) (d : EdtE) (hp : (s.str k).run.pend = Pend.none)
    (hd : edtRead s k e.num.toNat = .entry d t) :
    raise s k e = (match enterEv t k e (s.str k).pc false d with
      | .taken u => u
      | .again u => u.modRun k (fun r => { r with entering := some e })) := by
  rw [raise, takeEvent_edt s t k e _ false id d hp hd]
  cases enterEv t k e (s.str k).pc false d <;> rfl

/-- Without an EDT the event halts the core (R62). -/
theorem takeEvent_noEdt (s : State) (k : StrandId) (e : Ev) (rpc : Word) (b : Bool) (drop : State → State)
    (hp : (s.str k).run.pend = Pend.none) (hv : s.core.edtb.getLsbD 0 = false) :
    takeEvent s k e rpc b drop = .taken (haltCore s) := by
  have ha : applyPend s k = .ok s := by simp [applyPend, hp]
  simp only [takeEvent, ha, edtRead, hv, Bool.not_false, if_true]

/-- An entry at ML with a free window and room on the machine save stack commits (R49, R69). -/
theorem enterGo_ml (n : Nat) (s : State) (k : StrandId) (r : EntryReq) (hy : r.y = .ml) (hw : 1 ≤ (s.str k).win.free)
    (hf : (s.str k).mssFrames < 8) (hm : s.marks = []) : enterGo (n + 1) s k r = .taken (afterEntry (commitEntry s k r) r) := by
  have h1 : mssMeet s k = (true, s) := by simp [mssMeet, State.markAt_nil s _ _ hm]
  have h2 : ¬ (s.str k).mssFrames = 8 := by omega
  have h3 : ¬ (s.str k).win.free < 1 := by omega
  simp [enterGo, hy, winNeed, h1, h2, h3]

/-- An entry at ML with no free window, or with the machine save stack full, halts the core (R49, R69). -/
theorem enterGo_ml_halts (n : Nat) (s : State) (k : StrandId) (r : EntryReq) (hy : r.y = .ml)
    (h : (s.str k).win.free = 0 ∨ (s.str k).mssFrames = 8) : enterGo (n + 1) s k r = .taken (haltCore s) := by
  rcases h with h | h
  · simp [enterGo, hy, winNeed, h]
  · simp only [enterGo, hy, winNeed, h, if_true, ite_self]

/-- An entry to ML that nothing stands against commits (R66, R69). -/
theorem enterEv_ml (s : State) (k : StrandId) (e : Ev) (rpc : Word) (pend : Bool) (d : EdtE) (hw : 1 ≤ (s.str k).win.free)
    (hf : (s.str k).mssFrames < 8) (hm : s.marks = [])
    (hy : (if e.num.toNat ≥ 0x40 then d.tlvl
      else entryLevel e.num.toNat (if pend && e.src != .save then e.rel else (s.str k).status.lvl) d.tlvl) = .ml) :
    ∃ r : EntryReq, enterEv s k e rpc pend d = .taken (afterEntry (commitEntry s k r) r) ∧ r.num = e.num.toNat ∧ r.y = .ml
      ∧ r.fa = e.fa ∧ r.info = e.info.toNat ∧ r.esc = none ∧ r.handler = d.handler ∧ r.kie = d.kie ∧ r.rpc = rpc ∧ r.gate = false :=
  ⟨_, enterGo_ml 3 s k _ hy hw hf hm, rfl, hy, rfl, rfl, rfl, rfl, rfl, rfl, rfl⟩

end Sys2Proof.Machine
end

