-- ==== Sys2Proof/Laws/Tile.lean ====
section
/-! SUPPORT. What the block's engines do in the scratchpad, and saves and restores of tile contexts there, when no error waits in the
arrays. -/

namespace Sys2Proof.Machine

open Sys2Proof

@[simp] theorem denseGo_length (n a : Nat) (m : Mem) : (denseGo n a m).length = n := by
  induction n generalizing a m with
  | zero => rfl
  | succ n ih =>
    match m with
    | [] => simp [denseGo, ih]
    | (x, b) :: r =>
      unfold denseGo
      split <;> simp [ih]

@[simp] theorem Mem.dense_length (m : Mem) (a n : Nat) : (m.dense a n).length = n := denseGo_length _ _ _

/-- A row of memory form holds the elements of a register row. -/
theorem TFmt.memRow_eq (f : TFmt) (shape : BitVec 2) : f.memRow (rowLen shape) = (f.perRow (rowLen shape) * f.bits + 7) / 8 := by
  revert shape
  cases f <;> decide

/-! ### Accesses in the scratchpad -/

/-- The place of an engine's access to the scratchpad: nothing is translated. -/
theorem engPlace_spad (s : State) (x : XCtx) (kind : AK) (va : Word) (n : Nat) (h1 : spw ≤ va.toNat) (h2 : va.toNat + n ≤ spw + s.spadSize) :
    engPlace s x kind va n = .ok ({ pl := .sp, a := va.toNat - spw, n := n, va := va.toNat }, s) := by
  unfold engPlace
  rw [(win_range s va n h1 h2).2.1, if_pos rfl, if_pos h2]

/-- A save's or restore's read of the scratchpad: its bytes, and nothing changes. -/
theorem engRead_spad (s : State) (x : XCtx) (va : Word) (n : Nat) (hm : s.marks = []) (h1 : spw ≤ va.toNat)
    (h2 : va.toNat + n ≤ spw + s.spadSize) : engRead s x 1 va n = .ok (s.spad.dense (va.toNat - spw) n) s := by
  unfold engRead
  rw [engPlace_spad s x .load va n h1 h2]
  simp [mvRead, MvR.saw, spMeet_clean _ _ _ _ hm]

/-- A save's write to the scratchpad: its bytes take their places, and nothing else changes. -/
theorem engWrite_spad (s : State) (x : XCtx) (kind : AK) (va : Word) (bs : List Byte) (hm : s.marks = []) (h1 : spw ≤ va.toNat)
    (h2 : va.toNat + bs.length ≤ spw + s.spadSize) :
    engWrite s x 1 kind va bs = .ok [] { s with spad := s.spad.splice (va.toNat - spw) bs } := by
  unfold engWrite
  rw [engPlace_spad s x kind va bs.length h1 h2]
  simp [mvWrite, MvR.wrote, writeSpad, hm]

/-! ### Frames in the scratchpad (R148, R149) -/

/-- The pieces of a cut range lie in it. -/
theorem cutAt_mem (w f pa n : Nat) (c : Nat × Nat) (h : c ∈ cutAt w f pa n) : pa ≤ c.1 ∧ c.1 + c.2 ≤ pa + n := by
  induction f generalizing pa n with
  | zero => simp [cutAt] at h
  | succ f ih =>
    unfold cutAt at h
    split at h
    · simp at h
    · rcases List.mem_cons.1 h with rfl | h
      · simp only
        omega
      · have := ih _ _ h
        omega

/-- Every part of a frame ends within it. -/
theorem run_in_frame (shape : BitVec 2) : ∀ r ∈ frameRuns shape, r.1 + r.2 ≤ frameLen := by
  revert shape
  decide +kernel

/-- Every piece of a frame ends within it. -/
theorem cut_in_frame (fa : Word) (shape : BitVec 2) (p : Nat × Nat) (h : p ∈ frameCuts fa shape) : p.1 + p.2 ≤ frameLen := by
  unfold frameCuts at h
  obtain ⟨r, hr, h⟩ := List.mem_flatMap.1 h
  obtain ⟨c, hc, rfl⟩ := List.mem_map.1 h
  have a := cutAt_mem _ _ _ _ _ hc
  have b := run_in_frame shape r hr
  simp only
  omega

/-- A piece of a frame that lies in the scratchpad. -/
theorem frame_part (s : State) (fa : Word) (off n : Nat) (h1 : spw ≤ fa.toNat) (h2 : fa.toNat + frameLen ≤ spw + s.spadSize)
    (h3 : off + n ≤ frameLen) : spw ≤ (fa + w64 off).toNat ∧ (fa + w64 off).toNat + n ≤ spw + s.spadSize := by
  have hs := s.spadSize_le
  have e : spw = 0x7E0000000000 := rfl
  have : (fa + w64 off).toNat = fa.toNat + off := by
    simp only [w64, BitVec.toNat_add, BitVec.toNat_ofNat, frameLen] at *
    omega
  omega

theorem frameBytes_length (h : List Byte) (b : Mem) (off n : Nat) (hh : h.length = 256) : (frameBytes h b off n).length = n := by
  unfold frameBytes
  split
  · simp only [List.length_take, List.length_drop, List.length_append, hh, Mem.dense_length]
    omega
  · exact Mem.dense_length _ _ _

theorem frameHeader_length (b : Mem) (c : CtxId) (shape : BitVec 2) : (frameHeader b c shape).length = 256 := by
  simp [frameHeader, toLE_length]

/-- What the moves of a frame leave of a state: everything but the scratchpad, the banks' contents and the frame positions. -/
structure FrameKept (s t : State) : Prop where
  marks : t.marks = s.marks
  size : t.spadSize = s.spadSize
  near : t.near = s.near
  ctx : ∀ d : CtxId, (t.ctxOf d).st = (s.ctxOf d).st ∧ (t.ctxOf d).fa = (s.ctxOf d).fa ∧ (t.ctxOf d).bank = (s.ctxOf d).bank
  owners : ∀ b : Fin 2, (t.tiles.banks[b]).owner = (s.tiles.banks[b]).owner
  str : ∀ j : StrandId, { t.str j with ctx := (s.str j).ctx } = s.str j

theorem FrameKept.refl (s : State) : FrameKept s s := ⟨rfl, rfl, rfl, fun _ => ⟨rfl, rfl, rfl⟩, fun _ => rfl, fun _ => rfl⟩

theorem FrameKept.trans {s t u : State} (h1 : FrameKept s t) (h2 : FrameKept t u) : FrameKept s u where
  marks := h2.marks.trans h1.marks
  size := h2.size.trans h1.size
  near := h2.near.trans h1.near
  ctx := fun d => ⟨(h2.ctx d).1.trans (h1.ctx d).1, (h2.ctx d).2.1.trans (h1.ctx d).2.1, (h2.ctx d).2.2.trans (h1.ctx d).2.2⟩
  owners := fun b => (h2.owners b).trans (h1.owners b)
  str := fun j => by
    have e : ({ u.str j with ctx := (s.str j).ctx } : Strand) = { ({ u.str j with ctx := (t.str j).ctx } : Strand) with ctx := (s.str j).ctx } := rfl
    rw [e, h2.str j, h1.str j]

/-- A context whose position moves keeps its state, frame and bank. -/
theorem vmod_pos (v : Vector Ctx 3) (i j : Fin 3) (f : Nat → Nat) :
    (vmod v i (fun q => { q with pos := f q.pos }))[j].st = v[j].st ∧ (vmod v i (fun q => { q with pos := f q.pos }))[j].fa = v[j].fa
      ∧ (vmod v i (fun q => { q with pos := f q.pos }))[j].bank = v[j].bank := by
  rw [vmod_get]
  by_cases h : j = i
  · subst h; simp
  · simp [h]

/-- A change of the scratchpad and of a frame's position. -/
theorem FrameKept.pos (s : State) (c : CtxId) (m : Mem) (f : Nat → Nat) :
    FrameKept s (({ s with spad := m } : State).modCtx c (fun q => { q with pos := f q.pos })) where
  marks := rfl
  size := rfl
  near := rfl
  owners := fun _ => rfl
  ctx := fun d => by
    obtain ⟨dk, dl⟩ := d
    by_cases h : dk = c.k
    · subst h
      simp only [State.ctxOf, State.modCtx, State.str_modStr_self]
      exact vmod_pos _ _ _ f
    · simp only [State.ctxOf, State.modCtx, State.str_modStr_other _ _ _ _ h]
      exact ⟨rfl, rfl, rfl⟩
  str := fun j => by
    by_cases h : j = c.k
    · subst h; simp only [State.modCtx, State.str_modStr_self]; rfl
    · simp only [State.modCtx, State.str_modStr_other _ _ _ _ h]; rfl

/-- A change of the contents of the banks. -/
theorem FrameKept.cells (s : State) (b : Fin 2) (f : Mem → Mem) :
    FrameKept s (s.modTiles (fun t => { t with banks := vmod t.banks b (fun q => { q with cells := f q.cells }) })) where
  marks := rfl
  size := rfl
  near := rfl
  ctx := fun _ => ⟨rfl, rfl, rfl⟩
  owners := fun d => by
    simp only [State.modTiles, vmod_get]
    split
    · next h => subst h; rfl
    · rfl
  str := fun _ => rfl

/-- Pieces written into a frame in the scratchpad. -/
theorem saveGo_spad (c : CtxId) (x : XCtx) (fa : Word) (h : List Byte) (b : Mem) (ps : List (Nat × Nat)) (s : State) (hh : h.length = 256)
    (hm : s.marks = []) (h1 : spw ≤ fa.toNat) (h2 : fa.toNat + frameLen ≤ spw + s.spadSize) (hp : ∀ p ∈ ps, p.1 + p.2 ≤ frameLen) :
    ∃ t : State, saveGo c x fa h b ps s = .ok [] t ∧ FrameKept s t := by
  induction ps generalizing s with
  | nil => exact ⟨s, rfl, FrameKept.refl s⟩
  | cons p ps ih =>
    obtain ⟨off, n⟩ := p
    have hl := frameBytes_length h b off n hh
    obtain ⟨a1, a2⟩ := frame_part s fa off n h1 h2 (hp (off, n) (by simp))
    have k := FrameKept.pos s c (s.spad.splice ((fa + w64 off).toNat - spw) (frameBytes h b off n)) (· + 1)
    obtain ⟨t, e, kt⟩ := ih _ (k.marks.trans hm) (by rw [k.size]; exact h2) (fun q hq => hp q (by simp [hq]))
    refine ⟨t, ?_, k.trans kt⟩
    unfold saveGo
    rw [engWrite_spad s x .store _ _ hm a1 (by rw [hl]; exact a2)]
    exact e

/-- A context's frame in the scratchpad is saved there: only the scratchpad and the position of the save change. -/
theorem saveCtx_spad (s : State) (c : CtxId) (hm : s.marks = []) (h1 : spw ≤ (s.ctxOf c).fa.toNat)
    (h2 : (s.ctxOf c).fa.toNat + frameLen ≤ spw + s.spadSize) : ∃ t : State, saveCtx s c = .ok [] t ∧ FrameKept s t := by
  obtain ⟨t, e, k⟩ := saveGo_spad c (s.xctxAt c.k c.lv) (s.ctxOf c).fa (frameHeader (s.bank c) c (s.str c.k).num.tshape) (s.bank c)
    ((frameCuts (s.ctxOf c).fa (s.str c.k).num.tshape).drop (s.ctxOf c).pos) s (frameHeader_length _ _ _) hm h1 h2
    (fun p hp => cut_in_frame _ _ p (List.mem_of_mem_drop hp))
  refine ⟨t, ?_, k⟩
  unfold saveCtx
  simp only [e, State.parAt, k.marks, hm, List.isEmpty_nil, if_true]

/-- Pieces read from a frame in the scratchpad. -/
theorem loadGo_spad (c : CtxId) (x : XCtx) (fa : Word) (b : Fin 2) (ps : List (Nat × Nat)) (s : State) (hm : s.marks = [])
    (h1 : spw ≤ fa.toNat) (h2 : fa.toNat + frameLen ≤ spw + s.spadSize) (hp : ∀ p ∈ ps, p.1 + p.2 ≤ frameLen) :
    ∃ t : State, loadGo c x fa b ps s = .ok [] t ∧ FrameKept s t ∧ t.spad = s.spad := by
  induction ps generalizing s with
  | nil => exact ⟨s, rfl, FrameKept.refl s, rfl⟩
  | cons p ps ih =>
    obtain ⟨off, n⟩ := p
    obtain ⟨a1, a2⟩ := frame_part s fa off n h1 h2 (hp (off, n) (by simp))
    have k1 := FrameKept.cells s b (fun m => m.splice off (s.spad.dense ((fa + w64 off).toNat - spw) n))
    have k := k1.trans (FrameKept.pos _ c s.spad (· + 1))
    obtain ⟨t, e, kt, hs⟩ := ih _ (k.marks.trans hm) (by rw [k.size]; exact h2) (fun q hq => hp q (by simp [hq]))
    refine ⟨t, ?_, k.trans kt, hs⟩
    unfold loadGo
    rw [engRead_spad s x _ n hm a1 a2]
    exact e

/-- A context's frame in the scratchpad is read from there: the context is RESIDENT in its bank, and the memories are as they were. -/
theorem loadFrame_spad (s : State) (c : CtxId) (b : Fin 2) (hm : s.marks = []) (h1 : spw ≤ (s.ctxOf c).fa.toNat)
    (h2 : (s.ctxOf c).fa.toNat + frameLen ≤ spw + s.spadSize) :
    ∃ (t : State) (m : Mem), loadFrame s c b = .ok [] (takeBank t c b m) ∧ FrameKept s t ∧ t.spad = s.spad := by
  obtain ⟨t, e, k, hs⟩ := loadGo_spad c (s.xctxAt c.k c.lv) (s.ctxOf c).fa b
    ((frameCuts (s.ctxOf c).fa (s.str c.k).num.tshape).drop (s.ctxOf c).pos) s hm h1 h2
    (fun p hp => cut_in_frame _ _ p (List.mem_of_mem_drop hp))
  refine ⟨t, restoreCells (t.tiles.banks[b]).cells (s.str c.k).num.tshape, ?_, k, hs⟩
  unfold loadFrame
  simp only [e]

/-! ### The rows of moves (R140, R141, R190) -/

/-- The rows of a move of rows of one length. -/
theorem moveRows_mem (rb st : Word) (n len : Nat) (r : Row) (h : r ∈ moveRows rb st (List.replicate n len)) :
    r.len = len ∧ ∃ i : Nat, i < n ∧ r.ea = rb + st * w64 i := by
  simp only [moveRows, List.mem_filter, List.mem_map] at h
  obtain ⟨⟨⟨l, i⟩, hp, rfl⟩, -⟩ := h
  have hz := List.mem_zipIdx hp
  simp at hz
  exact ⟨hz.2, i, hz.1, rfl⟩

/-- A row of the scratchpad passes with its piece. -/
theorem checkRow_spad (x : XCtx) (kind : AK) (a : RowAcc) (r : Row) (hc : a.check = false) (h1 : spw ≤ r.ea.toNat)
    (h2 : r.ea.toNat + r.len ≤ spw + a.s.spadSize) :
    checkRow x kind true a r = { a with places := a.places ++ [{ pl := .sp, a := r.ea.toNat - spw, n := r.len, va := r.ea.toNat }] } := by
  obtain ⟨ha, hb, hd⟩ := win_range a.s r.ea r.len h1 h2
  have hs := a.s.spadSize_le
  have e : spw = 0x7E0000000000 := rfl
  have hl : r.ea.getLsbD 63 = false := Nat.testBit_lt_two_pow (show r.ea.toNat < 2 ^ 63 by omega)
  have hk : ¬ 2 ^ 63 < r.ea.toNat + r.len := by omega
  simp only [checkRow, hc, ha, hb, hd, hl, hk]
  simp

/-- Rows of the scratchpad pass, each with its piece. -/
theorem checkFold_spad (x : XCtx) (kind : AK) (rows : List Row) (a : RowAcc) (hc : a.check = false)
    (h : ∀ r ∈ rows, spw ≤ r.ea.toNat ∧ r.ea.toNat + r.len ≤ spw + a.s.spadSize) :
    rows.foldl (checkRow x kind true) a
      = { a with places := a.places ++ rows.map (fun r => { pl := .sp, a := r.ea.toNat - spw, n := r.len, va := r.ea.toNat }) } := by
  induction rows generalizing a with
  | nil => simp
  | cons r rows ih =>
    obtain ⟨h1, h2⟩ := h r (by simp)
    rw [List.foldl_cons, checkRow_spad x kind a r hc h1 h2]
    exact (ih { a with places := a.places ++ [{ pl := .sp, a := r.ea.toNat - spw, n := r.len, va := r.ea.toNat }] } hc (fun q hq => h q (by simp [hq]))).trans (by simp)

/-- One core's rows pass when they lie in the scratchpad: the accumulator goes on with the same state and no failure. -/
theorem gangRow_spad (s : State) (x : XCtx) (kind : AK) (m : Move) (n len core : Nat) (d : Word)
    (q : RowAcc × List (Nat × List MvPiece)) (hn : m.rows = n) (h : SpadRows s (m.rb + d) m.st n len)
    (hq : q.1.s = s ∧ q.1.fail = none ∧ q.1.check = false) :
    (gangRow x kind m len q core d).1.s = s ∧ (gangRow x kind m len q core d).1.fail = none
      ∧ (gangRow x kind m len q core d).1.check = false := by
  have hw : ∀ r ∈ moveRows (m.rb + d) m.st (List.replicate n len), spw ≤ r.ea.toNat ∧ r.ea.toNat + r.len ≤ spw + s.spadSize := by
    intro r hm
    obtain ⟨e1, i, hi, e2⟩ := moveRows_mem _ _ _ _ _ hm
    rw [e1, e2]
    exact h.2.2.2 i hi
  unfold gangRow
  rw [hn]
  dsimp only
  generalize moveRows (m.rb + d) m.st (List.replicate n len) = rows at hw ⊢
  obtain ⟨⟨q1, q2, q3, q4⟩, q5⟩ := q
  simp only at hq
  obtain ⟨rfl, rfl, rfl⟩ := hq
  cases rows with
  | nil => exact ⟨rfl, rfl, rfl⟩
  | cons r rows =>
    have hb := (win_range _ r.ea r.len (hw r (by simp)).1 (hw r (by simp)).2).2.1
    simp only [hb]
    rw [checkFold_spad _ _ _ _ rfl hw]
    exact ⟨rfl, rfl, rfl⟩

/-- The rows of this core and of the other members pass when all of them lie in the scratchpad. -/
theorem gangRows_spad (s : State) (c : CtxId) (kind : AK) (m : Move) (n len : Nat) (disp : PartnerWord → Word) (hn : m.rows = n)
    (h : SpadRows s m.rb m.st n len)
    (ho : ∀ i ∈ otherMembers s s.tiles.tmu.gang.master s.tiles.tmu.gang.size, SpadRows s (m.rb + disp (partner s i)) m.st n len) :
    ∃ ps : List (Nat × List MvPiece), gangRows s c kind m len disp = .ok (ps, s) := by
  have fold : ∀ (l : List Nat) (acc : RowAcc × List (Nat × List MvPiece)), (∀ i ∈ l, SpadRows s (m.rb + disp (partner s i)) m.st n len) →
      acc.1.s = s ∧ acc.1.fail = none ∧ acc.1.check = false →
      ∀ q, q = l.foldl (fun q i => gangRow (s.xctxAt c.k c.lv) kind m len q i (disp (partner s i))) acc →
        q.1.s = s ∧ q.1.fail = none ∧ q.1.check = false := by
    intro l
    induction l with
    | nil => rintro acc _ ha q rfl; exact ha
    | cons i l ih =>
      intro acc hl ha q hq
      exact ih _ (fun j hj => hl j (by simp [hj])) (gangRow_spad s _ _ _ n _ _ _ _ hn (hl i (by simp)) ha) q hq
  have hf := fold _ _ ho (gangRow_spad s (s.xctxAt c.k c.lv) kind m n len s.hw.cidx.toNat 0
    ({ s := s, places := [], fail := none, check := false }, []) hn (by simpa using h) ⟨rfl, rfl, rfl⟩) _ rfl
  obtain ⟨e1, e2, e3⟩ := hf
  unfold gangRows
  dsimp only
  rw [e3, e2, e1]
  exact ⟨_, rfl⟩

end Sys2Proof.Machine
end

