-- ==== Sys2Proof/WellFormed.lean ====
section
/-! DEFINITION. Which commands are well formed: the lengths and places that the spec fixes for what an event delivers.
Reserved field values of instructions are well formed commands, since the spec gives them an effect (event 0x01). -/

namespace Sys2Proof

/-- A flit carries 56 payload bytes (R349). -/
def Flit.wf (f : Flit) : Bool := f.payload.length == 56

/-- A message has 0 to 4,160 body bytes (R354). -/
def FarMsg.wf (m : FarMsg) : Bool := decide (m.body.length ≤ 4160)

/-- The serial memory's bytes lie in its first 16 MiB, in rising order (R435). -/
def Serial.wf (x : Serial) : Bool :=
  x.flash.all (fun c => decide (c.1 < 2 ^ 24)) && decide (x.flash.Pairwise (fun a b => a.1 < b.1))

/-- A command that the block can receive. -/
def Instr.wf : Instr → Bool
  | .l2Fill _ _ _ _ data => data.length == 128
  | .dataFlitReceived f => f.wf
  | .idleFlitReceived f => f.wf
  | .creditFlitReceived f => f.wf
  | .nackFlitReceived f => f.wf
  | .initFlitReceived f => f.wf
  | .fldRequest m => m.wf
  | .fstRequest m => m.wf
  | .famoRequest m => m.wf
  | .qpushRequest m => m.wf
  | .redRequest m => m.wf
  | .sopen m => m.wf
  | .sclose m => m.wf
  | .farResponse m => m.wf
  | .join m => m.wf
  | .joinrsp m => m.wf
  | .tsync m => m.wf
  | .abort m => m.wf
  | .coldReset ser => ser.wf
  | _ => true

end Sys2Proof
end

