-- ==== Sys2Proof/Tests/Slice0.lean ====
section
/-! SUPPORT. Tests: ill-formed commands, the table's decoder, values that the spec prints, and for each statement with hypotheses
states and operands that meet them, clause by clause, at the ends of their ranges. -/

namespace Sys2Proof.Tests

open Sys2Proof Sys2Proof.Machine

-- One theorem at a time: each test makes the kernel evaluate a state.
set_option Elab.async false

/-! ### States -/

/-- The ML context of strand 0. -/
def ml : CtxId := { k := 0, lv := .ml }

/-- Registers of strand 0. -/
def withX (s : State) (l : List (RSpec × Word)) : State := l.foldl (fun s p => s.setX 0 p.1 p.2) s

/-- The machine after reset, with registers of strand 0. -/
def regs (l : List (RSpec × Word)) : State := withX State.reset l

/-- Strand 0 with other loops. -/
def withLoops (l : List Loop) : State := State.reset.modStr 0 (fun t => { t with loops := l })

/-- The loop of one instruction at address 0. -/
def lp1 (c : BitVec 32) : Loop := { start := 0, len := 1, count := c }

/-- The loop of the two instructions at 0 and 4. -/
def lp2 (c : BitVec 32) : Loop := { start := 0, len := 2, count := c }

/-- Strand 0 at UL in a page of its own code. -/
def user : State :=
  (State.reset.modStr 0 (fun t => { t with
    status := { t.status with lvl := .ul }
    xl := { t.xl with ptb := 1 } })).modMs (fun m => { m with
    itlb := [{ asid := 0, level := 3, vpn := 0, leaf := w64 0x67, bad := false }] })

/-- The L2 holds another line of near memory. -/
def held (s : State) (line : Nat) : State :=
  s.modMs (fun m => { m with l2 := { m.l2 with
    lines := { set := line, way := 0, line := line, far := false, st := .exclusive, data := [] } :: m.l2.lines } })

/-- The state that an answer leads to satisfies a test. -/
def holds (o : Out) (f : State → Bool) : Bool :=
  match o with
  | .next t => f t
  | _ => false

theorem ready4 : Ready State.reset 0 4 := ⟨by decide +kernel, by decide +kernel, by decide +kernel, rfl, by decide +kernel⟩
theorem ready8 : Ready State.reset 0 8 := ⟨by decide +kernel, by decide +kernel, by decide +kernel, rfl, by decide +kernel⟩
theorem ready_user4 : Ready user 0 4 := ⟨by decide +kernel, by decide +kernel, by decide +kernel, rfl, by decide +kernel⟩
theorem ready_user8 : Ready user 0 8 := ⟨by decide +kernel, by decide +kernel, by decide +kernel, rfl, by decide +kernel⟩

/-! ### Ill-formed commands, and the decoder of the table -/

/-- A message with no body. -/
def msg0 : FarMsg :=
  { kind := 0, op := 1, dstNode := 0, dstEp := 0, srcNode := 0, srcEp := 0, len := 0, seq := 0, sess := 0, rcode := 0, attr := 0,
    epoch := 0, aux := 0, addr := 0, body := [] }

theorem test_wf_flit : (Instr.dataFlitReceived { hdr := 0, crc := 0, payload := toLE 55 0 }).wf = false
    ∧ (Instr.initFlitReceived { hdr := 0, crc := 0, payload := toLE 57 0 }).wf = false
    ∧ (Instr.idleFlitReceived { hdr := 0, crc := 0, payload := toLE 56 0 }).wf = true := by decide +kernel
theorem test_wf_fill : (Instr.l2Fill 0 false false false (List.replicate 127 0)).wf = false
    ∧ (Instr.l2Fill 0 false false false (List.replicate 128 0)).wf = true := by
  show ((List.replicate 127 (0 : Byte)).length == 128) = false ∧ ((List.replicate 128 (0 : Byte)).length == 128) = true
  rw [List.length_replicate, List.length_replicate]
  decide +kernel
theorem test_wf_message : (Instr.fstRequest { msg0 with body := List.replicate 4161 0 }).wf = false
    ∧ (Instr.qpushRequest { msg0 with body := List.replicate 4160 0 }).wf = true := by
  show decide ((List.replicate 4161 (0 : Byte)).length ≤ 4160) = false ∧ decide ((List.replicate 4160 (0 : Byte)).length ≤ 4160) = true
  rw [List.length_replicate, List.length_replicate]
  decide +kernel
theorem test_wf_serial :
    (Instr.coldReset { sfdp := [], faults := [], flash := [(5, 1), (5, 2)] }).wf = false
    ∧ (Instr.coldReset { sfdp := [], faults := [], flash := [(2 ^ 24, 1)] }).wf = false
    ∧ (Instr.coldReset { sfdp := [], faults := [], flash := [(4, 1), (2 ^ 24 - 1, 2)] }).wf = true := by decide +kernel

/-! ### Encodings: words written out from Tables 4-1 to 4-4 -/

/-- A word of fields: each a value and the position of its lowest bit. -/
def word (l : List (Nat × Nat)) : Nat := l.foldl (fun n p => n + p.1 * 2 ^ p.2) 0

/-- An extended instruction of a group and xop: the fields of Word A and those of Word B. -/
def xword (op xop : Nat) (a b : List (Nat × Nat)) : Nat := word ((op, 26) :: (xop, 18) :: a) + word b * 2 ^ 32

theorem test_decode_computation :
    decodeTableWord 32 (word [(0x01, 26), (3, 20), (1, 14), (0x27, 8), (0x14, 0)]) = some (.div 3 1 0x27)
    ∧ decodeTableWord 32 (word [(0x08, 26), (3, 12)]) = none
    ∧ decodeTableWord 32 (word [(0x02, 26), (0x27, 20), (1, 14), (0x3FFF, 0)]) = some (.addi 0x27 1 0x3FFF)
    ∧ decodeTableWord 32 (word [(0x08, 26), (3, 20), (1, 14), (2, 12), (63, 0)]) = some (.srai 3 1 63)
    ∧ decodeTableWord 32 (word [(0x2A, 26), (1, 20), (2, 14), (60, 8), (15, 2), (2, 0)]) = some (.bfins 1 2 60 15)
    ∧ decodeTableWord 64 (xword 0x38 1 [(5, 12)] [(0x80000001, 0)]) = some (.lih 5 0x80000001) := by decide +kernel
theorem test_decode_control :
    decodeTableWord 32 (word [(0x0F, 26), (1, 20), (2, 14), (4, 11), (0x7FF, 0)]) = some (.br 1 2 4 0x7FF)
    ∧ decodeTableWord 32 (word [(0x0C, 26), (0x3FFFFFF, 0)]) = some (.call 0x3FFFFFF)
    ∧ decodeTableWord 32 (word [(0x2D, 26), (0x18, 20), (4, 8)]) = some (.loopI 0x18 4)
    ∧ decodeTableWord 32 (word [(0x2B, 26), (3, 10), (9, 0)]) = some (.brk 9)
    ∧ decodeTableWord 32 (word [(0x2C, 26), (1, 20), (0x040, 8), (1, 0)]) = some (.mtc 1 0x040) := by decide +kernel
theorem test_decode_memory_float :
    decodeTableWord 32 (word [(0x12, 26), (3, 20), (1, 14), (6, 0)]) = some (.lbu 3 1 6)
    ∧ decodeTableWord 32 (word [(0x1B, 26), (2, 20), (1, 14), (8, 0)]) = some (.sd 2 1 8)
    ∧ decodeTableWord 32 (word [(0x1C, 26), (3, 20), (1, 14), (2, 8), (1, 7), (1, 5), (2, 0)]) = some (.amoAnd 3 1 2 true false true)
    ∧ decodeTableWord 32 (word [(0x24, 26), (4, 20), (1, 14), (2, 8), (2, 5), (3, 0)]) = some (.fdiv .s 4 1 2 2)
    ∧ decodeTableWord 32 (word [(0x26, 26), (4, 20), (1, 14), (2, 8), (3, 2), (1, 0)]) = some (.fmadd 1 4 1 2 3) := by decide +kernel
theorem test_decode_tile :
    decodeTableWord 64 (xword 0x39 0x00 [(1, 12), (2, 6), (3, 2)] [(1, 28), (1, 27), (2, 25), (1, 24), (0xFFFF, 0)]) = some (.tld 3 1 2 1 true 2 true 0xFFFF)
    ∧ decodeTableWord 64 (xword 0x39 0x10 [(1, 16), (2, 12), (3, 8)] []) = some (.tmma 1 2 3 0 0)
    ∧ decodeTableWord 64 (xword 0x39 0x15 [] []) = none
    ∧ decodeTableWord 64 (xword 0x3A 0x01 [(1, 12), (2, 6), (3, 0)] [(4, 26), (5, 16), (7, 0)])
        = some (.rillAdd { ld := 1, l1 := 2, l2 := 3, l3 := 4, ts := false, modf := 5, lenm1 := 7 })
    ∧ decodeTableWord 64 (xword 0x3A 0x01 [] [(1, 25)]) = none
    ∧ decodeTableWord 64 (xword 0x3B 0x03 [(1, 12)] [(2, 24), (3, 16), (4, 0)]) = some (.dsch 1 2 3 4)
    ∧ decodeTableWord 64 (xword 0x3F 0x00 [(1, 12), (2, 6), (3, 0)] [(5, 20), (5, 16)])
        = some (.vadd { rd := 1, rs1 := 2, rs2 := 3, rs3 := 0, rn := 5, fmt := 5, fmtd := 0 }) := by decide +kernel
theorem test_decode_system :
    decodeTableWord 64 (xword 0x3C 0x00 [(1, 12), (2, 0)] []) = some (.wgo 2 1)
    ∧ decodeTableWord 64 (xword 0x3D 0x10 [(1, 12), (2, 6), (3, 0)] []) = some (.qpush 1 2 3)
    ∧ decodeTableWord 64 (xword 0x3E 0x10 [(1, 12)] [(0x40, 0)]) = some (.cflush 1 0x40)
    ∧ decodeTableWord 64 (xword 0x3E 0x15 [] []) = none := by decide +kernel
/-- The command that a word spells goes to the front; words that spell none change nothing. -/
theorem test_front_word : (State.reset.withFetchWord 32 (word [(0x2B, 26), (3, 10), (9, 0)])).pending = [.brk 9]
    ∧ State.reset.withFetchWord 32 0 = State.reset := ⟨by decide +kernel, by rfl⟩

/-! ### The block's own fetch -/

/-- The words w and b stand at the PC, address 0, in a line that the L1I holds. -/
def fetchAt (w b : Nat) : State :=
  let m := Mem.putLE (Mem.putLE [] 0 4 w) 4 4 b
  ({ State.reset with fetching := true, near := m } : State).modMs (fun x => { x with
    l1i := { x.l1i with lines := [{ set := 0, way := 0, line := 0, far := false, st := .shared, data := m.getN 0 64 }] } })

/-- The words of a fetch at an address. -/
def fetched (f : Fetched) (w : Nat) : Bool :=
  match f with
  | .ok (v, _) => v == w
  | .error _ => false

theorem test_fetch_executes : holds (step (fetchAt (word [(0x02, 26), (3, 20), (7, 0)]) 0)) (fun t => (t.str 0).x 3 == 7 && (t.str 0).pc == 4) = true
    ∧ holds (step (fetchAt (word [(0x38, 26), (5, 12)]) 0xFFFFFFFE)) (fun t => (t.str 0).x 5 == 0xFFFFFFFFFFFFFFFE && (t.str 0).pc == 8) = true := by decide +kernel
/-- Words that spell no instruction raise 0x01, which with no event table halts. -/
theorem test_fetch_illegal : holds (step (fetchAt 0 0)) (fun t => t.core.halted) = true
    ∧ holds (step (fetchAt (word [(0x38, 26), (3, 18)]) 0)) (fun t => t.core.halted) = true := by decide +kernel
theorem hyp_StepRunsFrontCommand :
    (∃ t : State, exec .pop State.reset = .next t) ∧ State.reset.pending = [] ∧ State.reset.fetching = false
    ∧ (∀ f ∈ [(word [(0x02, 26), (3, 20), (7, 0)], 0), (0, 0), (word [(0x38, 26), (5, 12)], 9), (word [(0x38, 26), (3, 18)], 0)],
        let s := fetchAt f.1 f.2
        let u := tick s
        s.pending = [] ∧ s.fetching = true ∧ issuing u = some 0 ∧ nextEvent u 0 = none ∧ u.core.hold.getLsbD 0 = false
          ∧ fetched (fetchWord u 0 (u.str 0).pc) f.1 = true ∧ fetched (fetchWord u 0 ((u.str 0).pc + 4)) f.2 = true
          ∧ NearMl u 0 (u.str 0).pc 4 ∧ u.marks = [] ∧ (u.str 0).pc.toNat % 4 = 0)
    ∧ (decodeTableWord 32 (word [(0x02, 26), (3, 20), (7, 0)]) = some (.addi 3 0 7) ∧ isExt (word [(0x02, 26), (3, 20), (7, 0)]) = false
      ∧ decodeTableWord 32 0 = none ∧ isExt 0 = false ∧ isExt (word [(0x38, 26), (5, 12)]) = true
      ∧ decodeTableWord 64 (word [(0x38, 26), (5, 12)] + 9 * 2 ^ 32) = some (.liw 5 9)
      ∧ decodeTableWord 64 (word [(0x38, 26), (3, 18)] + 0 * 2 ^ 32) = none)
    ∧ isWin (w64 spw) = true :=
  ⟨⟨_, rfl⟩, rfl, rfl, by unfold NearMl; decide +kernel, by decide +kernel, by decide +kernel⟩
theorem hyp_InstructionEncodings : isExt (0x38 * 2 ^ 26) = true ∧ bits (0x2B * 2 ^ 26 + 0xA * 2 ^ 10) 13 10 = 0xA := by decide +kernel

/-! ### The machine, and instructions in general -/

theorem canon_reset : Canon State.reset := ⟨by decide +kernel, by decide +kernel, by decide +kernel, by decide +kernel, by decide +kernel⟩
theorem hyp_MemoryStaysCanonical : Canon State.reset ∧ ∃ t : State, step State.reset = .next t := ⟨canon_reset, _, rfl⟩
theorem bounded_reset : Bounded State.reset := ⟨by unfold StrandOk; decide, by unfold FreshReqs; decide⟩
theorem hyp_BoundsAreKept : Bounded State.reset ∧ ∃ t : State, step State.reset = .next t := ⟨bounded_reset, _, rfl⟩

theorem hyp_CompletionStepsTheLoop :
    (State.reset.str 0).loops = []
    ∧ (((withLoops [lp1 2]).str 0).loops = [lp1 2] ∧ holdsWord 0 4 (lp1 2).last = true ∧ (lp1 2).count ≠ 1)
    ∧ (((withLoops [lp2 0]).str 0).loops = [lp2 0] ∧ holdsWord 0 8 (lp2 0).last = true ∧ (lp2 0).count ≠ 1)
    ∧ (((withLoops [lp1 1]).str 0).loops = [lp1 1] ∧ holdsWord 0 4 (lp1 1).last = true ∧ (lp1 1).count = 1)
    ∧ (((withLoops [lp2 2, lp1 2]).str 0).loops = [lp2 2, lp1 2] ∧ holdsWord 0 4 (lp1 2).last = true ∧ (lp1 2).count ≠ 1)
    ∧ (((withLoops [lp2 2, lp1 1]).str 0).loops = [lp2 2, lp1 1] ∧ holdsWord 0 4 (lp1 1).last = true ∧ (lp2 2).last ≠ (lp1 1).last)
    ∧ (((withLoops [lp1 2, lp1 1]).str 0).loops = [lp1 2, lp1 1] ∧ holdsWord 0 4 (lp1 1).last = true ∧ (lp1 2).last = (lp1 1).last
        ∧ (lp1 2).count ≠ 1)
    ∧ (((withLoops [lp1 1, lp1 1]).str 0).loops = [lp1 1, lp1 1] ∧ holdsWord 0 4 (lp1 1).last = true ∧ (lp1 1).count = 1)
    ∧ (((withLoops [lp2 2]).str 0).loops = [lp2 2] ∧ holdsWord 0 4 (lp2 2).last = false)
    ∧ (((withLoops [lp2 2, lp2 2]).str 0).loops = [lp2 2, lp2 2] ∧ holdsWord 0 4 (lp2 2).last = false) := by decide +kernel

theorem ready_loop : Ready (withLoops [lp1 2]) 0 4 := ⟨by decide +kernel, by decide +kernel, by decide +kernel, rfl, by decide +kernel⟩
theorem hyp_PlacesAndSpecifiersThatRaise01 :
    (barredAtEnd .lbrk = true ∧ Ready (withLoops [lp1 2]) 0 4 ∧ atEnd ((withLoops [lp1 2]).str 0) 4 = true)
    ∧ (intShape (.add 0x28 0x27 0) = some (4, 0x28, [0x27, 0]) ∧ Ready State.reset 0 4 ∧ (xOk 0x28 && [(0x27 : RSpec), 0].all xOk) = false)
    ∧ (intShape (.addix 1 0x3F 0) = some (8, 1, [0x3F]) ∧ Ready State.reset 0 8 ∧ (xOk 1 && [(0x3F : RSpec)].all xOk) = false) :=
  ⟨⟨rfl, ready_loop, by decide +kernel⟩, ⟨rfl, ready4, by decide +kernel⟩, ⟨rfl, ready8, by decide +kernel⟩⟩

/-! ### Integer computation -/

theorem hyp_IntegerRegisterRegister : Ready State.reset 0 4 ∧ xOk 0 = true ∧ xOk 0x27 = true ∧ xOk 1 = true := ⟨ready4, by decide +kernel⟩
theorem hyp_IntegerImmediate : Ready State.reset 0 4 ∧ Ready State.reset 0 8 ∧ xOk 0x27 = true ∧ xOk 0 = true := ⟨ready4, ready8, by decide +kernel⟩
theorem hyp_IntegerFrame : intShape (.liw 0x27 5) = some (8, 0x27, []) ∧ Ready State.reset 0 8 ∧ (xOk 0x27 && ([] : List RSpec).all xOk) = true :=
  ⟨rfl, ready8, by decide +kernel⟩

/-- R95's example of PERMB: function word 0x2B, four bytes. -/
theorem test_permb : holds (exec (.permb 3 1 2 3) (regs [(1, 0x8877665544332211), (2, 0x04050003)]))
    (fun t => (t.str 0).x 3 == 0x1111111100001144) = true := by decide +kernel
/-- R93: division by zero, and the most negative number by −1. -/
theorem test_div_zero : holds (exec (.div 3 1 0) (regs [(1, 7)])) (fun t => (t.str 0).x 3 == 0xFFFFFFFFFFFFFFFF) = true := by decide +kernel
theorem test_div_overflow : holds (exec (.div 3 1 2) (regs [(1, 0x8000000000000000), (2, 0xFFFFFFFFFFFFFFFF)]))
    (fun t => (t.str 0).x 3 == 0x8000000000000000) = true := by decide +kernel
theorem test_rem_sign : holds (exec (.rem 3 1 2) (regs [(1, 0xFFFFFFFFFFFFFFF9), (2, 2)]))
    (fun t => (t.str 0).x 3 == 0xFFFFFFFFFFFFFFFF) = true := by decide +kernel
theorem test_mulx_su : holds (exec (.mulxSu 3 1 1) (regs [(1, 0xFFFFFFFFFFFFFFFF)]))
    (fun t => (t.str 0).x 3 == 0xFFFFFFFFFFFFFFFF) = true := by decide +kernel
theorem test_sll_low_bits : holds (exec (.sll 1 1 2) (regs [(1, 3), (2, 0x7F)])) (fun t => (t.str 0).x 1 == 0x8000000000000000) = true := by decide +kernel
theorem test_lih_keeps_low : holds (exec (.lih 1 0x80000000) (regs [(1, 0x123456789ABCDEF0)]))
    (fun t => (t.str 0).x 1 == 0x800000009ABCDEF0 && (t.str 0).pc == 8) = true := by decide +kernel
theorem test_bfins : holds (exec (.bfins 1 2 60 15) (regs [(1, 0x0123456789ABCDEF), (2, 0xFE)]))
    (fun t => (t.str 0).x 1 == 0xE123456789ABCDEF) = true := by decide +kernel
theorem test_g0_discards : holds (exec (.addi 0 0 5) State.reset) (fun t => (t.str 0).x 0 == 0 && (t.str 0).pc == 4) = true := by decide +kernel

/-! ### Control transfer and loops -/

theorem hyp_JumpsAndBranches : Ready (regs [(1, 2)]) 0 4 ∧ atEnd ((regs [(1, 2)]).str 0) 4 = false ∧ xOk 1 = true :=
  ⟨⟨by decide +kernel, by decide +kernel, by decide +kernel, rfl, by decide +kernel⟩, by decide +kernel⟩

/-- Strand 0 with n resident windows, l7 the value given. -/
def withWin (n : Nat) (l7 : Word) : State :=
  (State.reset.modStr 0 (fun t => { t with win := { t.win with resw := n } })).setX 0 0x1F l7

theorem hyp_CallsAndReturns :
    Ready (withWin 7 0) 0 4 ∧ Ready (withWin 8 0) 0 4 ∧ Ready (withWin 2 4) 0 4 ∧ Ready (withWin 1 4) 0 4 ∧ Ready (withWin 2 2) 0 4
    ∧ atEnd ((withWin 7 0).str 0) 4 = false ∧ 4 ≤ ((withWin 7 0).str 0).win.free ∧ ((withWin 8 0).str 0).win.free < 4
    ∧ (((withWin 7 0).str 0).x 0x1F + (0 : BitVec 14).signExtend 64).toNat % 4 = 0
    ∧ (((withWin 7 0).str 0).x 0x1F + (3 : BitVec 14).signExtend 64).toNat % 4 ≠ 0
    ∧ (((withWin 2 4).str 0).x 0x1F).toNat % 4 = 0 ∧ 2 ≤ ((withWin 2 4).str 0).win.resw ∧ ((withWin 1 4).str 0).win.resw < 2
    ∧ (((withWin 2 2).str 0).x 0x1F).toNat % 4 ≠ 0 :=
  ⟨⟨by decide +kernel, by decide +kernel, by decide +kernel, rfl, by decide +kernel⟩, ⟨by decide +kernel, by decide +kernel, by decide +kernel, rfl, by decide +kernel⟩,
    ⟨by decide +kernel, by decide +kernel, by decide +kernel, rfl, by decide +kernel⟩, ⟨by decide +kernel, by decide +kernel, by decide +kernel, rfl, by decide +kernel⟩, ⟨by decide +kernel, by decide +kernel, by decide +kernel, rfl, by decide +kernel⟩, by decide +kernel⟩

theorem hyp_HardwareLoops :
    let bad := fun (s : State) (l : Loop) => 2 ≤ (s.str 0).loops.length ∨ l.len = 0
      ∨ ∃ o ∈ (s.str 0).loops, ¬ (o.start.toNat ≤ l.start.toNat ∧ l.last.toNat ≤ o.last.toNat)
    Ready State.reset 0 4 ∧ Ready (withLoops [lp2 2]) 0 4 ∧ Ready (withLoops [lp2 2, lp2 2]) 0 4
    ∧ atEnd ((withLoops [lp2 2]).str 0) 4 = false ∧ atEnd ((withLoops [lp2 2, lp2 2]).str 0) 4 = false
    ∧ bad State.reset { start := 4, len := 0, count := 0 } ∧ bad (withLoops [lp2 2, lp2 2]) { start := 4, len := 1, count := 1 }
    ∧ bad (withLoops [lp2 2]) { start := 4, len := 2, count := 1 } ∧ ¬ bad (withLoops [lp2 2]) { start := 4, len := 1, count := 1 }
    ∧ ¬ bad State.reset { start := 4, len := 0xFFF, count := 0 } ∧ ((State.reset.str 0).x 1).extractLsb' 0 32 = (0 : BitVec 32)
    ∧ (((regs [(1, 1)]).str 0).x 1).extractLsb' 0 32 ≠ (0 : BitVec 32) ∧ Ready (regs [(1, 1)]) 0 4 :=
  ⟨ready4, ⟨by decide +kernel, by decide +kernel, by decide +kernel, rfl, by decide +kernel⟩, ⟨by decide +kernel, by decide +kernel, by decide +kernel, rfl, by decide +kernel⟩, by decide +kernel, by decide +kernel, by decide +kernel, by decide +kernel,
    by decide +kernel, by decide +kernel, by decide +kernel, by decide +kernel, by decide +kernel, ⟨by decide +kernel, by decide +kernel, by decide +kernel, rfl, by decide +kernel⟩⟩

/-- The example of 04_instruction_set.md: a LOOP of four words at 0x10000 that runs three times. -/
def loopAt (pc : Word) (c : BitVec 32) : State :=
  (State.reset.modStr 0 (fun t => { t with
    pc := pc
    loops := [{ start := 0x10004, len := 4, count := c }] })).setX 0 0x18 3
theorem test_loop_begins : holds (exec (.loopI 0x18 4) ((loopAt 0x10000 0).modStr 0 (fun t => { t with loops := [] })))
    (fun t => (t.str 0).loops == [{ start := 0x10004, len := 4, count := 3 }] && (t.str 0).pc == 0x10004) = true := by decide +kernel
theorem test_loop_goes_round : holds (exec (.addi 0 0 0) (loopAt 0x10010 3))
    (fun t => (t.str 0).loops == [{ start := 0x10004, len := 4, count := 2 }] && (t.str 0).pc == 0x10004) = true
    ∧ holds (exec (.addi 0 0 0) (loopAt 0x10010 1)) (fun t => (t.str 0).loops == [] && (t.str 0).pc == 0x10014) = true := by decide +kernel
/-- Table 2-9: at RESW 7 a CALL makes the next window current; at 8 it overflows. -/
theorem test_call_window : holds (exec (.call 4) ((withWin 7 0).modStr 0 (fun t => { t with win := { t.win with wcur := 9 } })))
    (fun t => (t.str 0).win.wcur == 10 && (t.str 0).win.resw == 8 && (t.str 0).x 0x1F == 4 && (t.str 0).pc == 16) = true := by decide +kernel
theorem test_branch_taken : holds (exec (.br 1 2 2 3) (regs [(1, 0xFFFFFFFFFFFFFFFF), (2, 0)])) (fun t => (t.str 0).pc == 12) = true
    ∧ holds (exec (.br 1 2 4 3) (regs [(1, 0xFFFFFFFFFFFFFFFF), (2, 0)])) (fun t => (t.str 0).pc == 4) = true := by decide +kernel

/-! ### Loads, stores and atomics -/

theorem ready_top : Ready (regs [(1, w64 (spw + 0x3FFFF8))]) 0 4 := ⟨by decide +kernel, by decide +kernel, by decide +kernel, rfl, by decide +kernel⟩
theorem hyp_LoadsFromTheScratchpad :
    let s := regs [(1, w64 (spw + 0x3FFFF8))]
    let ea := fun (i : BitVec 14) => (s.str 0).x 1 + i.signExtend 64
    let fits := fun (i : BitVec 14) (n : Nat) => spw ≤ (ea i).toNat ∧ (ea i).toNat + n ≤ spw + s.spadSize
    Ready s 0 4 ∧ s.marks = [] ∧ xOk 1 = true ∧ fits 7 1 ∧ fits 6 2 ∧ fits 4 4 ∧ fits 0 8 ∧ xOk 0x27 = true ∧ fOk 0x1F = true
      ∧ AccessFree s 0 true false 0x3FFFF8 8 ∧ AccessFree s 0 true false 0x3FFFFC 4 ∧ AccessFree s 0 true false 0x3FFFFE 2
      ∧ AccessFree s 0 true false 0x3FFFFF 1 :=
  ⟨ready_top, by unfold AccessFree; decide +kernel⟩

/-- A line of the L1D and the L2 at 0x1000, in a state. -/
def lined (st : Mesi) : State :=
  let l2 : Line := { set := 32, way := 0, line := 32, far := false, st := st, data := [] }
  let l1 : Line := { set := 64 % 64, way := 0, line := 64, far := false, st := st, data := [] }
  (regs [(1, 0x1000), (2, 0x1122334455667788)]).modMs (fun m => { m with
    l1d := { m.l1d with lines := [l1] }
    l2 := { m.l2 with lines := [l2] } })
theorem ready_lined : Ready (lined .exclusive) 0 4 := ⟨by decide +kernel, by decide +kernel, by decide +kernel, rfl, by decide +kernel⟩
theorem near_lined : NearMl (lined .exclusive) 0 0x1000 8 := by unfold NearMl; decide
theorem hyp_LoadsFromNearMemory :
    Ready (lined .exclusive) 0 4 ∧ (lined .exclusive).marks = [] ∧ NearMl (lined .exclusive) 0 (((lined .exclusive).str 0).x 1 + (0 : BitVec 14).signExtend 64) 8
    ∧ (lined .exclusive).ms.l1d.find false ((((lined .exclusive).str 0).x 1 + (0 : BitVec 14).signExtend 64).toNat / 64)
        = some { set := 0, way := 0, line := 64, far := false, st := .exclusive, data := [] }
    ∧ AccessFree (lined .exclusive) 0 false false 0x1000 8 :=
  ⟨ready_lined, rfl, near_lined, by decide +kernel, by unfold AccessFree; decide +kernel⟩
theorem hyp_StoresWriteTheirBytes :
    (Ready (regs [(1, w64 (spw + 0x3FFFF8))]) 0 4 ∧ (regs [(1, w64 (spw + 0x3FFFF8))]).marks = []
      ∧ spw + 0x3FFFF8 + 8 ≤ spw + (regs [(1, w64 (spw + 0x3FFFF8))]).spadSize ∧ Memory.wf (regs [(1, w64 (spw + 0x3FFFF8))]).spad = true
      ∧ AccessFree (regs [(1, w64 (spw + 0x3FFFF8))]) 0 true true 0x3FFFF8 8)
    ∧ (Ready (lined .exclusive) 0 4 ∧ NearMl (lined .exclusive) 0 0x1000 8 ∧ (lined .exclusive).owned (0x1000 / 128) = true
      ∧ Memory.wf (lined .exclusive).near = true ∧ AccessFree (lined .exclusive) 0 false true 0x1000 8) :=
  ⟨⟨ready_top, rfl, by unfold AccessFree; decide +kernel⟩, ⟨ready_lined, near_lined, by unfold AccessFree; decide +kernel⟩⟩
theorem test_store_load : holds (exec (.sd 2 1 0) (lined .exclusive)) (fun t =>
    t.near.getLE 0x1000 8 == 0x1122334455667788 && holds (exec (.lh 3 1 6) t) (fun u => (u.str 0).x 3 == 0x1122)) = true := by decide +kernel
theorem test_load_signs : holds (exec (.lb 3 1 7) ({ regs [(1, w64 (spw + 0x3FFFF8))] with spad := [(0x3FFFFF, 0x80)] } : State))
      (fun t => (t.str 0).x 3 == 0xFFFFFFFFFFFFFF80) = true
    ∧ holds (exec (.lbu 3 1 7) ({ regs [(1, w64 (spw + 0x3FFFF8))] with spad := [(0x3FFFFF, 0x80)] } : State))
      (fun t => (t.str 0).x 3 == 0x80) = true := by decide +kernel
/-- A store that misses the L2 asks for the line and waits in a miss register; the strand reads its own bytes at once (R102). -/
theorem test_store_miss : holds (exec (.sb 2 1 0) (regs [(1, 0x1000), (2, 0xAB)])) (fun t =>
    t.near == [(0x1000, 0xAB)] && t.ms.mshr == [{ line := 32, own := true, pre := false, cpre := false, n := 1, engs := [], nodata := false, stores := [{ k := some 0, pa := 0x1000, bs := [0xAB] }] }]) = true := by decide +kernel

theorem hyp_AccessesThatFault :
    let at0 := fun (v : Word) => ((regs [(1, v)]).str 0).x 1 + (0 : BitVec 14).signExtend 64
    (Ready (regs [(1, w64 (spw - 1))]) 0 4 ∧ devOpen (regs [(1, w64 (spw - 1))]) 0 = false ∧ winPart (at0 (w64 (spw - 1))) 8 = true)
    ∧ (Ready (regs [(1, w64 (spw + 0x3FFFF9))]) 0 4 ∧ isWin (at0 (w64 (spw + 0x3FFFF9))) = true ∧ winPart (at0 (w64 (spw + 0x3FFFF9))) 8 = false
      ∧ spw + (regs [(1, w64 (spw + 0x3FFFF9))]).spadSize < (at0 (w64 (spw + 0x3FFFF9))).toNat + 8)
    ∧ (Ready (regs [(1, w64 (2 ^ 48))]) 0 4 ∧ 2 ^ 48 ≤ (at0 (w64 (2 ^ 48))).toNat ∧ (at0 (w64 (2 ^ 48))).toNat + 8 < 2 ^ 63) :=
  ⟨⟨⟨by decide +kernel, by decide +kernel, by decide +kernel, rfl, by decide +kernel⟩, by decide +kernel⟩, ⟨⟨by decide +kernel, by decide +kernel, by decide +kernel, rfl, by decide +kernel⟩, by decide +kernel⟩,
    ⟨by decide +kernel, by decide +kernel, by decide +kernel, rfl, by decide +kernel⟩, by decide +kernel⟩

theorem hyp_AtomicsOnTheScratchpad :
    (Ready (regs [(1, w64 (spw + 0x3FFFF8))]) 0 4 ∧ (regs [(1, w64 (spw + 0x3FFFF8))]).marks = []
      ∧ nearOpen (regs [(1, w64 (spw + 0x3FFFF8))]) 0 = false ∧ farOpen (regs [(1, w64 (spw + 0x3FFFF8))]) 0 = false
      ∧ (((regs [(1, w64 (spw + 0x3FFFF8))]).str 0).x 1).toNat % 8 = 0
      ∧ (((regs [(1, w64 (spw + 0x3FFFF8))]).str 0).x 1).toNat + 8 ≤ spw + (regs [(1, w64 (spw + 0x3FFFF8))]).spadSize)
    ∧ (Ready (regs [(1, 0x8000000000000000)]) 0 4 ∧ (((regs [(1, 0x8000000000000000)]).str 0).x 1).getLsbD 63 = true)
    ∧ (Ready (regs [(1, w64 (spw + 4))]) 0 4 ∧ (((regs [(1, w64 (spw + 4))]).str 0).x 1).getLsbD 63 = false
      ∧ (((regs [(1, w64 (spw + 4))]).str 0).x 1).toNat % 8 ≠ 0) :=
  ⟨⟨ready_top, by decide +kernel⟩, ⟨⟨by decide +kernel, by decide +kernel, by decide +kernel, rfl, by decide +kernel⟩, by decide +kernel⟩, ⟨by decide +kernel, by decide +kernel, by decide +kernel, rfl, by decide +kernel⟩, by decide +kernel⟩
theorem test_amo_min : holds (exec (.amoMin 3 1 2 false false false)
      ({ regs [(1, w64 spw), (2, 5)] with spad := Mem.putLE [] 0 4 0xFFFFFFFE } : State))
    (fun t => (t.str 0).x 3 == 0xFFFFFFFFFFFFFFFE && t.spad.getLE 0 4 == 0xFFFFFFFE) = true := by decide +kernel

/-! ### Scalar floating point -/

/-- Strand 0 with f1, f2 and f3. -/
def floats (a b c : Word) : State := ((State.reset.setF 0 1 a).setF 0 2 b).setF 0 3 c

theorem hyp_FloatArithmetic : Ready State.reset 0 4 ∧ fOk 0x1F = true ∧ fOk 0 = true ∧ rmOf (State.reset.str 0) 4 = some 4
    ∧ rmOf (State.reset.str 0) 7 = some 0 := ⟨ready4, by decide +kernel⟩
theorem hyp_FloatComparesAndConversions : Ready State.reset 0 4 ∧ xOk 0x27 = true ∧ fOk 0x1F = true ∧ rmOf (State.reset.str 0) 0 = some 0
    ∧ FFmt.h ≠ .s ∧ FFmt.d ≠ .s := ⟨ready4, by decide +kernel⟩
theorem hyp_FusedMultiplyAdd :
    let q := fmtH
    let v := fun (s : State) (r : RSpec) => q.dec (((s.str 0).f r).toNat % 2 ^ q.width)
    Ready (floats 0x3C00 0x3C00 0x3C00) 0 4 ∧ q.fmaOpen (v (floats 0x3C00 0x3C00 0x3C00) 1) (v (floats 0x3C00 0x3C00 0x3C00) 2)
      (v (floats 0x3C00 0x3C00 0x3C00) 3) = false
    ∧ Ready (floats 0 0x7C00 0x7E00) 0 4 ∧ q.fmaOpen (v (floats 0 0x7C00 0x7E00) 1) (v (floats 0 0x7C00 0x7E00) 2) (v (floats 0 0x7C00 0x7E00) 3) = true
    ∧ ((floats 0 0x7C00 0x7E00).str 0).fctl.rm.toNat = 0 :=
  ⟨⟨by decide +kernel, by decide +kernel, by decide +kernel, rfl, by decide +kernel⟩, by decide +kernel, ⟨by decide +kernel, by decide +kernel, by decide +kernel, rfl, by decide +kernel⟩, by decide +kernel⟩
theorem hyp_FloatFrame :
    (floatShape (.fadd .s 1 2 3 0) = some (1, [2, 3], 0) ∧ Ready State.reset 0 4 ∧ (fOk 1 && [(2 : RSpec), 3].all fOk) = true)
    ∧ (floatShape (.fsqrt .d 0x20 1 0) = some (0x20, [1], 0) ∧ (fOk 0x20 && [(1 : RSpec)].all fOk) = false)
    ∧ floatShape (.fmul .h 1 2 3 5) = some (1, [2, 3], 5) ∧ floatShape (.fdiv .h 1 2 3 6) = some (1, [2, 3], 6) :=
  ⟨⟨rfl, ready4, by decide +kernel⟩, ⟨rfl, by decide +kernel⟩, rfl, rfl⟩
/-- IEEE 754: 1.5 × 1.5 is exact; 1 / 3 is inexact; 0 / 0 is invalid and 1 / 0 divides by zero. -/
theorem test_fmul : holds (exec (.fmul .s 4 1 1 0) (floats 0x3FC00000 0 0)) (fun t => (t.str 0).f 4 == 0x40100000 && (t.str 0).fctl.flags == 0) = true := by
  decide +kernel
theorem test_fdiv : holds (exec (.fdiv .s 4 1 2 0) (floats 0x3F800000 0x40400000 0))
    (fun t => (t.str 0).f 4 == 0x3EAAAAAB && (t.str 0).fctl.flags != 0) = true := by decide +kernel
theorem test_fadd_sign_of_zero : holds (exec (.fadd .d 4 1 2 2) (floats 0x3FF0000000000000 0xBFF0000000000000 0))
    (fun t => (t.str 0).f 4 == 0x8000000000000000) = true := by decide +kernel
theorem test_fcvt_saturates : holds (exec (.fcvtL .s 4 1 0) (floats 0x7F800000 0 0)) (fun t => (t.str 0).x 4 == 0x7FFFFFFFFFFFFFFF) = true := by decide +kernel
theorem test_fmadd_one_rounding : holds (exec (.fmadd 0 4 1 2 3) (floats 0x3C01 0x3C01 0xBC02)) (fun t => (t.str 0).f 4 == 0x0010) = true := by decide +kernel

/-! ### Control registers, SYNC, fences and windows -/

theorem hyp_ControlRegisterReads :
    (Ready State.reset 0 4 ∧ xOk 0x27 = true ∧ ctlLevels 0xFFF = none)
    ∧ (Ready user 0 4 ∧ ctlLevels 0x001 = some (.sl, some .ml) ∧ (user.str 0).status.lvl.below .sl = true)
    ∧ (Ready State.reset 0 4 ∧ (State.reset.str 0).status.lvl = .ml ∧ countPending State.reset 0 = false ∧ sumPending State.reset 0 = false) :=
  ⟨⟨ready4, by decide +kernel⟩, ⟨ready_user4, by decide +kernel⟩, ready4, by decide +kernel⟩
theorem hyp_ControlRegisterWrites :
    let jl : State := (regs [(1, 1)]).modCore (fun c => { c with jl := true })
    (Ready State.reset 0 4 ∧ ctlLevels 0xFFF = none)
    ∧ (Ready user 0 4 ∧ ctlLevels 0x010 = some (.ul, some .ul) ∧ ctlLevels 0x001 = some (.sl, some .ml)
      ∧ (user.str 0).status.lvl.below .ml = true)
    ∧ ctlLevels 0x070 = some (.ul, none)
    ∧ (Ready (regs [(1, 4)]) 0 4 ∧ (((regs [(1, 4)]).str 0).x 1).extractLsb' 0 2 = (0 : BitVec 2))
    ∧ (Ready (regs [(1, 2)]) 0 4 ∧ (((regs [(1, 2)]).str 0).x 1).extractLsb' 0 2 ≠ (0 : BitVec 2) ∧ (regs [(1, 2)]).core.jl = false
      ∧ countPending (regs [(1, 2)]) 0 = false ∧ sumPending (regs [(1, 2)]) 0 = false)
    ∧ (Ready jl 0 4 ∧ jl.core.jl = true ∧ ((jl.str 0).x 1).extractLsb' 0 2 ≠ jl.core.prof ∧ ((jl.str 0).x 1).extractLsb' 0 2 ≠ (0 : BitVec 2)) :=
  ⟨⟨ready4, by decide +kernel⟩, ⟨ready_user4, by decide +kernel⟩, by decide +kernel, ⟨⟨by decide +kernel, by decide +kernel, by decide +kernel, rfl, by decide +kernel⟩, by decide +kernel⟩,
    ⟨⟨by decide +kernel, by decide +kernel, by decide +kernel, rfl, by decide +kernel⟩, by decide +kernel⟩, ⟨by decide +kernel, by decide +kernel, by decide +kernel, rfl, by decide +kernel⟩, by decide +kernel⟩
theorem test_mtc_waits : holds (exec (.mtc 1 0x040) (regs [(1, 0xFFFFFFFFFFFFFFFF)]))
    (fun t => (t.str 0).xl.ptb == 0 && holds (exec .syncC t) (fun u => (u.str 0).xl.ptb == 0x000FFFFFFFFFF001)) = true := by decide +kernel
theorem test_feat0 : holds (exec (.mfc 3 0x070) State.reset) (fun t => bits ((t.str 0).x 3).toNat 47 32 == 0xE3) = true := by decide +kernel

/-- Strand 0 with writes that wait for SYNC.C. -/
def waitingIn (s : State) (p : Pend) : State := s.modRun 0 (fun r => { r with pend := p })
/-- The machine after reset with such writes. -/
def waiting (p : Pend) : State := waitingIn State.reset p
/-- A store waits in a miss register. -/
def storing : State := State.reset.modMs (fun m => { m with
  mshr := [{ line := 32, own := true, pre := false, cpre := false, n := 0, engs := [], nodata := false, stores := [{ k := some 0, pa := 0x1000, bs := [1] }] }] })
/-- A far store of strand 0 waits for its response. -/
def farStoring : State := State.reset.modFar (fun f => { f with
  reqs := [{ id := 0, owner := .store 0, va := 0, ftlb := none, fill := false, msg := msg0, sent := true, tries := 0, busy := false, done := none }]
  nextReq := 1 })
/-- The windows of strand 0: n resident ones with these i0, by slot, and tags of ML. -/
def stacked (n : Nat) (i0 : Nat → Word) : State :=
  State.reset.modStr 0 (fun t => { t with win := { t.win with
    wcur := 0
    resw := n
    ring := Vector.ofFn (fun w => { l := vrep 8 0, i := vrep 8 (i0 w.val), tag := .ml }) } })
/-- A tile operation of a unit of the ML context of strand 0 is in progress. -/
def busyUnit (u : TUnit) : State := State.reset.modTiles (fun t => { t with
  stamp := 1
  inflight := [{ id := 0, ctx := ml, unit := u, rd := [], wr := [0], spRd := false, spWr := false, tags := [], chain := false, body := .write [] }] })
/-- A Runnel entry of strand 0 is still to be read. -/
def heldEntry : State := State.reset.modTiles (fun t => { t with
  runnel := vupd t.runnel 0 (fun e => { e with st := .ready, owner := ml, drop := false }) })
/-- The context of strand 0 is being saved by a claim. -/
def savingMl : State := State.reset.modTiles (fun t => { t with claim := some { ctx := { k := 1, lv := .ml }, bank := 0, ph := .saving ml } })

theorem hyp_SyncAndFences :
    (Ready State.reset 0 4 ∧ (State.reset.str 0).run.pend = Pend.none ∧ State.reset.rel.aborted = false ∧ nearBefore State.reset 0 = false
      ∧ nearOpen State.reset 0 = false ∧ farOpen State.reset 0 = false)
    ∧ (Ready (waiting { Pend.none with lvl := some .ul, sap := some true, edtb := some 0x2001 }) 0 4 ∧ Lvl.ul.below .ml = true
      ∧ needSpill ((waiting { Pend.none with lvl := some .ul, sap := some true, edtb := some 0x2001 }).str 0).win .ul 1 = false)
    ∧ (Ready storing 0 4 ∧ nearBefore storing 0 = true ∧ nearOpen storing 0 = true) ∧ (Ready farStoring 0 4 ∧ (nearOpen farStoring 0 || farOpen farStoring 0) = true) :=
  ⟨⟨ready4, by decide +kernel⟩, ⟨⟨by decide +kernel, by decide +kernel, by decide +kernel, rfl, by decide +kernel⟩, by decide +kernel⟩, ⟨⟨by decide +kernel, by decide +kernel, by decide +kernel, rfl, by decide +kernel⟩, by decide +kernel⟩,
    ⟨by decide +kernel, by decide +kernel, by decide +kernel, rfl, by decide +kernel⟩, by decide +kernel⟩
/-- R53: eleven windows, ten of which a lowered level spills, the last at the end of the scratchpad; a misaligned save area; job abort. -/
theorem hyp_SyncSpills :
    let area := fun (w : Nat) => w64 (spw + 0x400000 - 128 * (w + 1))
    let s := waitingIn (stacked 11 area) { Pend.none with lvl := some .sl }
    let w := (s.str 0).win
    let m := waitingIn (stacked 2 (fun _ => 8)) { Pend.none with lvl := some .ul }
    let b := (waiting { Pend.none with lvl := some .ul }).modRel (fun r => { r with aborted := true })
    (Ready s 0 4 ∧ (s.str 0).run.pend = { Pend.none with lvl := some .sl } ∧ Lvl.sl.below (s.str 0).status.lvl = true ∧ s.rel.aborted = false ∧ s.marks = []
      ∧ w.resw ≤ 11 ∧ needSpill { w with resw := w.resw - 10 } .sl 1 = false
      ∧ (∀ j ∈ List.range 10, needSpill { w with resw := w.resw - j } .sl 1 = true)
      ∧ ∀ j ∈ List.range 10, ((w.ring[w.nth (j + 1)]).i[0]).toNat % 16 = 0 ∧ spw ≤ ((w.ring[w.nth (j + 1)]).i[0]).toNat
        ∧ ((w.ring[w.nth (j + 1)]).i[0]).toNat + 128 ≤ spw + s.spadSize ∧ AccessFree s 0 true true (((w.ring[w.nth (j + 1)]).i[0]).toNat - spw) 128)
    ∧ (Ready m 0 4 ∧ needSpill (m.str 0).win .ul 1 = true ∧ (((m.str 0).win.ring[(m.str 0).win.nth 1]).i[0]).toNat % 16 ≠ 0 ∧ m.rel.aborted = false)
    ∧ (Ready b 0 4 ∧ b.rel.aborted = true ∧ (b.str 0).status.lvl = .ml ∧ (b.str 0).run.pend.lvl = some .ul) := by
  refine ⟨⟨⟨by decide +kernel, by decide +kernel, by decide +kernel, rfl, by decide +kernel⟩, by unfold AccessFree; decide +kernel⟩,
    ⟨⟨by decide +kernel, by decide +kernel, by decide +kernel, rfl, by decide +kernel⟩, by decide +kernel⟩, ⟨by decide +kernel, by decide +kernel, by decide +kernel, rfl, by decide +kernel⟩, by decide +kernel⟩
/-- R20 and R25: TSHAPE and NPROF, kept or changed, with and without the work that each waits for. -/
theorem hyp_SyncShapesAndProfiles :
    (∀ s ∈ [waiting { Pend.none with tshape := some 3 }, waiting { Pend.none with tshape := some 1 }, waitingIn (busyUnit .move) { Pend.none with tshape := some 1 },
        waitingIn heldEntry { Pend.none with tshape := some 1 }, waitingIn savingMl { Pend.none with tshape := some 1 },
        waiting { Pend.none with nprof := some State.reset.core.prof }, waitingIn (busyUnit .tmu) { Pend.none with nprof := some (State.reset.core.prof + 1) },
        waitingIn (busyUnit .cistern) { Pend.none with nprof := some (State.reset.core.prof + 1) },
        waitingIn (busyUnit .move) { Pend.none with nprof := some (State.reset.core.prof + 1) }],
      Ready s 0 4)
    ∧ State.reset.tiles.tmu.gang.st = .own ∧ (State.reset.str 0).num.tshape = 3
    ∧ (∃ o ∈ (busyUnit .move).tiles.inflight, o.ctx.k = 0) ∧ (∃ e ∈ heldEntry.tiles.runnel.toList, e.st ≠ .free ∧ e.drop = false ∧ e.owner.k = 0)
    ∧ (∃ c : Claim, savingMl.tiles.claim = some c ∧ ∃ x : CtxId, c.ph = .saving x ∧ x.k = 0)
    ∧ ((∀ o ∈ State.reset.tiles.inflight, o.ctx.k ≠ 0) ∧ (∀ e ∈ State.reset.tiles.runnel.toList, e.st = .free ∨ e.owner.k ≠ 0) ∧ State.reset.tiles.claim = none)
    ∧ (∃ o ∈ (busyUnit .cistern).tiles.inflight, o.unit = .tmu ∨ o.unit = .rill ∨ o.unit = .cistern)
    ∧ ¬ ∃ o ∈ (busyUnit .move).tiles.inflight, o.unit = .tmu ∨ o.unit = .rill ∨ o.unit = .cistern :=
  ⟨by simp only [List.forall_mem_cons]
      exact ⟨⟨by decide +kernel, by decide +kernel, by decide +kernel, rfl, by decide +kernel⟩, ⟨by decide +kernel, by decide +kernel, by decide +kernel, rfl, by decide +kernel⟩, ⟨by decide +kernel, by decide +kernel, by decide +kernel, rfl, by decide +kernel⟩,
        ⟨by decide +kernel, by decide +kernel, by decide +kernel, rfl, by decide +kernel⟩, ⟨by decide +kernel, by decide +kernel, by decide +kernel, rfl, by decide +kernel⟩, ⟨by decide +kernel, by decide +kernel, by decide +kernel, rfl, by decide +kernel⟩,
        ⟨by decide +kernel, by decide +kernel, by decide +kernel, rfl, by decide +kernel⟩, ⟨by decide +kernel, by decide +kernel, by decide +kernel, rfl, by decide +kernel⟩, ⟨by decide +kernel, by decide +kernel, by decide +kernel, rfl, by decide +kernel⟩,
        fun _ h => nomatch h⟩,
    rfl, rfl, by decide +kernel, by decide +kernel, ⟨_, rfl, _, rfl, rfl⟩, by decide +kernel, by decide +kernel, by decide +kernel⟩
theorem hyp_SyncAndFencesComplete :
    Ready (waiting { Pend.none with ptb := some 0x1001 }) 0 4 ∧ ((waiting { Pend.none with ptb := some 0x1001 }).str 0).run.pend.lvl = none
    ∧ Ready State.reset 0 4 ∧ (State.reset.str 0).run.pend.tshape = none ∧ (State.reset.str 0).run.pend.nprof = none
    ∧ (State.reset.str 0).run.pend.lvl = none ∧ nearBefore State.reset 0 = false ∧ nearOpen State.reset 0 = false ∧ farOpen State.reset 0 = false :=
  ⟨⟨by decide +kernel, by decide +kernel, by decide +kernel, rfl, by decide +kernel⟩, by decide +kernel, ready4, by decide +kernel⟩

/-- n resident windows, every i register a, strand 0 of s. -/
def spilling (s : State) (n : Nat) (a : Word) : State :=
  s.modStr 0 (fun t => { t with win := { t.win with
    resw := n
    ring := vrep 12 { l := vrep 8 0, i := vrep 8 a, tag := .ml } } })
theorem hyp_WindowSpillsAndFills :
    let top := w64 (spw + 0x400000 - 128)
    let a := spilling State.reset 2 top
    let full := spilling State.reset 11 top
    let u := spilling user 2 top
    (Ready State.reset 0 4 ∧ (State.reset.str 0).win.resw < 2)
    ∧ (Ready u 0 4 ∧ 2 ≤ (u.str 0).win.resw ∧ (u.str 0).status.lvl.below ((u.str 0).win.ring[(u.str 0).win.oldest]).tag = true)
    ∧ (Ready a 0 4 ∧ a.marks = [] ∧ (a.str 0).status.lvl.below ((a.str 0).win.ring[(a.str 0).win.oldest]).tag = false
      ∧ (((a.str 0).win.ring[(a.str 0).win.nth 1]).i[0]).toNat + 128 ≤ spw + a.spadSize ∧ (a.str 0).win.free ≠ 0
      ∧ AccessFree a 0 true true (0x400000 - 128) 128 ∧ AccessFree a 0 true false (0x400000 - 128) 128
      ∧ (((a.str 0).win.ring[(a.str 0).win.oldest]).i[0]).toNat % 16 = 0 ∧ (u.str 0).status.lvl.below (lvlOf 1) = true
      ∧ (a.str 0).status.lvl.below (lvlOf 3) = false)
    ∧ (Ready (spilling State.reset 2 8) 0 4 ∧ ((((spilling State.reset 2 8).str 0).win.ring[((spilling State.reset 2 8).str 0).win.nth 1]).i[0]).toNat % 16 ≠ 0)
    ∧ (Ready full 0 4 ∧ (full.str 0).win.free = 0) :=
  ⟨⟨ready4, by decide +kernel⟩, ⟨⟨by decide +kernel, by decide +kernel, by decide +kernel, rfl, by decide +kernel⟩, by decide +kernel⟩,
    ⟨⟨by decide +kernel, by decide +kernel, by decide +kernel, rfl, by decide +kernel⟩, by unfold AccessFree; decide +kernel⟩,
    ⟨⟨by decide +kernel, by decide +kernel, by decide +kernel, rfl, by decide +kernel⟩, by decide +kernel⟩, ⟨by decide +kernel, by decide +kernel, by decide +kernel, rfl, by decide +kernel⟩, by decide +kernel⟩

/-! ### Events, gates and returns -/

/-- An EDT at 0x2000 whose entry n, in a line that the L2 holds, has the handler 0x9000 and the attributes given, in a state. -/
def withEdt (s : State) (n at' : Nat) : State :=
  held ((({ s with near := Mem.putLE (Mem.putLE s.near (0x2000 + 32 * n) 8 0x9000) (0x2008 + 32 * n) 8 at' } : State)).modCore (fun c =>
    { c with edtb := 0x2001 })) (0x2000 / 128 + n / 4)

/-- n resident windows. -/
def withResw (s : State) (n : Nat) : State := s.modStr 0 (fun t => { t with win := { t.win with resw := n } })

/-- The machine save stack holds n frames. -/
def withFrames (s : State) (n : Nat) : State :=
  s.modStr 0 (fun t => { t with saves := { t.saves with mV := n != 0, mOld := List.replicate (n - 1) MFrame.zero } })

/-- An event of an instruction. -/
def evOf (n : BitVec 8) : Ev := { num := n, fa := 5, info := 7, rel := .ml, src := .instr, asid := 0 }

/-- A boundary case of entry at ML: one free window, seven frames. -/
def mlCase (n at' : Nat) : State := withFrames (withResw (withEdt State.reset n at') 11) 7

/-- A table of near memory that the L2 holds. -/
theorem held_ok {s : State} {k : StrandId} {va : Word} {pa n : Nat} (h : s.mtype pa = .normal)
    (hl : (s.ms.l2.find false (pa / 128)).isSome = true) : TableHeld s k va pa n := ⟨fun _ => hl, fun hn => absurd h hn⟩

/-- The answer of an entry that is made. -/
def taken (e : Entry) : Out :=
  match e with
  | .taken t => .next t
  | _ => .next State.reset
theorem hyp_EventEntry :
    (let s := withResw (mlCase 0x2F 7) 10
     MlEntryOk s 0 (evOf 0x2F).num.toNat { handler := 0x9000, kie := true, tlvl := .ml } ∧ (evOf 0x2F).num.toNat < 0x30 ∧ (evOf 0x2F).src = .instr
      ∧ entryLevel (evOf 0x2F).num.toNat (s.str 0).status.lvl .ml = .ml)
    ∧ (let s := withResw (withEdt user 1 1) 9
       SlEntryOk s 0 (evOf 1).num.toNat { handler := 0x9000, kie := false, tlvl := .sl } ∧ (evOf 1).num.toNat < 0x30
        ∧ entryLevel (evOf 1).num.toNat (s.str 0).status.lvl .sl = .sl)
    ∧ (let s := withEdt user 0x0B 1
       SlEntryOk s 0 (evOf 0x0B).num.toNat { handler := 0x9000, kie := false, tlvl := .sl } ∧ (evOf 0x0B).num = 0x0B
        ∧ entryLevel (evOf 0x0B).num.toNat (s.str 0).status.lvl .sl = .sl) :=
  ⟨⟨⟨by decide +kernel, by decide +kernel, held_ok (by decide +kernel) (by decide +kernel), by decide +kernel, by decide +kernel, rfl⟩, by decide +kernel⟩,
    ⟨⟨by decide +kernel, by decide +kernel, held_ok (by decide +kernel) (by decide +kernel), by decide +kernel, rfl, by decide +kernel, by decide +kernel⟩, by decide +kernel⟩,
    ⟨by decide +kernel, by decide +kernel, held_ok (by decide +kernel) (by decide +kernel), by decide +kernel, rfl, by decide +kernel, by decide +kernel⟩, by decide +kernel⟩
/-- R342: an FTLB miss leaves the ASID of its strand and the VPN in the staging registers. -/
theorem test_ftlb_miss_stages : holds (taken (takeEvent (withEdt user 0x0B 1) 0 { evOf 0x0B with fa := 0x8000000123456789, asid := 0xBEEF } 0x40 false id))
    (fun t => (t.str 0).xl.fthi == w64 (0xBEEF * 2 ^ 48 + 0x8000000123456789 / 2 ^ 24 % 2 ^ 38) && (t.str 0).xl.ftlo == 0) = true := by decide +kernel
/-- A poisoned line holds EDT entry 1. -/
def poisonedEdt : State := { withEdt State.reset 1 3 with marks := [{ code := 0x15, loc := line128 0x2000, unc := true }] }
theorem hyp_EntriesThatHalt :
    ((State.reset.str 0).run.pend = Pend.none ∧ State.reset.core.edtb.getLsbD 0 = false)
    ∧ ((∀ m ∈ poisonedEdt.marks, m.code = 0x15 ∨ m.code = 0x16) ∧ TableHeld poisonedEdt 0 (w64 (poisonedEdt.edtAddr 1)) (poisonedEdt.edtAddr 1) 32
      ∧ poisonedEdt.badLine (poisonedEdt.edtAddr 1) = true ∧ (poisonedEdt.str 0).run.pend = Pend.none)
    ∧ (let s := withResw (mlCase 0x2F 7) 11
       (s.str 0).run.pend = Pend.none ∧ s.edt (evOf 0x2F).num.toNat = some { handler := 0x9000, kie := true, tlvl := .ml }
        ∧ TableHeld s 0 (w64 (s.edtAddr 0x2F)) (s.edtAddr 0x2F) 32 ∧ (evOf 0x2F).num.toNat < 0x40 ∧ (s.str 0).win.free = 0)
    ∧ (withFrames (withEdt State.reset 1 3) 8).edt 1 = some { handler := 0x9000, kie := false, tlvl := .ml }
    ∧ ((withFrames (withEdt State.reset 1 3) 8).str 0).mssFrames = 8 :=
  ⟨by decide +kernel, ⟨by decide +kernel, held_ok (by decide +kernel) (by decide +kernel), by decide +kernel, by decide +kernel⟩,
    ⟨by decide +kernel, by decide +kernel, held_ok (by decide +kernel) (by decide +kernel), by decide +kernel, by decide +kernel⟩, by decide +kernel, by decide +kernel⟩

/-- Vector v is enabled and pending for strand 0. -/
def pendingVec (s : State) (v : Nat) : State :=
  (s.modIntu (fun i => { i with vcfg := vupd i.vcfg (v - 0x40) (fun _ => { en := true, pend := true, strand := 0, prio := 15 }) })).modStr 0 (fun t =>
    { t with status := { t.status with ie := true } })
/-- Events wait for strand 0: machine checks, one whose entry has begun, and pending ones. -/
def withEvents (s : State) (m : List Ev) (own : Option Ev) (p : List Ev) : State :=
  s.modRun 0 (fun r => { r with mchk := m, entering := own, pendEv := p })
theorem hyp_BoundaryEntriesAndBreakpoints :
    let d : EdtE := { handler := 0x9000, kie := false, tlvl := .ml }
    let hold := State.reset.modCore (fun c => { c with hold := 0b1111 })
    let m := withEvents (withEdt State.reset 0x3F 3) [evOf 0x3F] (some (evOf 3)) [evOf 3]
    let o := withEvents (withEdt State.reset 3 3) [] (some (evOf 3)) [evOf 3]
    let p := withEvents (withEdt State.reset 3 3) [] none [evOf 3]
    let v := pendingVec (withEdt State.reset 0xFF 3) 0xFF
    let w := pendingVec (withEdt user 0x80 1) 0x80
    (issuing State.reset = some 0 ∧ nextEvent State.reset 0 = none) ∧ (issuing hold = some 0 ∧ nextEvent hold 0 = none ∧ hold.core.hold.getLsbD 0 = true)
    ∧ issuing (State.reset.modCore (fun c => { c with halted := true })) = none
    ∧ (issuing m = some 0 ∧ m.core.hold.getLsbD 0 = false ∧ nextEvent m 0 = some (.mchk (evOf 0x3F)) ∧ MlEntryOk m 0 0x3F d)
    ∧ (issuing o = some 0 ∧ nextEvent o 0 = some (.own (evOf 3)) ∧ MlEntryOk o 0 3 d ∧ entryLevel 3 .ml d.tlvl = .ml ∧ ∀ c : CtxId, (evOf 3).src ≠ .chain c)
    ∧ (issuing p = some 0 ∧ nextEvent p 0 = some (.pend 0 (evOf 3)) ∧ MlEntryOk p 0 3 d ∧ (evOf 3).src ≠ .save ∧ ∀ c : CtxId, (evOf 3).src ≠ .chain c)
    ∧ (issuing v = some 0 ∧ nextEvent v 0 = some (.irq 0xFF) ∧ MlEntryOk v 0 0xFF d)
    ∧ (issuing w = some 0 ∧ nextEvent w 0 = some (.irq 0x80) ∧ SlEntryOk w 0 0x80 { d with tlvl := .sl }) := by
  refine ⟨by decide +kernel, by decide +kernel, by decide +kernel, ⟨by decide +kernel, by decide +kernel, by decide +kernel, ?_⟩, ⟨by decide +kernel, by decide +kernel, ?_, by decide +kernel, fun _ h => by simp [evOf] at h⟩,
    ⟨by decide +kernel, by decide +kernel, ?_, by decide +kernel, fun _ h => by simp [evOf] at h⟩, ⟨by decide +kernel, by decide +kernel, ?_⟩, by decide +kernel, by decide +kernel, ?_⟩
  all_goals exact ⟨by decide +kernel, by decide +kernel, held_ok (by decide +kernel) (by decide +kernel), by decide +kernel, by decide +kernel, by decide +kernel⟩
theorem hyp_BreakpointEntries :
    (Ready (withEdt State.reset 3 3) 0 4 ∧ atEnd ((withEdt State.reset 3 3).str 0) 4 = false
      ∧ MlEntryOk (withEdt State.reset 3 3) 0 3 { handler := 0x9000, kie := false, tlvl := .ml } ∧ entryLevel 3 .ml .ml = .ml)
    ∧ (Ready (withEdt user 3 1) 0 4 ∧ SlEntryOk (withEdt user 3 1) 0 3 { handler := 0x9000, kie := false, tlvl := .sl }
      ∧ entryLevel 3 .ul .sl = .sl) :=
  ⟨⟨⟨by decide +kernel, by decide +kernel, by decide +kernel, rfl, by decide +kernel⟩, by decide +kernel, ⟨by decide +kernel, by decide +kernel, held_ok (by decide +kernel) (by decide +kernel), by decide +kernel, by decide +kernel, rfl⟩, rfl⟩,
    ⟨by decide +kernel, by decide +kernel, by decide +kernel, rfl, by decide +kernel⟩, ⟨by decide +kernel, by decide +kernel, held_ok (by decide +kernel) (by decide +kernel), by decide +kernel, rfl, by decide +kernel, by decide +kernel⟩, rfl⟩
theorem test_brk : holds (exec (.brk 9) (withEdt State.reset 3 3)) (fun t =>
    (t.str 0).pc == 0x9000 && (t.str 0).saves.m.save.ca == 0x8000000000090003 && (t.str 0).win.resw == 2) = true := by decide +kernel
theorem test_no_table_halts : holds (exec (.brk 9) State.reset) (fun t => t.core.halted) = true := by decide +kernel

/-- A GDT at 0x3000 with one entry in a line that the L2 holds, and its attribute doubleword. -/
def withGate (a : Nat) : State :=
  held ((({ State.reset with near := Mem.putLE (Mem.putLE [] 0x3000 8 0x9000) 0x3010 8 a } : State)).modCore (fun c => { c with gdtb := 0x3001 })) 96
theorem hyp_GateChecksAndEntry :
    let w := fun (a : Nat) => (withGate a).near.getLE 0x3010 8
    (Ready (withGate 0) 0 4 ∧ atEnd ((withGate 0).str 0) 4 = false ∧ (withGate 0).marks = [] ∧ bits (withGate 0).core.gdtb.toNat 51 12 * 4096 = 0x3000
      ∧ bits (withGate 0).core.gdtb.toNat 10 0 ≤ 1 ∧ TableHeld (withGate 0) 0 0x3000 0x3000 32)
    ∧ ((0 : Nat) < bits (withGate 0).core.gdtb.toNat 10 0 ∧ tbit (w 0) 63 = false)
    ∧ (Ready (withGate (2 ^ 63 + 2 ^ 57)) 0 4 ∧ tbit (w (2 ^ 63 + 2 ^ 57)) 63 = true ∧ bits (w (2 ^ 63 + 2 ^ 57)) 57 56 = 2)
    ∧ (Ready (withGate (2 ^ 63)) 0 4 ∧ tbit (w (2 ^ 63)) 63 = true ∧ bits (w (2 ^ 63)) 57 56 ≠ 2 ∧ tbit (w (2 ^ 63)) (52 + Lvl.ml.rank.val) = false)
    ∧ (Ready (withGate (2 ^ 63 + 2 ^ 54 + 2 ^ 56)) 0 4 ∧ tbit (w (2 ^ 63 + 2 ^ 54 + 2 ^ 56)) (52 + Lvl.ml.rank.val) = true
      ∧ (lvlOf (bits (w (2 ^ 63 + 2 ^ 54 + 2 ^ 56)) 57 56)).below .ml = true)
    ∧ (Ready (withGate (2 ^ 63 + 2 ^ 54 + 3 * 2 ^ 56)) 0 4 ∧ bits (w (2 ^ 63 + 2 ^ 54 + 3 * 2 ^ 56)) 57 56 = 3
      ∧ tbit (w (2 ^ 63 + 2 ^ 54 + 3 * 2 ^ 56)) (52 + Lvl.ml.rank.val) = true ∧ bits (w (2 ^ 63 + 2 ^ 54 + 3 * 2 ^ 56)) 23 0 = 0
      ∧ bits ((withGate (2 ^ 63 + 2 ^ 54 + 3 * 2 ^ 56)).near.getLE 0x3008 8) 63 4 = 0
      ∧ ((withGate (2 ^ 63 + 2 ^ 54 + 3 * 2 ^ 56)).str 0).run.pend = Pend.none ∧ 1 ≤ ((withGate (2 ^ 63 + 2 ^ 54 + 3 * 2 ^ 56)).str 0).win.free
      ∧ ((withGate (2 ^ 63 + 2 ^ 54 + 3 * 2 ^ 56)).str 0).mssFrames < 8) :=
  ⟨⟨⟨by decide +kernel, by decide +kernel, by decide +kernel, rfl, by decide +kernel⟩, by decide +kernel, by decide +kernel, by decide +kernel, by decide +kernel, held_ok (by decide +kernel) (by decide +kernel)⟩, by decide +kernel, ⟨⟨by decide +kernel, by decide +kernel, by decide +kernel, rfl, by decide +kernel⟩, by decide +kernel⟩,
    ⟨⟨by decide +kernel, by decide +kernel, by decide +kernel, rfl, by decide +kernel⟩, by decide +kernel⟩, ⟨⟨by decide +kernel, by decide +kernel, by decide +kernel, rfl, by decide +kernel⟩, by decide +kernel⟩,
    ⟨by decide +kernel, by decide +kernel, by decide +kernel, rfl, by decide +kernel⟩, by decide +kernel⟩

theorem hyp_EventReturn :
    (Ready State.reset 0 4 ∧ atEnd (State.reset.str 0) 4 = false ∧ (State.reset.str 0).svV (State.reset.str 0).status.lvl = false)
    ∧ (Ready (withFrames State.reset 1) 0 4 ∧ ((withFrames State.reset 1).str 0).svV .ml = true ∧ ((withFrames State.reset 1).str 0).win.resw < 2)
    ∧ (let s := withFrames (withResw State.reset 2) 8
       Ready s 0 4 ∧ (s.str 0).status.lvl = .ml ∧ (s.str 0).saves.mV = true ∧ 2 ≤ (s.str 0).win.resw ∧ s.marks = [] ∧ s.rel.aborted = false
        ∧ needSpill (s.str 0).win (Lvl.least (lvlOf (bits (s.str 0).saves.m.save.st.toNat 9 8)) .ml) 2 = false ∧ s.trace.en = false) :=
  ⟨⟨ready4, by decide +kernel⟩, ⟨⟨by decide +kernel, by decide +kernel, by decide +kernel, rfl, by decide +kernel⟩, by decide +kernel⟩, ⟨by decide +kernel, by decide +kernel, by decide +kernel, rfl, by decide +kernel⟩, by decide +kernel⟩
theorem test_evret : holds (exec .evret ((withFrames (withResw State.reset 2) 1).modStr 0 (fun t => { t with
      saves := { t.saves with m := { save := { pc := 0x400, st := 0x301, ca := 0x8000000000000003, fa := 0 }, loops := [] } } })))
    (fun t => (t.str 0).pc == 0x400 && (t.str 0).status.ie && (t.str 0).win.resw == 1 && (t.str 0).saves.mV == false) = true := by decide +kernel
/-- Table 3-10, step 4: a push below STKLIM.S escalates to ML with 0x14 and what it interrupted in SVCA.M; the vector stays pending. -/
theorem test_escalation :
    let e : TlbE := { asid := 0, level := 3, vpn := 0, leaf := w64 0x63, bad := false }
    let s := pendingVec (withEdt (withEdt State.reset 0x14 1) 0x61 1) 0x61
    let s := (s.modMs (fun m => { m with itlb := [e], dtlb := [e] })).modIntu (fun i => { i with lines := 2 })
    let s := s.modStr 0 (fun t => { t.setG15 .sl 0x400010 with
      pc := 0x2000
      status := { t.status with lvl := .sl }
      xl := { t.xl with ptb := 1 }
      saves := { t.saves with stkS := 0x400000, s := { pc := 0, st := 0, ca := 0x8000000000000241, fa := 0 } } })
    holds (exec .eventEntry s) (fun t => (t.str 0).saves.m.save.ca == 0x8000616000000014 && (t.str 0).saves.m.save.fa == 0x3FFFF0
      && (t.str 0).saves.m.save.pc == 0x2000 && (t.vcfg 0x61).pend && (t.str 0).g15 .sl == 0x400010) = true := by decide +kernel

/-- Strand 0 runs, and the others are as given. -/
def strands (a b c : StState) : State :=
  ((State.reset.modRun 1 (fun r => { r with st := a })).modRun 2 (fun r => { r with st := b })).modRun 3 (fun r => { r with st := c })
/-- Strand 0 has something to wait for. -/
def stalls (s : State) (c : Cond) : State := s.modRun 0 (fun r => { r with cond := some c })
/-- A machine-level vector of strand 1 is pending. -/
def machineVec (s : State) : State :=
  (withEdt s 0x80 3).modIntu (fun i => { i with vcfg := vupd i.vcfg 0x40 (fun _ => { en := true, pend := true, strand := 1, prio := 1 }) })
theorem hyp_StrandSwitches :
    (issuing (pendingVec (withEdt State.reset 0xFF 3) 0xFF) = some 0 ∧ (nextEvent (pendingVec (withEdt State.reset 0xFF 3) 0xFF) 0).isSome = true)
    ∧ (issuing State.reset = some 0 ∧ nextEvent State.reset 0 = none ∧ machineNext State.reset 0 = none ∧ (State.reset.str 0).run.cond = none
      ∧ nextReady State.reset 0 = none)
    ∧ (let s := stalls (strands .waiting .held .ready) .gate
       issuing s = some 0 ∧ nextEvent s 0 = none ∧ machineNext s 0 = none ∧ (s.str 0).run.cond = some .gate ∧ nextReady s 0 = some 3)
    ∧ (let s := stalls (strands .ready .waiting .held) (.longMiss 32)
       issuing s = some 0 ∧ nextEvent s 0 = none ∧ machineNext s 0 = none ∧ (s.str 0).run.cond = some (.longMiss 32) ∧ nextReady s 0 = some 1)
    ∧ (let s := machineVec ((strands .ready .stopped .stopped).modStr 1 (fun t => { t with status := { t.status with ie := true } }))
       issuing s = some 0 ∧ nextEvent s 0 = none ∧ machineNext s 0 = some 1) := by decide +kernel
/-- Table 2-3, cc 500: after a gate call strand 1 is followed by the first ready strand after it. -/
theorem test_switch : holds (exec .strandSwitch (stalls (strands .held .waiting .ready) .gate))
    (fun t => t.core.cur == some 3 && (t.str 0).run.st == .ready && (t.str 3).run.st == .running) = true := by decide +kernel
/-- No strand runs, the last was strand 0, and it waits. -/
def noneRuns (s : State) : State := (s.modRun 0 (fun r => { r with st := .waiting, cond := some .gate })).modCore (fun c => { c with cur := none, last := 0 })
theorem hyp_SwitchesWithNoStrandRunning :
    let a := noneRuns ((strands .stopped .waiting .ready).modRun 2 (fun r => { r with mchk := [evOf 0x30] }))
    let b := noneRuns (strands .stopped .waiting .ready)
    let c := noneRuns (strands .stopped .waiting .held)
    (a.core.halted = false ∧ a.pwr.pstate = .c0 ∧ a.pwr.bstate = 2 ∧ a.pwr.warmDue = none ∧ a.core.cur = none ∧ a.core.last = 0)
    ∧ machineNext a 0 = some 2 ∧ (machineNext b 0 = none ∧ machineEvent b 0 = false ∧ nextReady b 0 = some 3)
    ∧ (machineNext c 0 = none ∧ machineEvent c 0 = false ∧ nextReady c 0 = none ∧ (c.str 0).run.st ≠ .ready) := by decide +kernel
/-- R37: a machine check brings in a strand that waits, though a ready strand stands beside it. -/
theorem test_machine_check_comes_in :
    holds (exec .strandSwitch (noneRuns ((strands .stopped .waiting .ready).modRun 2 (fun r => { r with mchk := [evOf 0x30] }))))
      (fun t => t.core.cur == some 2) = true := by decide +kernel
/-- R70: a machine check is entered at the boundary and is then no longer pending. -/
theorem test_boundary_takes_machine_check : holds (exec .eventEntry (withEvents (withEdt State.reset 0x30 3) [evOf 0x30] none []))
    (fun t => (t.str 0).pc == 0x9000 && (t.str 0).run.mchk == [] && bits (t.str 0).saves.m.save.ca.toNat 7 0 == 0x30) = true := by decide +kernel

/-! ### Tile registers -/

/-- The ML context of strand 0 is RESIDENT in bank 0, whose contents are given. -/
def tile (cells : Mem) : State :=
  (State.reset.modCtx ml (fun x => { x with st := .resident, bank := 0 })).modTiles (fun t => { t with
    banks := #v[{ owner := some ml, cells := cells }, Bank.zero] })
/-- x1 of a tile state leaves n bytes to the end of the scratchpad. -/
def tileAt (cells : Mem) (n : Nat) : State := (tile cells).setX 0 1 (w64 (spw + 0x400000 - n))

theorem tileReady (s : State) (h : Ready s 0 8) (h1 : (s.str 0).status.lvl = .ml)
    (h2 : s.rel.aborted = false ∧ (s.chainOf ml).active = false ∧ s.ckHold = false ∧ s.tiles.tmu.gang.forming = none
      ∧ s.lentHold ml = false ∧ (s.ctxOf ml).st = .resident ∧ s.tiles.inflight = [] ∧ s.marks = []) : TileReady s 0 ml :=
  ⟨h, by rw [h1]; rfl, h2.1, h2.2.1, h2.2.2.1, h2.2.2.2.1, h2.2.2.2.2.1, h2.2.2.2.2.2.1, h2.2.2.2.2.2.2.1, h2.2.2.2.2.2.2.2⟩

theorem tile_ready : TileReady (tile []) 0 ml := tileReady _ ⟨by decide +kernel, by decide +kernel, by decide +kernel, rfl, by decide +kernel⟩ (by decide +kernel) (by decide +kernel)
theorem tile_ready_at : TileReady (tileAt [] 8192) 0 ml := tileReady _ ⟨by decide +kernel, by decide +kernel, by decide +kernel, rfl, by decide +kernel⟩ (by decide +kernel) (by decide +kernel)
theorem tile_ready_at2 : TileReady (tileAt [] 16384) 0 ml := tileReady _ ⟨by decide +kernel, by decide +kernel, by decide +kernel, rfl, by decide +kernel⟩ (by decide +kernel) (by decide +kernel)

/-- A move of one register. -/
def moveOp (body : TBody) (tags : List (Nat × Word)) : TOp :=
  { id := 0, ctx := ml, unit := .move, rd := [], wr := [0], spRd := true, spWr := false, tags := tags, chain := false, body := body }
/-- One operation is in progress. -/
def inFlight (s : State) (o : TOp) : State := s.modTiles (fun t => { t with inflight := [o], stamp := 1 })

/-- The tag of t15 says F8E4. -/
def tagged : Mem := Mem.putLE [] (tagOff 15) 8 5
theorem hyp_TileMoves :
    (TileReady (tileAt [] 8192) 0 ml ∧ (15 : Nat) < nTiles ((tileAt [] 8192).str 0).num.tshape ∧ tfmtOf 5 = some .f8e4
      ∧ tagBad (tileAt [] 8192) 3 5 false 0 false 0 = false
      ∧ TFmt.memRow .f8e4 (rowLen 3) = (TFmt.perRow .f8e4 (rowLen 3) * TFmt.bits .f8e4 + 7) / 8
      ∧ SpadRows (tileAt [] 8192) (((tileAt [] 8192).str 0).x 1) (strideOf (tileAt [] 8192) 0 0 128) 64 128 ∧ TFmt.memRow .f8e4 (rowLen 3) = 128)
    ∧ (TileReady (tileAt [] 16384) 0 ml ∧ (14 : Nat) % 2 = 0
      ∧ SpadRows (tileAt [] 16384) (((tileAt [] 16384).str 0).x 1) (strideOf (tileAt [] 16384) 0 0 256) 64 256 ∧ 2 * rowLen 3 = 256
      ∧ 4 * accCols 3 = 256 ∧ (3 : Nat) < nAccs 3)
    ∧ (TileReady (tileAt tagged 8192) 0 ml ∧ tfmtOf (tagFmt (tagIn ((tileAt tagged 8192).bank ml) 15)) = some .f8e4 ∧ TFmt.f8e4.bits ≠ 6
      ∧ Memory.wf ((tileAt tagged 8192).bank ml) = true ∧ TFmt.memRow .f8e4 (rowLen 3) = rowLen 3)
 :=
  ⟨⟨tile_ready_at, by decide +kernel, by decide +kernel, by decide +kernel, by decide +kernel, by unfold SpadRows; decide, by decide +kernel⟩,
    ⟨tile_ready_at2, by decide +kernel, by unfold SpadRows; decide, by decide +kernel⟩,
    ⟨tileReady _ ⟨by decide +kernel, by decide +kernel, by decide +kernel, rfl, by decide +kernel⟩ (by decide +kernel) (by decide +kernel), by decide +kernel⟩⟩

/-- A move of rows of els elements, the first n rows at the start of the scratchpad. -/
def moving (store : Bool) (kind : MvKind) (fmt els n : Nat) : State :=
  let w : MvWords := { gang := false, store := store, kind := kind, reg := if kind = .acc then 16 else 0, tag := 0, fmt := fmt, shape := 3, els := els, rows := n, fill := 0, pieces := [] }
  let todo := spadPieces (fun i => 128 * i) n (rowBytes kind fmt els)
  inFlight (tile []) (moveOp (if store then .store { w := w, todo := todo, data := none, scales := [] } else .load { w := w, todo := todo, got := [] })
    [(w.reg, 5)])
/-- What a move in progress meets. -/
def MoveOk (s : State) : Prop :=
  (∃ o ∈ s.tiles.inflight, s.tiles.inflight = [o] ∧ o.unit = .move) ∧ s.marks = [] ∧ (s.ctxOf ml).st = .resident ∧ Memory.wf (s.bank ml) = true
    ∧ devOpen s 0 = false
/-- No row of a move in progress touches a save frame whose bytes are unpredictable. -/
def ClearRows (s : State) (len : Nat) : Prop := ∀ i ∈ List.range 64, s.framesHit 0 (spw + 128 * i) len = false
theorem hyp_TileMoves_complete :
    (∀ p ∈ [(false, MvKind.tile, 5, 128, 64), (false, MvKind.split, 4, 1, 2), (false, MvKind.acc, 0, 64, 64), (true, MvKind.tile, 5, 128, 64),
        (true, MvKind.tile, 5, 1, 1), (true, MvKind.tile, 7, 128, 64), (true, MvKind.acc, 0, 64, 64)],
      MoveOk (moving p.1 p.2.1 p.2.2.1 p.2.2.2.1 p.2.2.2.2) ∧ 0 < rowBytes p.2.1 p.2.2.1 p.2.2.2.1 ∧ p.2.2.2.2 ≤ nRows 3)
    ∧ ClearRows (moving false .acc 0 64 64) 256 ∧ ClearRows (moving true .tile 5 128 64) 128
    ∧ TFmt.perRow .f8e4 (rowLen 3) = 128 ∧ TFmt.f8e4.bits ≠ 6 ∧ accCols 3 = 64
    ∧ (∃ f : TFmt, tfmtOf 7 = some f ∧ f.bits = 6 ∧ f.perRow (rowLen 3) = 128) :=
  ⟨by unfold MoveOk; decide +kernel, by unfold ClearRows; decide +kernel, by unfold ClearRows; decide +kernel, by decide +kernel, by decide +kernel, by decide +kernel, ⟨_, rfl, by decide +kernel⟩⟩
/-- R133: a TLD of the T1 geometry; the first bytes of rows 0 and 1 land at the register's rows. -/
theorem test_tld : holds (exec (.tld 7 1 0 5 false 0 false 0)
      (({ tileAt [] 2048 with spad := [(0x3FF800, 0xAA), (0x3FF840, 0xBB)] } : State).modStr 0 (fun t => { t with num := { t.num with tshape := 1 } })))
    (fun t => holds (exec .tileMoveComplete t) (fun u => u.bank ml == [(tagOff 7, 5), (regOff 7, 0xAA), (regOff 7 + 64, 0xBB)]
      && (u.str 0).pc == 8)) = true := by decide +kernel
/-- The example of R170: 0x3FAAAAAB splits into 0x3FAA and 0x3BAB. -/
theorem test_split : splitX 0x3FAAAAAB = (0x3FAA, 0x3BAB, 0) := by decide +kernel

theorem hyp_TileTagsAndState :
    (TileReady (tile []) 0 ml ∧ xOk 0x27 = true ∧ Memory.wf ((tile []).bank ml) = true ∧ (3 : Nat) < nAccs ((tile []).str 0).num.tshape
      ∧ (15 : Nat) < nTiles ((tile []).str 0).num.tshape)
    ∧ (TileReady ((tile []).setX 0 1 0x0F) 0 ml ∧ tagBad ((tile []).setX 0 1 0x0F) 3 (tagFmt 0x0F) (tagBs 0x0F) 0 false 0 = true)
    ∧ tagBad (tile []) 3 (tagFmt 0) (tagBs 0) 0 false 0 = false :=
  ⟨⟨tile_ready, by decide +kernel⟩, ⟨tileReady _ ⟨by decide +kernel, by decide +kernel, by decide +kernel, rfl, by decide +kernel⟩ (by decide +kernel) (by decide +kernel), by decide +kernel⟩, by decide +kernel⟩

/-- The context has a frame at the start of the scratchpad, g15.M points to it, and x1 holds an address. -/
def framed (st : CtxSt) (att : Bool) (x1 : Word) : State :=
  (((tile []).modCtx ml (fun x => { x with st := st, fa := w64 spw, att := att })).modStr 0 (fun t => t.setG15 .ml (w64 spw))).setX 0 1 x1
theorem hyp_TileContexts :
    (let s := ((framed .resident false 0).modTmu (fun t => { t with gang := { t.gang with st := .lent, ctx := ml } }))
     Ready s 0 8 ∧ s.rel.aborted = false ∧ s.ckHold = false ∧ s.marks = [] ∧ s.pinned ml = true)
    ∧ (Ready (framed .resident false 0) 0 8 ∧ (framed .resident false 0).pinned ml = false ∧ ((framed .resident false 0).ctxOf ml).st = .resident
      ∧ (framed .resident false 0).ctxIdle ml = true ∧ (framed .resident false 0).claiming ml = false
      ∧ ((framed .resident false 0).chainOf ml).st = .idle ∧ ((framed .resident false 0).str 0).run.pendEv = []
      ∧ ((framed .resident false 0).ctxOf ml).att = false ∧ ((framed .resident false 0).str 0).g15 .ml = ((framed .resident false 0).ctxOf ml).fa)
    ∧ (Ready (framed .saved true 0) 0 8 ∧ ((framed .saved true 0).ctxOf ml).st ≠ .resident ∧ ((framed .saved true 0).ctxOf ml).att = true
      ∧ (framed .saved true 0).claiming ml = false)
    ∧ (Ready (framed .none false 1) 0 8 ∧ ((framed .none false 1).ctxOf ml).st = .none ∧ (((framed .none false 1).str 0).x 1).toNat % 64 ≠ 0)
    ∧ (Ready (framed .none false (w64 (spw + 0x400000 - frameLen))) 0 8
      ∧ (((framed .none false (w64 (spw + 0x400000 - frameLen))).str 0).x 1).toNat % 64 = 0
      ∧ (((framed .none false (w64 (spw + 0x400000 - frameLen))).str 0).x 1).toNat + frameLen
          ≤ spw + (framed .none false (w64 (spw + 0x400000 - frameLen))).spadSize) :=
  ⟨⟨⟨by decide +kernel, by decide +kernel, by decide +kernel, rfl, by decide +kernel⟩, by decide +kernel⟩, ⟨⟨by decide +kernel, by decide +kernel, by decide +kernel, rfl, by decide +kernel⟩, by decide +kernel⟩,
    ⟨⟨by decide +kernel, by decide +kernel, by decide +kernel, rfl, by decide +kernel⟩, by decide +kernel⟩, ⟨⟨by decide +kernel, by decide +kernel, by decide +kernel, rfl, by decide +kernel⟩, by decide +kernel⟩,
    ⟨by decide +kernel, by decide +kernel, by decide +kernel, rfl, by decide +kernel⟩, by decide +kernel⟩
theorem hyp_TileContexts_save : ∃ (b : List Byte) (s1 : State), saveCtx (framed .resident false 0) ml = .ok b s1 :=
  let ⟨_, h, _⟩ := saveCtx_spad (framed .resident false 0) ml rfl (by decide +kernel) (by decide +kernel)
  ⟨_, _, h⟩
theorem canon_framed : Canon (framed .resident false 0) := ⟨by decide +kernel, by decide +kernel, by decide +kernel, by decide +kernel, by decide +kernel⟩
theorem hyp_TileContexts_frame :
    FrameAt (framed .resident false 0) ml 0 ∧ ((framed .resident false 0).ctxOf ml).pos = 0
    ∧ (chainBusy (framed .resident false 0) ml = false ∧ (stopChain (framed .resident false 0) ml).ctxIdle ml = true) := by
  unfold FrameAt
  decide +kernel
/-- A save ends with a fault, and the state that it leaves satisfies a test. -/
def saveFaults (r : MvR) (f : State → Bool) : Bool :=
  match r with
  | .fault _ t => f t
  | _ => false
/-- The context's frame lies at an address that no page can map. -/
def unframed : State := (framed .resident false 0).modCtx ml (fun x => { x with fa := w64 (2 ^ 48) })
theorem hyp_TileContexts_fault : saveFaults (saveCtx unframed ml) (fun t => (t.ctxOf ml).st == .resident) = true := by decide +kernel
/-- Table 6-12: a frame of 196,864 bytes below 0x800000 starts at 0x7CFF00, and TREL gives it back. -/
theorem test_frame : w64 (0x800000 - frameLen) &&& ~~~(0x3F : Word) = 0x7CFF00 ∧ 0x7CFF00 + frameLen = 0x800000 := by decide +kernel

/-- Two contexts of other strands. -/
def c1 : CtxId := { k := 1, lv := .ul }
def c2 : CtxId := { k := 2, lv := .ul }
/-- c1 claims a bank; the banks' owners, the state of c1, and the claim in progress are given. -/
def claiming (o1 : Option CtxId) (st : CtxSt) (q : Option Claim) : State :=
  ((State.reset.modCtx c1 (fun x => { x with st := st, fa := w64 spw })).modCtx c2 (fun x => { x with st := .resident, fa := w64 (spw + 0x400000 - frameLen) })).modTiles (fun t => { t with
    banks := #v[{ owner := some c2, cells := [] }, { owner := o1, cells := [] }]
    claims := [c1]
    claim := q })
theorem hyp_BankClaims_start :
    ((claiming none .cleared none).tiles.claim = none ∧ (claiming none .cleared none).ckHold = false
      ∧ (claiming none .cleared none).tiles.claims = [c1] ∧ pickBank (claiming none .cleared none) c1 = some (1, none)
      ∧ ((claiming none .cleared none).ctxOf c1).st = .cleared)
    ∧ (pickBank (claiming none .saved none) c1 = some (1, none) ∧ ((claiming none .saved none).ctxOf c1).st = .saved) := by
  decide +kernel
theorem hyp_BankClaims_pick : pickBank (claiming (some { k := 1, lv := .ml }) .saved none) c1 = some (1, some { k := 1, lv := .ml }) := by decide +kernel
theorem hyp_BankClaims_idle : (claiming (some { k := 1, lv := .ml }) .saved none).ctxIdle { k := 1, lv := .ml } = true := by decide +kernel
/-- A claim that waits for its victim c2, alone or with a move of c2 in progress. -/
def waitingClaim (busy : Bool) : State :=
  let s := claiming none .saved (some { ctx := c1, bank := 0, ph := .waiting c2 })
  if busy then inFlight s { moveOp (.write []) [] with ctx := c2 } else s
theorem hyp_BankClaims_waiting :
    (∀ b ∈ [true, false], (waitingClaim b).tiles.claim = some { ctx := c1, bank := 0, ph := .waiting c2 } ∧ (waitingClaim b).ckHold = false
      ∧ ((waitingClaim b).tiles.banks[(0 : Fin 2)]).owner = some c2 ∧ (waitingClaim b).pinned c2 = false ∧ ((waitingClaim b).ctxOf c1).st = .saved)
    ∧ (waitingClaim true).ctxIdle c2 = false ∧ (waitingClaim false).ctxIdle c2 = true
    ∧ (let s := inFlight (claiming (some { k := 1, lv := .ml }) .saved none) { moveOp (.write []) [] with ctx := { k := 1, lv := .ml } }
       s.tiles.claim = none ∧ pickBank s c1 = some (1, some { k := 1, lv := .ml }) ∧ s.ctxIdle { k := 1, lv := .ml } = false) := by decide +kernel
theorem hyp_BankClaims_claim :
    ((claiming none .cleared (some { ctx := c1, bank := 0, ph := .saving c2 })).tiles.claim = some { ctx := c1, bank := 0, ph := .saving c2 })
    ∧ (claiming none .cleared (some { ctx := c1, bank := 1, ph := .zeroing })).tiles.claim = some { ctx := c1, bank := 1, ph := .zeroing }
    ∧ (claiming none .saved (some { ctx := c1, bank := 1, ph := .restoring })).tiles.claim = some { ctx := c1, bank := 1, ph := .restoring } := by
  decide +kernel
theorem hyp_BankClaims_save : ∃ (b : List Byte) (s1 : State),
    saveCtx ((claiming none .cleared (some { ctx := c1, bank := 0, ph := .saving c2 })).modCtx c2 (fun x => { x with st := .resident })) c2 = .ok b s1
    ∧ (s1.ctxOf c1).st = .cleared :=
  let ⟨_, h, k⟩ := saveCtx_spad ((claiming none .cleared (some { ctx := c1, bank := 0, ph := .saving c2 })).modCtx c2
    (fun x => { x with st := .resident })) c2 rfl (by decide +kernel) (by decide +kernel)
  ⟨_, _, h, (k.ctx c1).1.trans rfl⟩
theorem hyp_BankClaims_fault : saveFaults (saveCtx unframed ml) (fun _ => true) = true := by decide +kernel
/-- A claim in its restoring phase. -/
def restoring : State := claiming none .restoring (some { ctx := c1, bank := 1, ph := .restoring })
theorem hyp_BankClaims_restore :
    restoring.tiles.claim = some { ctx := c1, bank := 1, ph := .restoring } ∧ FrameAt restoring c1 0 ∧ (restoring.ctxOf c1).pos = 0
    ∧ restoring.marks = [] ∧ Canon restoring :=
  ⟨by decide +kernel, by unfold FrameAt; decide +kernel, by decide +kernel, rfl, ⟨by decide +kernel, by decide +kernel, by decide +kernel, by decide +kernel, by decide +kernel⟩⟩

/-! ### The matrix unit and gangs -/

/-- Every Runnel entry is in a state. -/
def withRunnel (s : State) (st : RnSt) : State := s.modTiles (fun t => { t with runnel := vrep 8 { RnEntry.zero with st := st, owner := ml } })

theorem isSome_iff {α : Type} {o : Option α} (h : o.isSome = true) : ∃ x : α, o = some x := by
  cases o with
  | none => cases h
  | some x => exact ⟨x, rfl⟩

/-- The tag of accumulator 3 says integers; the tiles hold INT8 elements. -/
def intAcc : Mem := Mem.putLE [] (tagOff 19) 8 1
theorem hyp_MatrixDispatch :
    TileReady (tile intAcc) 0 ml ∧ gangStands (tile intAcc) = false
    ∧ (let b := (tile intAcc).bank ml
       (3 : Nat) < nAccs 3 ∧ (15 : Nat) < nTiles 3 ∧ ((tile intAcc).str 0).num.tshape = 3
       ∧ tmmaIllegal 3 false 14 15 (tagIn b 14) (tagIn b 15) (tbit (tagIn b 19) 0) 0 128 = false
       ∧ tmmaIllegal 3 true 14 15 (tagIn b 14) (tagIn b 15) (tbit (tagIn b 19) 0) 0 128 = false
       ∧ tmmaIllegal 3 false 14 15 (tagIn b 14) (tagIn b 15) (tbit (tagIn b 19) 0) 0 129 = true
       ∧ profRefuses (tile intAcc).core.prof.toNat (tagIn b 14) (tagIn b 15) ((tile intAcc).str 0).num.xpass.toNat 0 128 = false)
    ∧ profHold (tile intAcc) 0 = false ∧ mayReserve (tile intAcc) 0 = true ∧ mayReserve (withRunnel (tile intAcc) .ready) 0 = false
    ∧ TileReady (withRunnel (tile intAcc) .ready) 0 ml :=
  ⟨tileReady _ ⟨by decide +kernel, by decide +kernel, by decide +kernel, rfl, by decide +kernel⟩ (by decide +kernel) (by decide +kernel), by decide +kernel, by decide +kernel, by decide +kernel, by decide +kernel, by decide +kernel,
    tileReady _ ⟨by decide +kernel, by decide +kernel, by decide +kernel, rfl, by decide +kernel⟩ (by decide +kernel) (by decide +kernel)⟩

/-- A TMMA of the whole geometry. -/
def tmma0 (started : Nat) : TmmaOp :=
  { zero := false, noPass := false, a := 0, ta := 0, tb := 1, ksel := 0, n := 64, k := 64, shape := 3, prof := 3, passes := 1, tagA := 0,
    tagB := 0, scA := [], scB := [], gang := false, started := started, finished := 0, entry := none, want := false, tagA1 := 0, scA1 := [], rowsA := none, scPend := false, reps := [], faults := [], ns := 0, nf := 0 }
/-- Its dispatched operation. -/
def opOf (started : Nat) : TOp :=
  { id := 0, ctx := ml, unit := .tmu, rd := [0, 1, 16], wr := [16], spRd := false, spWr := false, tags := [], chain := false,
    body := .tmma (tmma0 started) }
/-- The governor as given, before or after the start of the pass. -/
def passing (started cap occ : Nat) : State :=
  (inFlight (tile []) (opOf started)).modTmu (fun t => { t with gov := { t.gov with cap := cap, occ := occ, any := true } })
theorem hyp_MatrixPasses :
    nextStart (tile []) = none
    ∧ (nextStart (passing 0 16 8) = some (opOf 0, tmma0 0) ∧ operandsReady (passing 0 16 8) (opOf 0) = true
      ∧ (passing 0 16 8).tiles.tmu.gated = false ∧ (passing 0 16 8).pwr.dv = none ∧ (passing 0 16 8).pwr.pstate = .c0
      ∧ (passing 0 16 8).tiles.tmu.gov.occ + passOcc (passing 0 16 8).hw.lean 3 ≤ (passing 0 16 8).tiles.tmu.gov.cap)
    ∧ (nextStart (passing 0 15 8) = some (opOf 0, tmma0 0) ∧ (passing 0 15 8).tiles.tmu.gov.any = true
      ∧ (passing 0 15 8).tiles.tmu.gov.cap < (passing 0 15 8).tiles.tmu.gov.occ + passOcc (passing 0 15 8).hw.lean 3)
    ∧ ((passing 1 16 8).tiles.inflight = [opOf 1] ∧ (passing 1 16 8).hw.lean = false ∧ (passing 1 16 8).marks = []
      ∧ ((passing 1 16 8).ctxOf ml).st = .resident)
    ∧ (let s := State.reset.modTiles (fun t => { t with runnel := vupd t.runnel 7 (fun e => { e with st := .filling }) })
       (∀ i : Fin 8, (s.tiles.runnel[i]).st = .filling ↔ i = 7) ∧ (s.tiles.runnel[(7 : Fin 8)]).drop = false)
    ∧ (let p : TmmaOp := { tmma0 1 with gang := true, rowsA := some [] }
       p.rowsA.isSome = true ∧ p.entry = none ∧ p.passes = 1 ∧ p.started = 1 ∧ p.finished = 0) := by decide +kernel
/-- R178: with at least 8 cc of occupancy and step 4, the next window's cap is at most 64 and grows by the step. -/
theorem test_governor : holds (exec .governorWindow (passing 0 16 8)) (fun t =>
    t.tiles.tmu.gov.cap == max (passing 0 16 8).tiles.tmu.gov.floor (8 + (passing 0 16 8).tiles.tmu.gov.step) && t.tiles.tmu.gov.occ == 0) = true := by
  decide +kernel

/-- A core of a cluster whose gang state, and what the others last said, are given. -/
def ganged (cidx : BitVec 3) (st : GangSt) (p : PartnerWord) : State :=
  ({ tile [] with hw := { Hw.zero with cidx := cidx } } : State).modTmu (fun t => { t with gang :=
    { t.gang with st := st, size := 4, master := 4, ctx := ml, partners := vrep 8 p } })
/-- A member that offers its context to a gang of four. -/
def offers : PartnerWord := { PartnerWord.zero with st := .offered, size := 4, point := State.reset.pwr.point }
theorem hyp_Gangs :
    (∀ p ∈ [(7, GangSt.own), (4, .own), (4, .master), (7, .offered)], TileReady (ganged p.1 p.2 offers) 0 ml)
    ∧ (let s := ganged 7 .own offers
       (s.str 0).status.lvl ≠ .ul ∧ s.hw.lean = false ∧ groupBase s (gangSize 2) + gangSize 2 ≤ s.hw.csize.toNat ∧ (s.str 0).num.tshape = 3
       ∧ tmuIdle s = true ∧ s.hw.cidx.toNat ≠ groupBase s (gangSize 2) ∧ ((s.str 0).x 0).toNat % 16 = 0)
    ∧ (let s := ganged 4 .own offers
       s.hw.cidx.toNat = groupBase s (gangSize 2) ∧ (otherMembers s 4 4).all (fun m => (partner s m).st == .offered
         && (partner s m).size.toNat == 4 && (partner s m).point == s.pwr.point) = true)
    ∧ (let s := ganged 4 .own PartnerWord.zero
       (otherMembers s 4 4).any (fun m => (partner s m).st != .offered) = true)
    ∧ (let s := ganged 4 .master offers
       s.tiles.tmu.gang.st = .master ∧ s.tiles.tmu.gang.ctx = ml ∧ gangQuiet s = true ∧ (7 : Nat) < s.tiles.tmu.gang.master + s.tiles.tmu.gang.size)
    ∧ (let s := ganged 7 .offered offers
       (4 : Nat) = s.tiles.tmu.gang.master ∧ (4 : Nat) ≠ s.hw.cidx.toNat ∧ s.tiles.tmu.gang.ctx = ml ∧ s.tiles.tmu.gang.size = 4)
    ∧ ((State.reset.modTmu (fun t => { t with gang := { t.gang with forming := some (4, ml) } })).tiles.tmu.gang.forming = some (4, ml)) := by
  refine ⟨?_, by decide +kernel⟩
  intro p h
  simp only [List.mem_cons, List.not_mem_nil, or_false] at h
  rcases h with rfl | rfl | rfl | rfl <;> exact tileReady _ ⟨by decide +kernel, by decide +kernel, by decide +kernel, rfl, by decide +kernel⟩ (by decide +kernel) (by decide +kernel)

/-- A master whose x1 leaves n bytes to the end of the scratchpad. -/
def mastered (n : Nat) : State := (ganged 4 .master offers).setX 0 1 (w64 (spw + 0x400000 - n))
theorem mastered_rows16 : SpadRows (mastered 16384) (((mastered 16384).str 0).x 1) (strideOf (mastered 16384) 0 0 256) 64 256 := by
  unfold SpadRows; decide
theorem mastered_rows8 : SpadRows (mastered 8192) (((mastered 8192).str 0).x 1) (strideOf (mastered 8192) 0 0 (TFmt.memRow .f8e4 128)) 64
    (TFmt.memRow .f8e4 128) := by
  unfold SpadRows; decide
theorem mastered_disp (n i : Nat) (h : i ∈ otherMembers (mastered n) (mastered n).tiles.tmu.gang.master (mastered n).tiles.tmu.gang.size)
    (disp : PartnerWord → Word) (hd : disp offers = 0) (m : Move) {len : Nat} (hr : SpadRows (mastered n) m.rb m.st 64 len) :
    SpadRows (mastered n) (m.rb + disp (partner (mastered n) i)) m.st 64 len := by
  have hp : ∀ j ∈ ([5, 6, 7] : List Nat), partner (mastered n) j = offers := by
    intro j hj
    simp only [List.mem_cons, List.not_mem_nil, or_false] at hj
    rcases hj with rfl | rfl | rfl <;> rfl
  rw [hp i h, hd, show m.rb + (0 : Word) = m.rb from BitVec.add_zero m.rb]
  exact hr
theorem hyp_Gangs_moves :
    (TileReady (mastered 16384) 0 ml ∧ TileReady (mastered 8192) 0 ml)
    ∧ (SpadRows (mastered 16384) (((mastered 16384).str 0).x 1) (strideOf (mastered 16384) 0 0 256) 64 256)
    ∧ (∀ a ∈ [AK.load, .store], ∃ ps : List (Nat × List MvPiece),
        gangRows (mastered 16384) ml a (wholeMove (mastered 16384) ml 1 0 64 256) 256 (fun w => w.dispA) = .ok (ps, mastered 16384))
    ∧ (tfmtOf 5 = some .f8e4 ∧ tagBad (mastered 8192) 3 5 false 0 false 0 = false
      ∧ SpadRows (mastered 8192) (((mastered 8192).str 0).x 1) (strideOf (mastered 8192) 0 0 (TFmt.memRow .f8e4 128)) 64 (TFmt.memRow .f8e4 128)
      ∧ TFmt.memRow .f8e4 128 = (TFmt.perRow .f8e4 128 * TFmt.bits .f8e4 + 7) / 8)
    ∧ (∃ ps : List (Nat × List MvPiece), gangRows (mastered 8192) ml .load
        (wholeMove (mastered 8192) ml 1 0 (TFmt.perRow .f8e4 128) (TFmt.memRow .f8e4 128)) (TFmt.memRow .f8e4 128) (fun w => w.dispB)
          = .ok (ps, mastered 8192)) :=
  ⟨⟨tileReady _ ⟨by decide +kernel, by decide +kernel, by decide +kernel, rfl, by decide +kernel⟩ (by decide +kernel) (by decide +kernel),
      tileReady _ ⟨by decide +kernel, by decide +kernel, by decide +kernel, rfl, by decide +kernel⟩ (by decide +kernel) (by decide +kernel)⟩,
    mastered_rows16,
    fun _ _ => gangRows_spad _ _ _ _ 64 256 _ rfl mastered_rows16 (fun i hi => mastered_disp 16384 i hi (fun w => w.dispA) rfl _ mastered_rows16),
    ⟨by decide +kernel, by decide +kernel, mastered_rows8, by decide +kernel⟩,
    gangRows_spad _ _ _ _ 64 128 _ rfl mastered_rows8 (fun i hi => mastered_disp 8192 i hi (fun w => w.dispB) rfl _ mastered_rows8)⟩

/-- A member of the gang of core 4, lent to it. -/
def lent : State := ganged 7 .lent offers
/-- What its master says. -/
def masterWord (st : GangSt) (op : Option GangOp) : PartnerWord := { offers with st := st, op := op }
/-- A load and a TMMA that a master hands over. -/
def handedMove (store : Bool) : MvWords :=
  { gang := false, store := store, kind := .acc, reg := 16, tag := 0, fmt := 0, shape := 3, els := 64, rows := 1, fill := 0, pieces := spadPieces (fun _ => 0) 1 256 }
def handedTmma : GangTmma :=
  { zero := true, retire := false, noPass := false, a := 3, tb := 15, ksel := 0, n := 128, k := 128, passes := 1, prof := 3, tagA := 0, scA := [] }
theorem hyp_Gangs_lent :
    (Ready lent 0 8 ∧ Ready (inFlight lent (opOf 0)) 0 8)
    ∧ ((lent.str 0).status.lvl ≠ .ul ∧ lent.rel.aborted = false ∧ (lent.chainOf ml).active = false ∧ lent.ckHold = false
      ∧ lent.tiles.tmu.gang.forming = none ∧ (lent.ctxOf ml).st = .resident ∧ lent.tiles.tmu.gang.st = .lent ∧ lent.tiles.tmu.gang.ctx = ml
      ∧ gangQuiet lent = true ∧ gangQuiet (inFlight lent (opOf 0)) = false)
    ∧ ((4 : Nat) ≠ lent.hw.cidx.toNat ∧ (4 : Nat) = lent.tiles.tmu.gang.master ∧ lent.tiles.inflight = [] ∧ offers.reset = false)
    ∧ (let o : TOp := { opOf 0 with body := .tmma { tmma0 0 with gang := true, rowsA := some [] } }
       (inFlight lent o).tiles.inflight = [o] ∧ (inFlight lent o).tiles.tmu.gang.st = .lent ∧ GangSt.master ≠ .own)
    ∧ (mayReserve lent ml.k = true ∧ lent.marks = [] ∧ { handedTmma with retire := true }.retire = true)
    ∧ (handedMove true).store = true ∧ handedTmma.retire = false ∧ handedTmma.noPass = false :=
  ⟨⟨⟨by decide +kernel, by decide +kernel, by decide +kernel, rfl, by decide +kernel⟩, ⟨by decide +kernel, by decide +kernel, by decide +kernel, rfl, by decide +kernel⟩⟩, by decide +kernel⟩
/-- R185: a member dispatches the move that its master hands to it; R188: a LENT core that is quiet goes back to OWN by TRECALL. -/
theorem test_lent : holds (exec (.gangStatusWord 4 (masterWord .master (some (.move (handedMove false))))) lent)
      (fun t => t.tiles.inflight.map (fun o => o.wr) == [[16]]) = true
    ∧ holds (exec .trecall lent) (fun t => t.tiles.tmu.gang.st == .own) = true := by decide +kernel

/-! ### The element engine, descriptors, chains and vectors -/

/-- The words of an operation of n elements on x1 = x2 op x3. -/
def words3 (n : Nat) : RillWords := { ld := 1, l1 := 2, l2 := 3, l3 := 0, ts := false, modf := 0, lenm1 := BitVec.ofNat 16 (n - 1) }
/-- A tile state whose x1, x2 and x3 hold linear INT32 locators. -/
def locs (d a b : Nat) : State := withX (tile []) [(1, splI32 d), (2, splI32 a), (3, splI32 b)]
theorem locs_ready (d a b : Nat) (h : d = 0x3FFFC0 ∨ d = 0x3FFFD0 ∨ d = 8) (ha : a = 0) (hb : b = 0) : TileReady (locs d a b) 0 ml := by
  subst ha hb
  rcases h with rfl | rfl | rfl <;> exact tileReady _ ⟨by decide +kernel, by decide +kernel, by decide +kernel, rfl, by decide +kernel⟩ (by decide +kernel) (by decide +kernel)

theorem hyp_ElementEngineDispatch :
    (TileReady (locs 0x3FFFC0 0 0) 0 ml ∧ TileReady (locs 0x3FFFD0 0 0) 0 ml ∧ TileReady (locs 8 0 0) 0 ml ∧ TileReady (tile []) 0 ml)
    ∧ rillXop (.addw (words3 16)) = some (0x28, words3 16)
    ∧ rillXop (.addw { words3 16 with l3 := 0x28 }) = some (0x28, { words3 16 with l3 := 0x28 })
    ∧ (wordsX { words3 16 with l3 := 0x28 } && rillWordsOk 0x28 false 0 16 0x28) = false
    ∧ (wordsX (words3 16) && rillWordsOk 0x28 false 0 16 0) = true
    ∧ (let s := locs 0x3FFFC0 0 0
       let r := rillOpOf s 0 ml 0x28 (words3 16)
       ([r.ld, r.s1, r.s2, r.s3].all (fun l => locKind l != 3)) = true ∧ opOk (intOf s ml r) (s.str 0) r = true ∧ spOffence s r = none
       ∧ profHold s 0 = false ∧ credRefused s.core.prof 0x28 (srcFmtOf (intOf s ml r) r.s1 r.tag1.toNat) = false)
    ∧ (let s := locs 0x3FFFD0 0 0
       let r := rillOpOf s 0 ml 0x28 (words3 16)
       opOk (intOf s ml r) (s.str 0) r = true ∧ spOffence s r = some (spw + 0x400000))
    ∧ (let s := locs 8 0 0
       let r := rillOpOf s 0 ml 0x28 (words3 16)
       opOk (intOf s ml r) (s.str 0) r = true ∧ spOffence s r = some (spw + 8))
    ∧ (let r := rillOpOf (tile []) 0 ml 0x28 (words3 16)
       [r.ld, r.s1, r.s2, r.s3].all (fun l => locKind l != 3) = true ∧ opOk (intOf (tile []) ml r) ((tile []).str 0) r = false) :=
  ⟨⟨locs_ready _ _ _ (.inl rfl) rfl rfl, locs_ready _ _ _ (.inr (.inl rfl)) rfl rfl, locs_ready _ _ _ (.inr (.inr rfl)) rfl rfl, tile_ready⟩,
    rfl, rfl, by decide +kernel⟩

/-- x1 holds an F32 scratchpad locator of 64 columns, x2 names the Runnel. -/
def fromRunnel (s : State) : State := withX s [(1, w64 (fld 4 60 + fld 0xA 56)), (2, w64 (fld 3 60))]
/-- A move of 64 columns from the Runnel. -/
def runnelMov : RillWords := { ld := 1, l1 := 2, l2 := 0, l3 := 0, ts := true, modf := 0, lenm1 := 63 }
/-- A CRED.SUM of one F8E4 element under PROF 0b01. -/
def summing : State := (withX (tile []) [(2, w64 (fld 5 60 + fld 0x5 56))]).modCore (fun c => { c with prof := 1 })
/-- Another strand waits for its NPROF change. -/
def profWaits (s : State) : State := s.modRun 1 (fun r => { r with profWait := true })
theorem hyp_ElementEngineDispatch_sources :
    (TileReady (fromRunnel (withRunnel (tile []) .ready)) 0 ml ∧ TileReady (fromRunnel (tile [])) 0 ml ∧ TileReady summing 0 ml
      ∧ TileReady (profWaits (locs 0x3FFFC0 0 0)) 0 ml)
    ∧ (let s := fromRunnel (withRunnel (tile []) .ready)
       let r := rillOpOf s 0 ml 0x00 runnelMov
       rillXop (.rillMov runnelMov) = some (0x00, runnelMov) ∧ (wordsX runnelMov && rillWordsOk 0x00 true 0 64 0) = true
       ∧ r.entry = some 0 ∧ r.keep = false ∧ opOk (intOf s ml r) (s.str 0) r = true ∧ spOffence s r = none ∧ profHold s 0 = false)
    ∧ (let s := fromRunnel (tile [])
       let r := rillOpOf s 0 ml 0x00 runnelMov
       (runnelLocs s 0 0x00 runnelMov).isEmpty = false ∧ r.entry = none)
    ∧ (let r := rillOpOf summing 0 ml 0x48 { words3 1 with l2 := 0 }
       (wordsX { words3 1 with l2 := 0 } && rillWordsOk 0x48 false 0 1 0) = true
       ∧ opOk (intOf summing ml r) (summing.str 0) r = true ∧ credRefused summing.core.prof 0x48 (srcFmtOf (intOf summing ml r) r.s1 r.tag1.toNat) = true)
    ∧ profHold (profWaits (locs 0x3FFFC0 0 0)) 0 = true :=
  ⟨⟨tileReady _ ⟨by decide +kernel, by decide +kernel, by decide +kernel, rfl, by decide +kernel⟩ (by decide +kernel) (by decide +kernel),
      tileReady _ ⟨by decide +kernel, by decide +kernel, by decide +kernel, rfl, by decide +kernel⟩ (by decide +kernel) (by decide +kernel),
      tileReady _ ⟨by decide +kernel, by decide +kernel, by decide +kernel, rfl, by decide +kernel⟩ (by decide +kernel) (by decide +kernel),
      tileReady _ ⟨by decide +kernel, by decide +kernel, by decide +kernel, rfl, by decide +kernel⟩ (by decide +kernel) (by decide +kernel)⟩, by decide +kernel⟩

/-- A Rill or Cistern operation in progress. -/
def rillTop (u : TUnit) (r : RillOp) : TOp :=
  { id := 0, ctx := ml, unit := u, rd := [], wr := [], spRd := true, spWr := true, tags := [], chain := false, body := .rill r }
/-- A tile state in which one element operation is in progress. -/
def rilling (u : TUnit) (r : RillOp) : State := inFlight (tile []) (rillTop u r)
/-- CINIT of 64 slots from offset 0, CDRAIN of 64 slots to the last bytes of the scratchpad. -/
def cinit0 : RillOp := { linOp 0x4E 64 0 0 0 with ld := 0, s2 := 0 }
def cdrain0 : RillOp := { linOp 0x4F 64 0x3FFE00 0 0 with s1 := 0, s2 := 0 }
theorem hyp_ElementEngineCompletion :
    ((rilling .rill (linOp 0x28 65536 0x3C0000 0 0x40000)).tiles.inflight = [rillTop .rill (linOp 0x28 65536 0x3C0000 0 0x40000)]
      ∧ isCistern 0x28 = false ∧ (rilling .rill (linOp 0x28 65536 0x3C0000 0 0x40000)).marks = []
      ∧ 0x3C0000 + 4 * 65536 ≤ 2 ^ 22 ∧ (0x3C0000 = 0 ∨ 0x3C0000 + 4 * 65536 ≤ 0 ∨ 0 + 4 * 65536 ≤ 0x3C0000)
      ∧ Memory.wf (rilling .rill (linOp 0x28 65536 0x3C0000 0 0x40000)).spad = true)
    ∧ ((rilling .cistern cinit0).tiles.inflight = [rillTop .cistern cinit0] ∧ locKind cinit0.s1 = 5 ∧ cinit0.base + cinit0.n ≤ 64)
    ∧ ((rilling .cistern cdrain0).tiles.inflight = [rillTop .cistern cdrain0] ∧ cdrain0.base + cdrain0.n ≤ 64
      ∧ Memory.wf (rilling .cistern cdrain0).spad = true)
    ∧ (let r := { linOp 0x00 16 0 0 0 with entry := some 7 }
       let s := withRunnel (rilling .rill r) .ready
       s.tiles.inflight = [rillTop .rill r] ∧ r.keep = false ∧ r.got = none ∧ (s.tiles.runnel[(7 : Fin 8)]).st = .ready)
    ∧ (let r := { linOp 0x48 16 0 0 0 with entry := some 7 }
       let s := withRunnel (rilling .cistern r) .ready
       s.tiles.inflight = [rillTop .cistern r] ∧ isCistern 0x48 = true ∧ r.keep = false ∧ r.got = none)
    ∧ (sumPending (tile []) 0 = false ∧ sumPending (rilling .rill (linOp 0x28 1 0 0 0)) 0 = true ∧ (tile []).rel.aborted = false
      ∧ (tile []).ckHold = false ∧ ((tile []).chainOf ml).active = false)
    ∧ (runnelHead (tile []) ml = none ∧ runnelHead (withRunnel (tile []) .ready) ml = some 0
      ∧ runnelHead (withRunnel (tile []) .filling) ml = some 0 ∧ ((withRunnel (tile []) .filling).tiles.runnel[(0 : Fin 8)]).st ≠ .ready) := by
  decide +kernel
theorem hyp_ElementEngineCompletion_ready : Ready (tile []) 0 8 ∧ Ready (rilling .rill (linOp 0x28 1 0 0 0)) 0 8
    ∧ Ready (withRunnel (tile []) .ready) 0 8 ∧ Ready (withRunnel (tile []) .filling) 0 8 :=
  ⟨⟨by decide +kernel, by decide +kernel, by decide +kernel, rfl, by decide +kernel⟩, ⟨by decide +kernel, by decide +kernel, by decide +kernel, rfl, by decide +kernel⟩, ⟨by decide +kernel, by decide +kernel, by decide +kernel, rfl, by decide +kernel⟩,
    ⟨by decide +kernel, by decide +kernel, by decide +kernel, rfl, by decide +kernel⟩⟩
/-- R238: INT32 addition wraps, element by element, the destination being a source. -/
theorem test_addw : (rillApply { State.reset with spad := [(0, 0xFF), (1, 0xFF), (2, 0xFF), (3, 0xFF), (4, 7), (16, 1), (20, 9)] } ml 0
    (linOp 0x28 2 0 0 16) false).spad = [(4, 16), (16, 1), (20, 9)] := by decide +kernel

/-- A slot that holds a literal descriptor of a level. -/
def withSlot (s : State) (d : Nat) (tag : Lvl) : State :=
  s.modSlot 0 d (fun _ => { valid := true, tag := tag, lda := w64 (spw + 64), dw := #v[0x4000000000000000, 0, 0, 0, 0, 0, 0, 0] })
/-- The first bytes of the scratchpad, and x1. -/
def padAt (s : State) (sp : Mem) (x1 : Word) : State := ({ s with spad := sp } : State).setX 0 1 x1
/-- A literal descriptor in the last 64 bytes of the scratchpad. -/
def descMem (v : Nat) : Mem := Mem.putLE [] 0x3FFFC0 8 v
theorem hyp_DescriptorSlots :
    (∀ p ∈ [(0x4000000000000000, spw + 0x3FFFC0), (0x8000000000000000, spw + 0x3FFFC0), (0, spw + 0x3FFFA0)],
      Ready (padAt State.reset (descMem p.1) (w64 p.2)) 0 8)
    ∧ ((w64 (spw + 0x3FFFA0)).toNat % 64 ≠ 0 ∧ (w64 (spw + 0x3FFFC0)).toNat % 64 = 0 ∧ (w64 (spw + 0x3FFFC0)).toNat + 64 ≤ spw + State.reset.spadSize)
    ∧ (descOk (descOf ((descMem 0x4000000000000000).getN 0x3FFFC0 64)) = true ∧ descOk (descOf ((descMem 0x8000000000000000).getN 0x3FFFC0 64)) = false
      ∧ Memory.wf (descMem 0x4000000000000000) = true
      ∧ (let s := padAt State.reset (descMem 0x4000000000000000) (w64 (spw + 0x3FFFC0))
         AccessFree s 0 true true 0x3FFFC0 64 ∧ s.marks = [] ∧ (s.chainOf ml).active = false))
    ∧ (Ready (withSlot user 63 .ml) 0 8 ∧ ((withSlot user 63 .ml).dslot 0 63).valid = true
      ∧ ((withSlot user 63 .ml).str 0).status.lvl.below ((withSlot user 63 .ml).dslot 0 63).tag = true) := by
  refine ⟨?_, by decide +kernel, by unfold AccessFree; decide +kernel, ⟨by decide +kernel, by decide +kernel, by decide +kernel, rfl, by decide +kernel⟩, by decide +kernel⟩
  intro p h
  simp only [List.mem_cons, List.not_mem_nil, or_false] at h
  rcases h with rfl | rfl | rfl <;> exact ⟨by decide +kernel, by decide +kernel, by decide +kernel, rfl, by decide +kernel⟩
theorem hyp_DescriptorSlots_pins :
    State.reset.slotPinned 0 63 = false
    ∧ (let s := (withSlot State.reset 63 .ml).modChain { k := 0, lv := .ul } (fun q => { q with st := .running, dbase := 63, dcnt := 1 })
       s.slotPinned 0 63 = true ∧ (s.chainOf ml).active = false ∧ (s.dslot 0 63).valid = true) := by decide +kernel

/-- TZERO of tile register 15, and END. -/
def tzeroStep : CStep := { wa := 0xE414003C, wb := 0, b0 := 0, b1 := 0, b2 := 0, b3 := 0 }
def endStep (wb : BitVec 32) : CStep := { wa := 0x140000, wb := wb, b0 := 0, b1 := 0, b2 := 0, b3 := 0 }
/-- The program of TZERO and END in the last 32 bytes of the scratchpad. -/
def progMem : Mem := Mem.putLE (Mem.putLE [] 0x3FFFE0 4 0xE414003C) 0x3FFFF0 4 0x140000
/-- The chain of the ML context is at a step of a program of two. -/
def chained (step : Nat) (e : CStep) : State :=
  (tile []).modChain ml (fun q => { q with st := .running, step := step, prog := [tzeroStep, e], dbase := 63, dcnt := 1 })
/-- A dispatch ends well. -/
def dispOk (r : DRes) : Bool :=
  match r with
  | .ok _ => true
  | _ => false
theorem dispOk_ok (r : DRes) (h : dispOk r = true) : ∃ s : State, r = .ok s := by
  cases r <;> simp_all [dispOk]
theorem hyp_DescriptorChains_reads : AccessFree (padAt (withSlot (tile []) 63 .ml) progMem (w64 (spw + 0x3FFFE0))) 0 true false 0x3FFFE0 32
    ∧ AccessFree (padAt (tile []) [] (w64 (spw + 0x3FFFE0))) 0 true false 0x3FFFE0 32 := by unfold AccessFree; decide +kernel
theorem hyp_DescriptorChains :
    (TileReady (padAt (withSlot (tile []) 63 .ml) progMem (w64 (spw + 0x3FFFE0))) 0 ml
      ∧ stepsOf 2 (progMem.getN 0x3FFFE0 32) = [tzeroStep, endStep 0] ∧ (w64 (spw + 0x3FFFE0)).toNat + 32 ≤ spw + State.reset.spadSize
      ∧ badStep 1 [tzeroStep, endStep 0] 0 { seen := false, o := false, i := false } = none
      ∧ badSlot (padAt (withSlot (tile []) 63 .ml) progMem (w64 (spw + 0x3FFFE0))) ml 63 1 = none)
    ∧ (TileReady (padAt (tile []) [] (w64 (spw + 0x3FFFE0))) 0 ml
      ∧ badStep 1 (stepsOf 2 (Mem.getN [] 0x3FFFE0 32)) 0 { seen := false, o := false, i := false } = some 0)
    ∧ TileReady (padAt (tile []) [] (w64 (spw + 8))) 0 ml
    ∧ (Ready State.reset 0 8 ∧ (State.reset.str 0).status.lvl.below (lvlOf 3) = false ∧ chainBusy State.reset { k := 0, lv := lvlOf 3 } = false)
    ∧ (seqRuns (chained 0 (endStep 0)) = true ∧ ((chained 0 (endStep 0)).chainOf ml).st = .running
      ∧ ((chained 0 (endStep 0)).chainOf ml).prog[((chained 0 (endStep 0)).chainOf ml).step]? = some tzeroStep ∧ tzeroStep.ctl = 0
      ∧ (chained 0 (endStep 0)).lentHold ml = false ∧ (chained 0 (endStep 0)).tiles.tmu.gang.forming = none)
    ∧ (∃ s1 : State, issueStep (chained 0 (endStep 0)) ml tzeroStep = .ok s1)
    ∧ ((endStep 0x01000000).ctl = 5 ∧ ((chained 1 (endStep 0x01000000)).chainOf ml).prog[((chained 1 (endStep 0x01000000)).chainOf ml).step]?
        = some (endStep 0x01000000) ∧ chainBusy (chained 1 (endStep 0x01000000)) ml = false ∧ (endStep 0x01000000).wb.getLsbD 0 = false)
    ∧ (let s := (inFlight (chained 1 (endStep 0)) { rillTop .rill cinit0 with chain := true }).modChain ml (fun q => { q with killed := true })
       chainBusy s ml = true ∧ (s.chainOf ml).killed = true)
    ∧ ((chained 0 (endStep 0)).marks = [] ∧ ((chained 0 (endStep 0)).str 0).run.mchk = [] ∧ ((chained 0 (endStep 0)).chainOf ml).killed = false) :=
  ⟨⟨tileReady _ ⟨by decide +kernel, by decide +kernel, by decide +kernel, rfl, by decide +kernel⟩ (by decide +kernel) (by decide +kernel), by decide +kernel⟩,
    ⟨tileReady _ ⟨by decide +kernel, by decide +kernel, by decide +kernel, rfl, by decide +kernel⟩ (by decide +kernel) (by decide +kernel), by decide +kernel⟩,
    tileReady _ ⟨by decide +kernel, by decide +kernel, by decide +kernel, rfl, by decide +kernel⟩ (by decide +kernel) (by decide +kernel), ⟨ready8, by decide +kernel⟩, by decide +kernel,
    dispOk_ok _ (by decide +kernel), by decide +kernel, by decide +kernel, by decide +kernel⟩

/-- x1 = x2 op x3 on x4 elements of F32. -/
def vec3 : VecWords := { rd := 1, rs1 := 2, rs2 := 3, rs3 := 0, rn := 4, fmt := 0xA, fmtd := 0 }
/-- The state of a vector instruction: the destination's offset and the count. -/
def vecAt (d : Word) (n : Nat) : State := withX (tile []) [(1, d), (2, w64 spw), (3, w64 (spw + 16)), (4, w64 n)]
theorem hyp_VectorInstructions :
    (∀ p ∈ [(w64 spw, 0), (w64 spw, 4097), (0, 1), (w64 (spw + 0x3FC000), 4096)], TileReady (vecAt p.1 p.2) 0 ml)
    ∧ vecShape (.vadd vec3) = some (0x01, 0x00, true, false, false, vec3) ∧ vecWordsOk vec3 false false = true
    ∧ vecWordsOk { vec3 with rs3 := 1 } false false = false ∧ isWin 0 = false
    ∧ (let s := vecAt (w64 (spw + 0x3FC000)) 4096
       let r := vecOpOf s 0 0x01 0 4096 true false false vec3
       ((s.str 0).x 4).toNat = 4096 ∧ ((s.str 0).x 1).toNat + vecLen 0xA 4096 = spw + s.spadSize ∧ opOk (intOf s ml r) (s.str 0) r = true
         ∧ spOffence s r = none ∧ profHold s 0 = false) := by
  refine ⟨?_, rfl, by decide +kernel⟩
  intro p h
  simp only [List.mem_cons, List.not_mem_nil, or_false] at h
  rcases h with rfl | rfl | rfl | rfl <;> exact tileReady _ ⟨by decide +kernel, by decide +kernel, by decide +kernel, rfl, by decide +kernel⟩ (by decide +kernel) (by decide +kernel)

/-! ### The gather engines -/

/-- The scratchpad's last 64 bytes hold a command block of COUNT rows whose last doubleword is v; x1 points to it. -/
def blockAt (count v : Nat) : State :=
  padAt State.reset (Mem.putLE (Mem.putLE [] 0x3FFFD0 8 count) 0x3FFFF8 8 v) (w64 (spw + 0x3FFFC0))
/-- What WGO captures there for strand 0. -/
def captured (s : State) : Engine :=
  let a := (s.str 0).x 1
  { Engine.zero with
    st := .running
    k := 0
    lv := (s.str 0).status.lvl
    sap := (s.str 0).status.sap
    ptb := (s.str 0).xl.ptb
    asid := (s.str 0).xl.asid
    blk := Vector.ofFn (fun j : Fin 8 => w64 (s.spad.getLE (a.toNat - spw + 8 * j.val) 8))
    baddr := a
    stamp := s.tiles.stamp }
/-- Engine 3 as given. -/
def withEng (s : State) (e : Engine) : State := { s with weevils := vmod s.weevils 3 (fun _ => e) }
/-- An engine of strand 0 at ML that moves rows of 16 bytes by index from 0x1000. -/
def eng (st : RunSt) (dw0 count : Nat) (elem : Option Word) (ps : List Piece) : Engine :=
  { Engine.zero with
    st := st
    lv := .ml
    blk := #v[w64 dw0, w64 spw, w64 count, 5, 0x1000, 16, 0, 0]
    elem := elem
    pieces := ps }
/-- A piece at 0x1000, near or of a far request. -/
def piece0 (req : Option Nat) : Piece := { id := 63, row := 0, addr := 0x1000, pa := 0x1000, so := 0, len := 16, req := req, ph := .todo }
/-- A line is being fetched. -/
def missing0 (line : Nat) : State := State.reset.modMs (fun x => { x with mshr := [{ line := line, own := false, pre := false, cpre := false, n := 1, engs := [], nodata := false, stores := [] }] })
/-- A far request of a piece with its answer. -/
def pieceReq (code : BitVec 8) : FarReq :=
  { id := 9, owner := .piece 3 63, va := 0, ftlb := none, fill := false, msg := msg0, sent := true, tries := 0, busy := false,
    done := some (code, []) }

theorem hyp_GatherEngines_strand :
    (Ready (blockAt 0 0) 0 8 ∧ Ready (blockAt 1 0) 0 8 ∧ Ready (blockAt 0 1) 0 8 ∧ Ready (padAt State.reset [] (w64 (spw + 8))) 0 8
      ∧ Ready (withEng State.reset (eng .running 0 1 none [])) 0 8 ∧ Ready (withEng user { eng .done 0 1 none [] with k := 1 }) 0 8
      ∧ Ready (withEng State.reset (eng .running 0 1 none [piece0 none])) 0 8)
    ∧ (State.reset.nWeevils = 4 ∧ ({ State.reset with hw := { Hw.zero with lean := true } } : State).nWeevils ≤ (2 : BitVec 2).toNat)
    ∧ ((w64 (spw + 0x3FFFC0)).toNat % 64 = 0 ∧ (w64 (spw + 0x3FFFC0)).toNat + 64 ≤ spw + State.reset.spadSize)
    ∧ (∀ s ∈ [blockAt 0 0, blockAt 1 0, blockAt 0 1], AccessFree s 0 true false 0x3FFFC0 64 ∧ s.marks = [] ∧ s.ckHold = false ∧ s.rel.aborted = false)
    ∧ (blockOk (blockAt 0 0) (captured (blockAt 0 0)) = true ∧ (captured (blockAt 0 0)).count = 0 ∧ tbit ((captured (blockAt 0 0)).dw 0) 59 = false)
    ∧ (blockOk (blockAt 1 0) (captured (blockAt 1 0)) = true ∧ (captured (blockAt 1 0)).count ≠ 0)
    ∧ blockOk (blockAt 0 1) (captured (blockAt 0 1)) = false
    ∧ ((user.str 0).status.lvl ≠ .ml ∧ ({ eng .done 0 1 none [] with k := 1 } : Engine).k ≠ 0) :=
  ⟨⟨⟨by decide +kernel, by decide +kernel, by decide +kernel, rfl, by decide +kernel⟩, ⟨by decide +kernel, by decide +kernel, by decide +kernel, rfl, by decide +kernel⟩, ⟨by decide +kernel, by decide +kernel, by decide +kernel, rfl, by decide +kernel⟩,
      ⟨by decide +kernel, by decide +kernel, by decide +kernel, rfl, by decide +kernel⟩, ⟨by decide +kernel, by decide +kernel, by decide +kernel, rfl, by decide +kernel⟩, ⟨by decide +kernel, by decide +kernel, by decide +kernel, rfl, by decide +kernel⟩,
      ⟨by decide +kernel, by decide +kernel, by decide +kernel, rfl, by decide +kernel⟩⟩, by unfold AccessFree; decide +kernel⟩
theorem hyp_GatherEngines_lean : Ready ({ State.reset with hw := { Hw.zero with lean := true } } : State) 0 8 :=
  ⟨by decide +kernel, by decide +kernel, by decide +kernel, rfl, by decide +kernel⟩
theorem hyp_GatherEngines_issue :
    (let e := eng .running 0 1 (some 0) []
     let s := withEng State.reset e
     seqRuns s = true ∧ engReady s e = true ∧ (e.rowAddr 0).getLsbD 63 = false
      ∧ translate s e.xctx .load (e.rowAddr 0 + w64 e.off) = .ok 0x1000 (s.mtype 0x1000) s ∧ s.mtype 0x1000 ≠ .device)
    ∧ (let e := eng .running (2 ^ 63) 1 (some 0) []
       let s := withEng State.reset e
       engReady s e = true ∧ e.scatter = true ∧ translate s e.xctx .store (e.rowAddr 0 + w64 e.off) = .ok 0x1000 (s.mtype 0x1000) s)
    ∧ (let e := eng .running 0 1 none []
       let s : State := withEng { State.reset with spad := [(0, 5)] } e
       engReady s e = true ∧ e.elem = none ∧ e.ahead = none ∧ e.pieces = [] ∧ (e.elAddr e.row).toNat = spw + 0 ∧ 0 % e.elSize = 0 ∧ 0 + e.elSize ≤ s.spadSize ∧ s.framesHit e.k (spw + 0 - 0 % 64) 64 = false ∧ e.byAddr = false ∧ e.dw 3 ≠ 0
        ∧ e.dw 3 ≤ s.spad.getLE 0 e.elSize) :=
  ⟨⟨by decide +kernel, by decide +kernel, by decide +kernel, translate_ml_off _ _ _ _ (by decide +kernel) (by decide +kernel) rfl, by decide +kernel⟩,
    ⟨by decide +kernel, by decide +kernel, translate_ml_off _ _ _ _ (by decide +kernel) (by decide +kernel) rfl⟩, by decide +kernel⟩
/-- A scatter piece at 0x1000 whose write has left, and that write. -/
def sentPiece (acked : Bool) : State :=
  (withEng State.reset (eng .running (2 ^ 63) 1 none [{ piece0 none with ph := .sent }])).modMs (fun m => { m with
    maint := if acked then [] else [{ line := 32, k := none, pre := false, ev := false, dev := false, agent := some (.weevil 3) }] })
/-- The near port has answered the read of a piece. -/
def pieceRead : PRead := { who := .piece 3 63, pa := 0x1000, n := 16, done := true, poison := false, err := false, newer := [] }
theorem hyp_GatherEngines_near :
    (let p := piece0 none
     let s := withEng State.reset (eng .running 0 1 none [p])
     p.ph = .todo ∧ s.framesHit 0 p.addr.toNat p.len = false ∧ engWrites s 3 (p.pa / 128) = false ∧ PieceHeld (held s 32) 3 p
      ∧ s.ms.l2.find false (p.pa / 128) = none ∧ s.ms.evbuf.any (fun q => q.line == p.pa / 128) = false
      ∧ s.ms.side.contains (p.pa / 128) = false ∧ (∀ r ∈ s.ms.preads, r.who ≠ .piece 3 p.id)
      ∧ PieceHeld (s.modMs (fun m => { m with preads := [pieceRead] })) 3 p)
    ∧ (∀ b ∈ [true, false], ({ piece0 none with ph := .sent } : Piece).ph = .sent ∧ engWrites (sentPiece b) 3 32 = ! b) :=
  ⟨⟨by decide +kernel, by decide +kernel, by decide +kernel, .inl (by decide +kernel), by decide +kernel, by decide +kernel, by decide +kernel, by decide +kernel,
    .inr ⟨by decide +kernel, by decide +kernel, .inr ⟨by decide +kernel, pieceRead, by decide +kernel, by decide +kernel⟩⟩⟩, by decide +kernel⟩
theorem hyp_GatherEngines_complete :
    (let e := eng .running 0 1 none [piece0 none]
     let s := withEng State.reset e
     e.pieces.find? (fun p => p.id == 63) = some (piece0 none) ∧ s.clockOn = true ∧ s.marks = [] ∧ e.fail = none
      ∧ pieceWaits s (piece0 none) = false ∧ e.scatter = false ∧ e.killed = false ∧ (s.ms.evbuf.any (fun q => q.line == (piece0 none).pa / 128)) = false
      ∧ ∀ j : StrandId, (s.str j).run.retBuf = none)
    ∧ pieceWaits (missing0 32) (piece0 none) = true
    ∧ (eng .running (2 ^ 63) 1 none [piece0 none]).scatter = true
    ∧ (∀ code ∈ [(0 : BitVec 8), 1],
       let e := eng .running 0 1 none [piece0 (some 9)]
       let s := (withEng State.reset e).modFar (fun f => { f with reqs := [pieceReq code] })
       e.pieces = [piece0 (some 9)] ∧ s.far.reqs.find? (fun q => q.id == (pieceReq code).id) = some (pieceReq code)
        ∧ (pieceReq code).done = some (code, []) ∧ e.killed = false)
    ∧ (let e := eng .running 0 0 none []
       seqRuns (withEng State.reset e) = true ∧ e.st = .running ∧ e.count ≤ e.row ∧ e.pieces = [] ∧ e.fail = none ∧ e.killed = false ∧ tbit (e.dw 0) 59 = false) := by decide +kernel

/-! ### Caches and translation -/

/-- Line 1 stands in way 15 of the L2 in a state. -/
def l2Line (st : Mesi) : State :=
  State.reset.modMs (fun m => { m with l2 := { m.l2 with lines := [{ set := 1, way := 15, line := 1, far := false, st := st, data := [] }] } })
/-- x1 holds the address after line 1; a displacement of −1 names the line's last byte. -/
def lineAt (s : State) : State := s.setX 0 1 0x100
theorem ready_line (st : Mesi) (h : st = .modified ∨ st = .exclusive) : Ready (lineAt (l2Line st)) 0 8 := by
  rcases h with rfl | rfl <;> exact ⟨by decide +kernel, by decide +kernel, by decide +kernel, rfl, by decide +kernel⟩
/-- An entry 255 of the FTLB that maps the last page of the far region, for every ASID and level. -/
def farMapped : State :=
  (State.reset.modMs (fun m => { m with ftlb := vupd m.ftlb 255 (fun _ => ftStored (w64 (2 ^ 38 - 1)) 0xF8) })).setX 0 1 0xBFFFFFFFFFFFFFFF
theorem farMapped_ok : ∃ (ga p : Nat) (q : Bool),
    farXlate farMapped (farMapped.xctx 0) .load ((farMapped.str 0).x 1 + (0 : BitVec 32).signExtend 64) = .ok ga p q farMapped := by
  have h : farMapped.ms.ftlb.toList.findIdx? (fun e => ftMatch e (farMapped.xctx 0).asid
      ((farMapped.str 0).x 1 + (0 : BitVec 32).signExtend 64).toNat) = some 255 := by decide +kernel
  have h1 : ((farMapped.str 0).x 1 + (0 : BitVec 32).signExtend 64).getLsbD 62 = false := by decide +kernel
  have h2 : (farMapped.markAt 0x0D 255).isSome = false := by decide +kernel
  have h3 : (farMapped.ms.ftlb.getD 255 (0, 0)).2 = 0xF8 := by decide +kernel
  refine ⟨ftGa (farMapped.ms.ftlb.getD 255 (0, 0)) ((farMapped.str 0).x 1 + (0 : BitVec 32).signExtend 64).toNat, 255, false, ?_⟩
  unfold farXlate
  dsimp only
  rw [h1, h]
  dsimp only
  rw [h2, h3]
  rfl
/-- A near translation fails. -/
def xlFails (r : XRes) : Bool :=
  match r with
  | .fault _ _ => true
  | _ => false
theorem xlFails_ok (r : XRes) (h : xlFails r = true) : ∃ (e : Ev) (s : State), r = .fault e s := by
  cases r <;> simp_all [xlFails]

theorem hyp_CacheMaintenance :
    (Ready user 0 8 ∧ (user.str 0).status.lvl = .ul)
    ∧ (Ready (State.reset.setX 0 1 0x8000000000000000) 0 8 ∧ (0x8000000000000000 + (0 : BitVec 32).signExtend 64 : Word).getLsbD 63 = true)
    ∧ (Ready (State.reset.setX 0 1 (w64 (spw + 0x1000000))) 0 8 ∧ isWin (w64 (spw + 0x1000000) + (0xFFFFFFFF : BitVec 32).signExtend 64) = true)
    ∧ (Ready farMapped 0 8 ∧ ((farMapped.str 0).x 1 + (0 : BitVec 32).signExtend 64).getLsbD 63 = true
      ∧ ∃ (ga p : Nat) (q : Bool), farXlate farMapped (farMapped.xctx 0) .load ((farMapped.str 0).x 1 + (0 : BitVec 32).signExtend 64) = .ok ga p q farMapped)
    ∧ (Ready (held (user.setX 0 1 0x2000) 0) 0 8 ∧ ∃ (e : Ev) (s : State), translate (held (user.setX 0 1 0x2000) 0) ((held (user.setX 0 1 0x2000) 0).xctx 0) .pload
        (0x2000 + (0 : BitVec 32).signExtend 64) = .fault e s) :=
  ⟨⟨ready_user8, by decide +kernel⟩, ⟨⟨by decide +kernel, by decide +kernel, by decide +kernel, rfl, by decide +kernel⟩, by decide +kernel⟩, ⟨⟨by decide +kernel, by decide +kernel, by decide +kernel, rfl, by decide +kernel⟩, by decide +kernel⟩,
    ⟨⟨by decide +kernel, by decide +kernel, by decide +kernel, rfl, by decide +kernel⟩, by decide +kernel, farMapped_ok⟩,
    ⟨⟨by decide +kernel, by decide +kernel, by decide +kernel, rfl, by decide +kernel⟩, xlFails_ok _ (by decide +kernel)⟩⟩
theorem hyp_CacheMaintenance_near :
    (∀ st ∈ [Mesi.modified, .exclusive], Ready (lineAt (l2Line st)) 0 8) ∧ Ready (lineAt State.reset) 0 8
    ∧ (∀ kind ∈ [AK.pload, .pstore], translate (lineAt (l2Line .modified)) ((lineAt (l2Line .modified)).xctx 0) kind
        (0x100 + (0xFFFFFFFF : BitVec 32).signExtend 64) = .ok 0xFF ((lineAt (l2Line .modified)).mtype 0xFF) (lineAt (l2Line .modified)))
    ∧ ((lineAt (l2Line .modified)).mtype 0xFF ≠ .device ∧ lineBusy (lineAt (l2Line .modified)) 1 = false ∧ (lineAt (l2Line .modified)).dirty 1 = true
      ∧ (lineAt (l2Line .exclusive)).dirty 1 = false ∧ ((lineAt (l2Line .exclusive)).ms.evbuf.any (fun e => e.line == 1)) = false
      ∧ ((lineAt (l2Line .exclusive)).ms.l2.find false 1).isSome = true ∧ (lineAt (l2Line .exclusive)).ms.page.pren = false)
    ∧ ((lineAt State.reset).ms.l2.find false 1 = none ∧ (lineAt State.reset).ms.side.contains 1 = false ∧ (lineAt State.reset).ms.mshr.length < 64)
    ∧ (State.reset.ms.page.cmd = none ∧ (State.reset.modPage (fun g => { g with cmd := some 3 })).ms.page.cmd ≠ none
      ∧ State.reset.clockOn = true ∧ (∀ s ∈ [lineAt State.reset, lineAt (l2Line .modified)], devOpen s 0 = false)
      ∧ ∀ q ∈ State.reset.ms.maint, q.k = none → q.pre = true ∨ q.ev = true ∨ q.agent ≠ none) := by
  refine ⟨?_, ⟨by decide +kernel, by decide +kernel, by decide +kernel, rfl, by decide +kernel⟩, ?_, by decide +kernel⟩
  · intro st h
    simp only [List.mem_cons, List.not_mem_nil, or_false] at h
    exact ready_line st h
  · intro kind _
    exact translate_ml_off _ _ _ _ (by decide +kernel) (by decide +kernel) rfl

/-- Page 1 of near memory is a Device region, and x1 names its last byte. -/
def devRegion : State :=
  (State.reset.modPage (fun g => { g with regions := vupd g.regions 0 (fun _ => { base := 1, lim := 1, typ := 3 }) })).setX 0 1 0x1FFF
theorem hyp_CacheMaintenance_device : Ready devRegion 0 8 ∧ ((devRegion.str 0).x 1).getLsbD 63 = false ∧ isWin ((devRegion.str 0).x 1) = false
    ∧ ∃ pa : Nat, translate devRegion (devRegion.xctx 0) .pload ((devRegion.str 0).x 1 + (0 : BitVec 32).signExtend 64) = .ok pa .device devRegion := by
  have h : devRegion.mtype ((devRegion.str 0).x 1 + (0 : BitVec 32).signExtend 64).toNat = .device := by decide +kernel
  refine ⟨⟨by decide +kernel, by decide +kernel, by decide +kernel, rfl, by decide +kernel⟩, by decide +kernel, by decide +kernel, ((devRegion.str 0).x 1 + (0 : BitVec 32).signExtend 64).toNat, ?_⟩
  rw [← h]
  exact translate_ml_off _ _ _ _ (by decide +kernel) (by decide +kernel) rfl

/-- A Device write of strand 0 is still to be acknowledged. -/
def devWriting : State := State.reset.modMs (fun m => { m with maint := [{ line := 7, k := some 0, pre := false, ev := false, dev := true, agent := none }] })
theorem hyp_CacheMaintenance_open : Ready devWriting 0 8 ∧ devOpen devWriting 0 = true ∧ devOpen devRegion 0 = false ∧ devOpen farMapped 0 = false :=
  ⟨⟨by decide +kernel, by decide +kernel, by decide +kernel, rfl, by decide +kernel⟩, by decide +kernel⟩

/-- A miss register of line 1. -/
def miss1 (pre : Bool) (stores : List MStore) : Mshr := { line := 1, own := ! pre, pre := pre, cpre := false, n := 1, engs := [], nodata := false, stores := stores }
/-- A store of the byte 0xFF of line 1. -/
def store1 : MStore := { k := some 0, pa := 0xFF, bs := [1] }
/-- Line 1 is being fetched. -/
def missing (m : Mshr) : State := State.reset.modMs (fun x => { x with mshr := [m] })
theorem hyp_CacheEvents :
    (State.reset.marks = [] ∧ State.reset.mshrOf 1 = none ∧ State.reset.oldRead 1 = none ∧ (0xFF : BitVec 52).toNat / 128 = 1)
    ∧ ((missing (miss1 false [store1])).mshrOf 1 = some (miss1 false [store1]) ∧ (missing (miss1 false [store1])).oldRead 1 = none ∧ (toLE 128 0).length = 128
      ∧ (∀ p ∈ (missing (miss1 false [store1])).ms.snoops, p.1 ≠ 1) ∧ ∀ l ∈ (missing (miss1 false [store1])).ms.l2.lines, l.set ≠ 1 % 1024)
    ∧ ((missing (miss1 true [])).mshrOf 1 = some (miss1 true []) ∧ (miss1 true []).pre = true)
    ∧ (let b : RetBuf := { pc := 0, addr := 0, size := 8, lvl := .ml, want := [(0, 8)], got := [], err := false, dev := false, amo := false, apa := 0 }
       let s := State.reset.modRun 0 (fun r => { r with retBuf := some b })
       (s.str 0).run.retBuf = some b ∧ b.want = [(0, 8)] ∧ (s.str 0).run.late = 0 ∧ 0 < ((s.modRun 0 (fun r => { r with late := 1 })).str 0).run.late)
    ∧ (snoopHeld (l2Line .modified) 1 = false ∧ (∀ p ∈ (l2Line .modified).ms.snoops, p.1 ≠ 1 ∧ snoopHeld (l2Line .modified) p.1 = true)
      ∧ (List.range 16).any (missing (miss1 false [store1])).l2Usable = true ∧ (missing (miss1 false [])).mshrOf 1 = some (miss1 false [])
      ∧ snoopHeld State.reset 1 = false)
    ∧ (let q : Maint := { line := 1, k := some 0, pre := false, ev := false, dev := false, agent := none }
       (State.reset.modMs (fun m => { m with maint := [q] })).ms.maint.find? (fun q => ! q.pre && q.line == 1) = some q
         ∧ State.reset.ms.maint.find? (fun q => ! q.pre && q.line == 1) = none)
    ∧ ((l2Line .modified).mshrOf 1 = none ∧ ((l2Line .modified).ms.l2.find false 1).isSome = true ∧ (l2Line .modified).dirty 1 = true)
    ∧ (State.reset.ms.l2.find false 1 = none ∧ (State.reset.ms.evbuf.find? (fun e => e.line == 1)) = none)
    ∧ (State.reset.ms.trackers.getD 15 { page := 0, last := 0, stride := 0, n := 0 }).n < 2
    ∧ (let t : Tracker := { page := 0, last := 23, stride := 8, n := 2 }
       let s := (State.reset.modMs (fun m => { m with trackers := vupd m.trackers 15 (fun _ => t) })).modPage (fun g => { g with pfen := true, pfdepth := 1 })
       s.ms.trackers.getD 15 { page := 0, last := 0, stride := 0, n := 0 } = t ∧ (t.last : Int) + t.stride = ((31 : Nat) : Int)
        ∧ t.stride.natAbs ≤ 8 ∧ 31 / 32 = t.page ∧ s.ms.l2.find false 31 = none ∧ s.ms.side.contains 31 = false ∧ lineBusy s 31 = false
        ∧ s.ms.evbuf = [] ∧ (s.ms.mshr.filter (fun m => m.pre)).length < 16 ∧ s.ms.mshr.length < 64 ∧ s.mtype (31 * 128) = .normal) := by decide +kernel

/-- A read of line 1 that allocates nothing, of the core itself or of another agent. -/
def read1 (who : PWho) : PRead := { who := who, pa := 0xF8, n := 8, done := false, poison := false, err := false, newer := [(0xFF, [1])] }
/-- The near port is asked for it. -/
def reading1 (who : PWho) : State := State.reset.modMs (fun m => { m with preads := [read1 who] })
theorem hyp_CacheEvents_reads :
    (∀ w ∈ [PWho.own, .piece 3 0], (reading1 w).oldRead 1 = some (read1 w) ∧ (reading1 w).marks = [] ∧ (reading1 w).ms.l2.find false 1 = none
      ∧ (reading1 w).ms.evbuf = [] ∧ (reading1 w).mshrOf 1 = none)
    ∧ (let m : Mshr := { miss1 false [store1] with own := true, nodata := true }
       let s := missing m
       s.oldRead 1 = none ∧ s.mshrOf 1 = some m ∧ m.nodata = true ∧ m.own = true ∧ m.stores ≠ []
        ∧ (∀ p ∈ s.ms.snoops, p.1 ≠ 1 ∧ snoopHeld s p.1 = true) ∧ (∀ l ∈ s.ms.l2.lines, l.set ≠ 1 % 1024) ∧ (List.range 16).any s.l2Usable = true)
    ∧ (let q : Maint := { line := 1, k := none, pre := false, ev := true, dev := false, agent := none }
       let s := State.reset.modMs (fun m => { m with maint := [q], lateW := [(0x80, [1], .weevil 3)] })
       s.ms.maint.find? (fun q => ! q.pre && q.line == 1) = some q ∧ q.ev = true ∧ ∃ p ∈ s.ms.lateW, p.1 / 128 = 1) := by decide +kernel

theorem hyp_CacheWays :
    (let s := State.reset
     ((∀ p ∈ s.ms.page.cleaning, p.1 ≠ 3) ∧ 4 ≤ usableWith s s.ms.page.lock (0x0FFF &&& ~~~(s.ms.page.lock ||| s.ms.l2.dis)))
      ∧ usableWith s s.ms.page.lock (0x1FFF &&& ~~~(s.ms.page.lock ||| s.ms.l2.dis)) < 4 ∧ s.ms.page.down.getLsbD 15 = false)
    ∧ (∀ c ∈ [0, 1, 2, 3], let s := State.reset.modPage (fun g => { g with cleaning := [(c, 15)] })
        s.ms.page.cleaning.find? (fun p => p.2 == 15) = some (c, 15) ∧ ∀ q ∈ s.ms.l2.lines, q.far = false)
    ∧ State.reset.clockOn = true ∧ (State.reset.modPwr (fun p => { p with pstate := .c3 })).clockOn = false
    ∧ State.reset.core.cyc.toNat % 2 ^ 24 = 0 ∧ (State.reset.modCore (fun c => { c with cyc := 0xFFFFFF })).core.cyc.toNat % 2 ^ 24 ≠ 0 := by decide +kernel

/-- FTHI of strand 0. -/
def withFthi (s : State) (v : Word) : State := s.modStr 0 (fun t => { t with xl := { t.xl with fthi := v } })
theorem hyp_TranslationMaintenance :
    (Ready user 0 8 ∧ bits ((user.str 0).xl.fthi).toNat 47 46 ≠ 3)
    ∧ (Ready (withFthi State.reset 0xC00000000000) 0 8 ∧ bits (((withFthi State.reset 0xC00000000000).str 0).xl.fthi).toNat 47 46 = 3)
    ∧ (Ready (withFthi State.reset 0x800000000000) 0 8 ∧ bits (((withFthi State.reset 0x800000000000).str 0).xl.fthi).toNat 47 46 ≠ 3
      ∧ ftBusy (withFthi State.reset 0x800000000000) (fun i => i == 0) = false ∧ ((withFthi State.reset 0x800000000000).str 0).status.lvl ≠ .ul)
    ∧ (ftBusy farMapped (fun i => ftRemoves 0 0 ((farMapped.str 0).x 1) (farMapped.ms.ftlb.getD i (0, 0))) = false
      ∧ ((farMapped.str 0).x 1).getLsbD 63 = true ∧ ((farMapped.str 0).x 1).getLsbD 62 = false
      ∧ ftRemoves 0 0 ((farMapped.str 0).x 1) (farMapped.ms.ftlb.getD 255 (0, 0)) = true)
    ∧ (Ready (State.reset.setX 0 1 0xFFFFFFFFFFFF) 0 8 ∧ (0xFFFFFFFFFFFF : Word).toNat < 2 ^ 48 ∧ State.reset.ms.ntlbi = none)
    ∧ (let o : NtlbiOut := { k := 0, pc := 0, m := 0, asid := 0, va := 0 }
       let s := State.reset.modMs (fun m => { m with ntlbi := some o, ntlbiDone := true })
       Ready s 0 8 ∧ s.ms.ntlbi = some { k := 0, pc := (s.str 0).pc, m := 0, asid := (s.str 0).xl.asid, va := (s.str 0).x 0 } ∧ s.ms.ntlbiDone = true
         ∧ allPerformed s = true ∧ (State.reset.modMs (fun m => { m with ntlbi := some o })).ms.ntlbiDone = false)
    ∧ (Ready (State.reset.setX 0 1 0x1000000000000) 0 8 ∧ 2 ^ 48 ≤ (0x1000000000000 : Word).toNat)
    ∧ allPerformed (missing (miss1 false [store1])) = false :=
  ⟨⟨ready_user8, by decide +kernel⟩, ⟨⟨by decide +kernel, by decide +kernel, by decide +kernel, rfl, by decide +kernel⟩, by decide +kernel⟩, ⟨⟨by decide +kernel, by decide +kernel, by decide +kernel, rfl, by decide +kernel⟩, by decide +kernel⟩,
    by decide +kernel, ⟨⟨by decide +kernel, by decide +kernel, by decide +kernel, rfl, by decide +kernel⟩, by decide +kernel⟩, ⟨⟨by decide +kernel, by decide +kernel, by decide +kernel, rfl, by decide +kernel⟩, by decide +kernel⟩,
    ⟨⟨by decide +kernel, by decide +kernel, by decide +kernel, rfl, by decide +kernel⟩, by decide +kernel⟩, by decide +kernel⟩

/-! ### Queues -/

/-- Queue 0xFFFFF, of two slots of fixed items that strand 0 owns at ML. -/
def queue0 : QDesc :=
  { q := 0xFFFFF, v := true, pkt := false, lossy := false, rmt := true, pin := false, clvl := 3, plvl := 3, owns := 0, olvl := 3, szlog2 := 1,
    cthr := 0, ring := 0x10000, mark := 0x20000, take := 0, tail := 0, head := 0, lost := 0, err := 0, act := #v[0, 0, 0], items := [],
    deferred := none, fwding := false }
/-- An item of slot 0. -/
def item0 (wr : Nat) (poppable taken : Bool) : QItem :=
  { idx := 0, k := 1, len := 64, gap := false, gapcnt := 0, data := [], wr := wr, poppable := poppable, taken := taken }
/-- The queue holds one item. -/
def holding (wr : Nat) (poppable taken : Bool) : QDesc := { queue0 with take := bit taken, tail := 1, items := [item0 wr poppable taken] }
/-- Both slots of the queue are used. -/
def fullQ (lossy : Bool) : QDesc := { queue0 with lossy := lossy, tail := 2, items := [item0 1 true false, { item0 1 true false with idx := 1 }] }
/-- A state that holds a descriptor; x1 names its queue, x2 the last 64 bytes of the scratchpad, and x3 is 64. -/
def withQ (s : State) (d : QDesc) (x1 : Word) : State :=
  withX ({ s with queues := { s.queues with hot := [d] } } : State) [(1, x1), (2, w64 (spw + 0x3FFFC0)), (3, 64)]
/-- The configuration block of the queue, in the last 64 bytes of the scratchpad. -/
def cfgMem (szlog2 : Nat) : Mem :=
  Mem.putN [] 0x3FFFC0 (toLE 8 (2 ^ 63 + 3 * 2 ^ 54 + 3 * 2 ^ 52 + 3 * 2 ^ 48 + szlog2 * 2 ^ 32) ++ toLE 8 0x10000 ++ toLE 8 0x20000)

theorem hyp_Queues_consume :
    (Ready (withQ State.reset queue0 0x100000) 0 8 ∧ Ready (withQ State.reset queue0 0xFFFFF) 0 8 ∧ Ready (withQ user queue0 0xFFFFF) 0 8
      ∧ Ready (withQ State.reset { queue0 with v := false } 0xFFFFF) 0 8 ∧ Ready (withQ State.reset (holding 1 true false) 0xFFFFF) 0 8
      ∧ Ready (withQ State.reset (holding 1 true true) 0xFFFFF) 0 8
      ∧ Ready (withQ State.reset { queue0 with act := #v[0x4000000000000000, 0, 0] } 0xFFFFF) 0 8)
    ∧ (∀ d ∈ [queue0, { queue0 with v := false }, holding 1 true false, holding 1 true true], (withQ State.reset d 0xFFFFF).qOf 0xFFFFF = some d)
    ∧ ((user.str 0).status.lvl.below (lvlOf queue0.clvl.toNat) = true ∧ (State.reset.str 0).status.lvl.below (lvlOf queue0.clvl.toNat) = false)
    ∧ ({ queue0 with act := #v[0x4000000000000000, 0, 0] } : QDesc).isFwd = true
    ∧ ((holding 1 true false).isFwd = false ∧ (holding 1 true false).items.find? (fun it => ! it.taken) = some (item0 1 true false)
      ∧ (item0 1 true false).poppable = true)
    ∧ (∀ it ∈ (holding 1 true true).items, it.taken = true) ∧ (item0 1 true true).k ≤ (item0 1 true true).wr
    ∧ (∀ it ∈ (holding 1 true false).items, it.k ≤ it.wr ∧ it.taken = false) :=
  ⟨⟨⟨by decide +kernel, by decide +kernel, by decide +kernel, rfl, by decide +kernel⟩, ⟨by decide +kernel, by decide +kernel, by decide +kernel, rfl, by decide +kernel⟩, ⟨by decide +kernel, by decide +kernel, by decide +kernel, rfl, by decide +kernel⟩,
      ⟨by decide +kernel, by decide +kernel, by decide +kernel, rfl, by decide +kernel⟩, ⟨by decide +kernel, by decide +kernel, by decide +kernel, rfl, by decide +kernel⟩, ⟨by decide +kernel, by decide +kernel, by decide +kernel, rfl, by decide +kernel⟩,
      ⟨by decide +kernel, by decide +kernel, by decide +kernel, rfl, by decide +kernel⟩⟩, by decide +kernel⟩
theorem hyp_Queues_configure :
    (∀ n ∈ [1, 0], Ready (withQ { State.reset with spad := cfgMem n } queue0 0xFFFFF) 0 8)
    ∧ (let s := withQ { State.reset with spad := cfgMem 1 } queue0 0xFFFFF
       let b := s.spad.getN 0x3FFFC0 64
       (qdescOf 0xFFFFF b).v = true ∧ (qdescOf 0xFFFFF b).pin = false ∧ qcfgOk s b = true ∧ queue0.used = 0
        ∧ (w64 (spw + 0x3FFFC0)).toNat % 64 = 0 ∧ (w64 (spw + 0x3FFFC0)).toNat + 64 = spw + s.spadSize
        ∧ AccessFree s 0 true false 0x3FFFC0 64)
    ∧ (let s := withQ { State.reset with spad := cfgMem 0 } queue0 0xFFFFF
       qcfgOk s (s.spad.getN 0x3FFFC0 64) = false)
    ∧ (Ready (withQ { State.reset with spad := cfgMem 1 } (fullQ false) 0xFFFFF) 0 8 ∧ (fullQ false).used ≠ 0) := by
  refine ⟨?_, by unfold AccessFree; decide +kernel, by decide +kernel, ⟨by decide +kernel, by decide +kernel, by decide +kernel, rfl, by decide +kernel⟩, by decide +kernel⟩
  intro n h
  simp only [List.mem_cons, List.not_mem_nil, or_false] at h
  rcases h with rfl | rfl <;> exact ⟨by decide +kernel, by decide +kernel, by decide +kernel, rfl, by decide +kernel⟩
/-- 512 queues are pinned, and the block asks for one more. -/
def pinned512 : State :=
  withX ({ State.reset with
    spad := Mem.putN [] 0x3FFFC0 (toLE 8 (3 * 2 ^ 54 + 2 ^ 59 + 2 ^ 60))
    queues := { State.reset.queues with hot := queue0 :: List.replicate 512 { queue0 with q := 1, pin := true } } } : State)
    [(1, 0xFFFFF), (2, w64 (spw + 0x3FFFC0))]
theorem hyp_Queues_pins : Ready pinned512 0 8 ∧ pinned512.qOf 0xFFFFF = some queue0 ∧ (qdescOf 0xFFFFF (pinned512.spad.getN 0x3FFFC0 64)).pin = true
    ∧ (qdescOf 0xFFFFF (pinned512.spad.getN 0x3FFFC0 64)).v = false ∧ 512 ≤ (pinned512.queues.hot.filter (fun e => e.pin && e.v)).length
    ∧ AccessFree pinned512 0 true false 0x3FFFC0 64 :=
  ⟨⟨by decide +kernel, by decide +kernel, by decide +kernel, rfl, by decide +kernel⟩, by unfold AccessFree; decide +kernel⟩
theorem hyp_Queues_push :
    (Ready (withQ State.reset (holding 1 true false) 0x80000000000FFFFF) 0 8 ∧ Ready (withQ user queue0 0x80000000000FFFFF) 0 8
      ∧ Ready (withQ State.reset (fullQ true) 0x80000000000FFFFF) 0 8 ∧ Ready (withQ State.reset (fullQ false) 0x80000000000FFFFF) 0 8
      ∧ Ready (withQ State.reset { queue0 with v := false } 0x80000000000FFFFF) 0 8)
    ∧ AccessFree (withQ State.reset (holding 1 true false) 0x80000000000FFFFF) 0 true false 0x3FFFC0 64
    ∧ ((0x80000000000FFFFF : Word).toNat = 2 ^ 63 + 0xFFFFF ∧ (w64 (spw + 0x3FFFC0)).toNat + 64 = spw + State.reset.spadSize)
    ∧ ((holding 1 true false).lenOk 64 = true ∧ (holding 1 true false).used + (holding 1 true false).slots 64 = (holding 1 true false).size
      ∧ (holding 1 true false).lenOk 48 = false)
    ∧ ((fullQ true).lenOk 64 = true ∧ (fullQ true).size < (fullQ true).used + (fullQ true).slots 64 ∧ (fullQ true).lossy = true
      ∧ (fullQ false).lossy = false)
    ∧ (user.str 0).status.lvl.below (lvlOf queue0.plvl.toNat) = true :=
  ⟨⟨⟨by decide +kernel, by decide +kernel, by decide +kernel, rfl, by decide +kernel⟩, ⟨by decide +kernel, by decide +kernel, by decide +kernel, rfl, by decide +kernel⟩, ⟨by decide +kernel, by decide +kernel, by decide +kernel, rfl, by decide +kernel⟩,
    ⟨by decide +kernel, by decide +kernel, by decide +kernel, rfl, by decide +kernel⟩, ⟨by decide +kernel, by decide +kernel, by decide +kernel, rfl, by decide +kernel⟩⟩, by unfold AccessFree; decide +kernel⟩
theorem hyp_Queues_short : Ready ((withQ State.reset queue0 0x80000000000FFFFF).setX 0 3 48) 0 8 ∧ (48 : Nat) % 16 = 0 :=
  ⟨⟨by decide +kernel, by decide +kernel, by decide +kernel, rfl, by decide +kernel⟩, by decide +kernel⟩
/-- The action that starts a chain: the program in the last 64 bytes of the scratchpad, two steps, slot 63 alone. -/
def chainAct : Nat := 3 * 2 ^ 60 + (spw + 0x3FFFC0) / 64 * 2 ^ 18 + 1 * 2 ^ 12 + 63 * 2 ^ 6
/-- The program of TZERO and END there. -/
def progMem64 : Mem := Mem.putLE (Mem.putLE [] 0x3FFFC0 4 0xE414003C) 0x3FFFD0 4 0x140000
/-- Queue 0xFFFFF with that action, its start deferred. -/
def deferredQ : QDesc := { queue0 with act := #v[w64 chainAct, 0, 0], deferred := some chainAct }
/-- The state in which it starts. -/
def deferring : State := withQ { withSlot (tile []) 63 .ml with spad := progMem64 } deferredQ 0
/-- The same with the context in another state. -/
def deferringIn (st : CtxSt) : State := deferring.modCtx ml (fun x => { x with st := st })
theorem hyp_Queues_engine :
    ((holding 0 false false).items = [item0 0 false false] ∧ (item0 0 false false).wr = 0 ∧ (item0 0 false false).k = 1
      ∧ (holding 0 false false).acts = [])
    ∧ (deferring.qOf 0xFFFFF = some deferredQ ∧ (deferring.chainOf ml).active = false ∧ deferredQ.deferred = some chainAct
      ∧ (deferring.ctxOf ml).st = .resident ∧ bits chainAct 11 6 + bits chainAct 5 0 = 63 ∧ deferring.ckHold = false)
    ∧ (spw ≤ bits chainAct 59 18 * 64 ∧ bits chainAct 59 18 * 64 + 16 * (bits chainAct 17 12 + 1) ≤ spw + deferring.spadSize
      ∧ Memory.wf deferring.spad = true ∧ deferring.framesHit 0 (bits chainAct 59 18 * 64) (16 * (bits chainAct 17 12 + 1)) = false
      ∧ ∀ r ∈ deferring.ms.preads, r.who ≠ .move { k := 0, id := 2 })
    ∧ (∃ s1 : State, chainFrom (deferring.modQ 0xFFFFF (fun d => { d with deferred := none })) ml (w64 (bits chainAct 59 18 * 64))
        (deferring.spad.getN (bits chainAct 59 18 * 64 - spw) (16 * (bits chainAct 17 12 + 1))) (bits chainAct 17 12 + 1) (bits chainAct 11 6)
        (bits chainAct 5 0 + 1) = .ok s1)
    ∧ ((deferring.modChain ml (fun q => { q with st := .running })).chainOf ml).active = true
    ∧ (∀ st ∈ [CtxSt.none, .saved], ((deferringIn st).qOf 0xFFFFF = some deferredQ ∧ ((deferringIn st).chainOf ml).active = false
        ∧ ((deferringIn st).ctxOf ml).st = st ∧ (deferringIn st).tiles.claim = none))
    ∧ ({ holding 1 true true with fwding := true } : QDesc).items = [item0 1 true true]
    ∧ (∀ code ∈ [(0 : BitVec 8), 6, 0x0A, 0x0D], fwdCode (withQ State.reset { holding 1 true true with fwding := true } 0) 0xFFFFF code = code)
    ∧ (State.reset.qOf 0xFFFFF = none ∧ State.reset.queues.hot.length < 1024) :=
  ⟨by decide +kernel, by decide +kernel, by decide +kernel, dispOk_ok _ (by decide +kernel), by decide +kernel, by decide +kernel, by decide +kernel, by decide +kernel, by decide +kernel⟩
theorem hyp_Queues_fetch :
    (State.reset.ms.preads = [] ∧ State.reset.ms.l2.find false (State.reset.qAddr 0xFFFFF / 128) = none ∧ State.reset.mshrOf (State.reset.qAddr 0xFFFFF / 128) = none
      ∧ State.reset.ms.evbuf = [] ∧ State.reset.ms.side.contains (State.reset.qAddr 0xFFFFF / 128) = false)
    ∧ AgentHeld (held State.reset (State.reset.qAddr 0xFFFFF / 128)) (.queue 0xFFFFF) (State.reset.qAddr 0xFFFFF) 64 :=
  ⟨by decide +kernel, by decide +kernel, .inl (by decide +kernel)⟩

/-! ### Reduction windows -/

/-- This core is joined, epoch 7, node 5. -/
def joinedState : State :=
  (State.reset.modFarRegs (fun r => { r with jstate := .joined, en := true, epoch := 7, node := 5, pver := 2, expl := 0xFFFFFFFF })).modFar (fun f =>
    { f with tgt := [{ num := 3, node := 9, ep := 1, sgen := 4, h := 100, m := 1, slots := [(36, msg0)], held := true, used := 0 }] })
/-- A request of the session of node 9. -/
def reqOf (op : BitVec 6) (seq : BitVec 32) (addr : Word) (body : List Byte) : FarMsg :=
  { msg0 with op := op, srcNode := 9, srcEp := 1, sess := 3, seq := seq, epoch := 7, addr := addr, body := body }
/-- Window 63, of two ranks of one word, in a state. -/
def redWin (s : State) (st : WinSt) (next : Nat) (present : List Nat) : State :=
  s.modFar (fun f => { f with wins := vupd f.wins 63 (fun _ =>
    { RWin.zero with st := st, cntm1 := 1, nm1 := 0, int := true, spa := 0x1000, rpa := 0x2000, next := next, present := present }) })
/-- The address word of a contribution to window 63: generation and rank. -/
def redAddr (gen rank : Nat) : Word := w64 (gen * 2 ^ 48 + 63 * 2 ^ 36 + rank)
/-- The arguments of FRED: a handle, an address and a count. -/
def fredAt (s : State) (h a n : Word) : State := withX s [(1, h), (2, a), (3, n)]

theorem hyp_ReductionWindows_strand :
    (Ready user 0 8 ∧ user.far.regs.ufred = false ∧ (user.str 0).status.lvl = .ul)
    ∧ (Ready (fredAt user 0 0 1) 0 8 ∧ Ready (fredAt State.reset 0xC00 0 1) 0 8 ∧ Ready (fredAt State.reset 0 0 1024) 0 8
      ∧ Ready (fredAt State.reset 0 (w64 (spw + 0x3FF000)) 1024) 0 8 ∧ Ready (fredAt joinedState 0 (w64 (spw + 0x3FF000)) 1024) 0 8)
    ∧ (bits 0xC00 15 10 ≠ 0 ∧ isWin 0 = false ∧ (w64 (spw + 0x3FF000)).toNat + 4 * 1024 = spw + State.reset.spadSize
      ∧ AccessFree (fredAt joinedState 0 (w64 (spw + 0x3FF000)) 1024) 0 true false 0x3FF000 4096
      ∧ AccessFree (fredAt State.reset 0 (w64 (spw + 0x3FF000)) 1024) 0 true false 0x3FF000 4096
      ∧ joinedState.farOn = true ∧ State.reset.farOn = false ∧ joinedState.tiles.inflight = [] ∧ joinedState.far.reqs = [])
    ∧ (Ready (State.reset.setX 0 1 (w64 (spw + 0x3FFFC0))) 0 8 ∧ AccessFree (State.reset.setX 0 1 (w64 (spw + 0x3FFFC0))) 0 true false 0x3FFFC0 64
      ∧ rwOk (State.reset.setX 0 1 (w64 (spw + 0x3FFFC0))) (dwords (Mem.getN [] 0x3FFFC0 64) 8) = true
      ∧ (State.reset.far.wins[(63 : Fin 64)]).st = .idle)
    ∧ (Ready (redWin (State.reset.setX 0 1 (w64 (spw + 0x3FFFC0))) .armed 0 []) 0 8
      ∧ ((redWin State.reset .armed 0 []).far.wins[(63 : Fin 64)]).st ≠ .idle) :=
  ⟨⟨ready_user8, by decide +kernel⟩, ⟨⟨by decide +kernel, by decide +kernel, by decide +kernel, rfl, by decide +kernel⟩, ⟨by decide +kernel, by decide +kernel, by decide +kernel, rfl, by decide +kernel⟩, ⟨by decide +kernel, by decide +kernel, by decide +kernel, rfl, by decide +kernel⟩,
    ⟨by decide +kernel, by decide +kernel, by decide +kernel, rfl, by decide +kernel⟩, ⟨by decide +kernel, by decide +kernel, by decide +kernel, rfl, by decide +kernel⟩⟩, by unfold AccessFree; decide +kernel,
    ⟨⟨by decide +kernel, by decide +kernel, by decide +kernel, rfl, by decide +kernel⟩, by unfold AccessFree; decide +kernel⟩,
    ⟨⟨by decide +kernel, by decide +kernel, by decide +kernel, rfl, by decide +kernel⟩, by decide +kernel⟩⟩
theorem hyp_ReductionWindows_fresh : FreshReqs (fredAt joinedState 0 (w64 (spw + 0x3FF000)) 1024) := by
  intro r h
  cases h
theorem hyp_ReductionWindows_requests :
    (∀ m ∈ [reqOf 5 101 (redAddr 1 0) [], reqOf 5 101 (redAddr 0 1) [1, 0, 0, 0], reqOf 5 101 (redAddr 0 2) [], reqOf 5 101 (redAddr 0 0) [5, 0, 0, 0]],
      m.kind = 0 ∧ m.op = 5 ∧ m.epoch = joinedState.far.regs.epoch ∧ bits m.addr.toNat 41 36 = 63 ∧ (joinedState.tgtSess m).isSome = true
        ∧ ∀ e ∈ joinedState.tgtSess m, e.held = true ∧ e.h.toNat < m.seq.toNat)
    ∧ (joinedState.joined = true ∧ joinedState.far.regs.jstate ≠ .aborted ∧ joinedState.rel.aborted = false)
    ∧ ((redWin joinedState .armed 0 []).joined = true ∧ (joinedState.far.wins[(63 : Fin 64)]).st = .idle)
    ∧ (let x := (redWin joinedState .filling 0 []).far.wins[(63 : Fin 64)]
       x.next ≤ x.cntm1 ∧ x.st ≠ .idle ∧ BitVec.ofNat 16 (bits (redAddr 1 0).toNat 63 48) = x.gen + 1 ∧ bits (redAddr 0 1).toNat 63 48 = x.gen.toNat
        ∧ x.cntm1 < bits (redAddr 0 2).toNat 9 0 ∧ bits (redAddr 0 1).toNat 9 0 = x.cntm1 ∧ x.present.contains 1 = false ∧ x.present.contains x.next = false
        ∧ 1 ≤ x.cntm1 ∧ Memory.wf (redWin joinedState .filling 0 []).near = true) := by decide +kernel
/-- The watchdog's time in nanoseconds, and a time later by one than it. -/
def wdTime : Nat := State.reset.far.regs.wto.toNat * 1000
theorem hyp_ReductionWindows_watchdog :
    (let s := (redWin State.reset .filling 1 []).modCore (fun c => { c with gtime := w64 (wdTime + 1) })
     let x := s.far.wins[(63 : Fin 64)]
     x.st = .filling ∧ x.next = x.cntm1 ∧ s.far.regs.wto.toNat * 1000 < (s.core.gtime - x.since).toNat)
    ∧ (let s := (redWin State.reset .filling 1 []).modCore (fun c => { c with gtime := w64 wdTime })
       (s.core.gtime - (s.far.wins[(63 : Fin 64)]).since).toNat = s.far.regs.wto.toNat * 1000) := by decide +kernel

/-! ### The link -/

/-- The link is up and sends, with its fields changed. -/
def linkUp (f : Link → Link) : State :=
  (State.reset.modFarRegs (fun r => { r with en := true, lstate := .up })).modLink (fun l => f { l with snd := .send, linkup := true })
/-- A flit of a type with FSEQ 1023, no acknowledgement, VC 2. -/
def flitOf (ltype sop eop : Nat) : Flit := mkFlit ltype 1023 0 0 2 sop eop (toLE 56 0)
/-- A flit with a wrong CRC, and one that acknowledges 7. -/
def badCrc : Flit := { flitOf 1 1 1 with crc := 0 }
def ackFlit (ltype : Nat) : Flit := mkFlit ltype 0 7 1 0 0 0 (toLE 56 0)
/-- The replay buffer holds flits 7 and 8. -/
def buf78 : List (BitVec 10 × BitVec 2 × Flit) := [(7, 0, flitOf 1 1 1), (8, 0, flitOf 1 1 1)]
theorem hyp_LinkLayer :
    (State.reset.linkOn = false ∧ (linkUp id).linkOn = true ∧ (linkUp (fun l => { l with nacked := true })).linkOn = true)
    ∧ (badCrc.good = false ∧ (linkUp (fun l => { l with nacked := true })).far.link.nacked = true ∧ (linkUp id).far.link.nacked = false)
    ∧ ((flitOf 1 1 1).good = true ∧ (flitOf 1 1 1).ltype = 1 ∧ (flitOf 1 1 1).ackv = false ∧ (flitOf 1 1 1).fseq ≠ (linkUp id).far.link.erx.toNat
      ∧ (flitOf 1 1 1).fseq = (linkUp (fun l => { l with erx := 1023 })).far.link.erx.toNat ∧ (flitOf 1 1 1).vc ≠ 3 ∧ (flitOf 1 1 1).sop = true
      ∧ (flitOf 1 1 1).eop = true ∧ (linkUp (fun l => { l with erx := 1023 })).far.link.rx.getD 2 [] = [])
    ∧ ((flitOf 1 1 0).good = true ∧ (flitOf 1 1 0).fseq = 1023 ∧ (flitOf 1 1 0).sop = true ∧ (flitOf 1 1 0).eop = false)
    ∧ ((flitOf 0 0 0).good = true ∧ (flitOf 0 0 0).ltype = 0 ∧ (flitOf 2 0 0).good = true ∧ (flitOf 2 0 0).ltype = 2 ∧ (flitOf 4 0 0).good = true
      ∧ (flitOf 4 0 0).ltype = 4)
    ∧ ((ackFlit 0).good = true ∧ (ackFlit 0).ackv = true ∧ (ackFlit 0).ackseq = 7 ∧ (ackFlit 3).good = true ∧ (ackFlit 3).ltype = 3
      ∧ (linkUp (fun l => { l with buf := buf78 })).far.link.buf = buf78 ∧ (linkUp (fun l => { l with buf := buf78 })).far.link.waiting = []
      ∧ (linkUp (fun l => { l with buf := buf78 })).far.link.snd = .send)
    ∧ ((linkUp id).far.regs.lstate = .up ∧ (linkUp (fun l => { l with buf := buf78, replays := 6 })).far.link.replays < 7
      ∧ 7 ≤ (linkUp (fun l => { l with buf := buf78, replays := 7 })).far.link.replays)
    ∧ (State.reset.hw.farp = true ∧ State.reset.far.link.linkup = false ∧ State.reset.marks = [] ∧ State.reset.rel.aborted = false)
    ∧ (let s := (linkUp (fun l => { l with snd := .retrain })).modFarRegs (fun r => { r with lstate := .retrain })
       s.far.link.snd = .retrain ∧ s.far.regs.lstate = .retrain) := by decide +kernel

/-! ### Far requests as a target and as a source -/

/-- A message of the join protocol or of time. -/
def mgmtMsg (op : BitVec 6) (body : List Byte) : FarMsg := { msg0 with kind := 2, op := op, srcNode := 9, srcEp := 1, epoch := 7, body := body }
/-- FAMO of ADD.D and of a code that no far atomic has. -/
def famo (addr : Word) (attr : BitVec 8) : FarMsg := { reqOf 3 101 addr (toLE 16 5) with attr := attr }
/-- The session of node 9 is not held in this core. -/
def unheld : State := joinedState.modFar (fun f => { f with tgt := f.tgt.map (fun t => { t with held := false }) })
theorem hyp_FarTarget :
    (State.reset.far.regs.jstate ≠ .aborted ∧ joinedState.far.regs.jstate ≠ .aborted ∧ joinedState.rel.aborted = false ∧ State.reset.joined = false
      ∧ joinedState.joined = true)
    ∧ ((6 : BitVec 32) < joinedState.far.regs.epoch ∧ joinedState.far.regs.epoch < (8 : BitVec 32)
      ∧ joinedState.tgtSess { reqOf 1 101 0 [] with sess := 4 } = none)
    ∧ ((joinedState.tgtSess (reqOf 1 36 0 [])).isSome = true ∧ ∀ t ∈ joinedState.tgtSess (reqOf 1 36 0 []), t.held = true ∧ t.h.toNat - 36 = 64
      ∧ t.m.getLsbD (t.h.toNat - 100) = true ∧ t.slots.find? (fun p => p.1 == 100 % 64) = some (36, msg0))
    ∧ (∀ t ∈ joinedState.tgtSess (reqOf 1 101 0 []), t.held = true ∧ t.h.toNat < (101 : BitVec 32).toNat)
    ∧ (tgtCheck joinedState (0x1000 + 2 ^ 48) 64 false = none ∧ tgtCheck joinedState 0x1001 64 false = some 0x03
      ∧ tgtCheck joinedState 0x1000 8 true = none)
    ∧ ((amoExists 0 true && amoFar 0) = true ∧ (amoExists 31 true && amoFar 31) = false ∧ 2 ≤ joinedState.far.regs.pver.toNat
      ∧ bits (famo 0x1000 0x80).attr.toNat 4 0 = 0 ∧ (famo 0x1000 0x80).attr.getLsbD 7 = true)
    ∧ (let m := reqOf 4 101 0xFFFFF (toLE 64 0)
       bits m.addr.toNat 19 0 = 0xFFFFF ∧ (withQ joinedState (holding 1 true false) 0).qOf 0xFFFFF = some (holding 1 true false)
        ∧ (holding 1 true false).isFwd = false ∧ (holding 1 true false).rmt = true ∧ (holding 1 true false).lenOk m.body.length = true
        ∧ (holding 1 true false).used + (holding 1 true false).slots m.body.length = (holding 1 true false).size
        ∧ (fullQ false).size < (fullQ false).used + (fullQ false).slots m.body.length ∧ ({ queue0 with rmt := false } : QDesc).rmt = false)
    ∧ ((joinedState.far.tgt.find? (fun t => t.node == 9 && t.ep == 1 && t.sgen == 4)).isSome = true
      ∧ (∀ t ∈ joinedState.far.tgt, t.node = 9 ∧ t.ep = 1 → t.sgen ≠ 5) ∧ joinedState.far.tgt.length < 16384
      ∧ (joinedState.far.tgt.find? (fun t => t.num == 3)).isSome = true
      ∧ (joinedState.far.tgt.filter (fun t => t.held)).length < 256 ∧ Memory.wf joinedState.near = true
      ∧ ∀ v ∈ joinedState.far.tgt, let b := joinedState.far.regs.scb.toNat * 4096 + 8192 * v.num.toNat
          v.held = true → 24575 < b ∨ b + 6208 ≤ 24575) := by decide +kernel
/-- The near port has answered a read of an agent. -/
def answeredRead (s : State) (who : PWho) (pa n : Nat) : State :=
  s.modMs (fun m => { m with preads := [{ who := who, pa := pa, n := n, done := true, poison := false, err := false, newer := [] }] })
/-- The record of session 3 lies in lines that the L2 holds. -/
def recordHeld : State := (List.range 50).foldl (fun s i => held s (8192 * 3 / 128 + i)) unheld
theorem hyp_FarTarget_agents :
    AgentHeld (answeredRead joinedState (.target (reqOf 1 101 0x1000 [])) 0x1000 64) (.target (reqOf 1 101 0x1000 [])) 0x1000 64
    ∧ AgentHeld (held joinedState 32) (.target (famo 0x1000 0x80)) 0x1000 8
    ∧ ∀ p ∈ cutAt 128 60 (recordHeld.far.regs.scb.toNat * 4096 + 8192 * 3) 6208, AgentHeld recordHeld (.sess 3) p.1 p.2 :=
  ⟨⟨by decide +kernel, .inr ⟨by decide +kernel, by decide +kernel, .inr ⟨by decide +kernel, _, rfl, by decide +kernel⟩⟩⟩, ⟨by decide +kernel, .inl (by decide +kernel)⟩,
    fun p h => ⟨by rfl, .inl ((by decide +kernel : ∀ p ∈ cutAt 128 60 (recordHeld.far.regs.scb.toNat * 4096 + 8192 * 3) 6208,
      (recordHeld.ms.l2.find false (p.1 / 128)).isSome = true) p h)⟩⟩
theorem hyp_FarTarget_sessions :
    ((unheld.tgtSess (reqOf 1 101 0 [])).isSome = true ∧ (∀ t ∈ unheld.tgtSess (reqOf 1 101 0 []), t.held = false) ∧ unheld.joined = true)
    ∧ (∀ t ∈ joinedState.tgtSess (reqOf 7 101 0 []), t.held = true ∧ t.h.toNat < 101)
    ∧ ((∀ t ∈ unheld.far.tgt, t.held = false) ∧ (unheld.far.tgt.find? (fun t => t.num == 3)).isSome = true) := by decide +kernel

/-- A far request that awaits its answer. -/
def reqIs (owner : ReqOwner) (op : BitVec 6) (tries : Nat) (busy : Bool) : FarReq :=
  { id := 0, owner := owner, va := 0x8000000000000040, ftlb := none, fill := false,
    msg := { msg0 with op := op, dstNode := 9, dstEp := 1, srcNode := 5, sess := 3, seq := 6, epoch := 7 }, sent := true, tries := tries,
    busy := busy, done := none }
/-- A joined core with that request, and its session. -/
def asking (r : FarReq) : State :=
  joinedState.modFar (fun f => { f with reqs := [r], nextReq := 1, src := [{ node := 9, ep := 1, sgen := 2, sess := some 3, nextSeq := 7 }] })
/-- Its response. -/
def respOf (op : BitVec 6) (code : BitVec 8) : FarMsg :=
  { msg0 with kind := 1, op := op, srcNode := 9, srcEp := 1, sess := 3, seq := 6, epoch := 7, rcode := code }
/-- The state of membership. -/
def member (j : JState) : State := joinedState.modFarRegs (fun r => { r with jstate := j, auth := true })
/-- The record of a profile version, for an authority that admits version 1 and expects as many endpoints. -/
def joinState : State := (member .joined).modFarRegs (fun r => { r with rvmask := 1, jrefep := 6, jrprof := 0, jrfloor := 0 })
theorem hyp_FarSourceAndMembership_join :
    joinReason joinState (mgmtMsg 0x20 (toLE 8 1 ++ toLE 8 6)) 0 = 0x00 ∧ joinReason joinState (mgmtMsg 0x20 (toLE 8 1 ++ toLE 8 5)) 0 = 0x01
    ∧ joinReason joinState (mgmtMsg 0x20 (toLE 8 1 ++ toLE 8 6)) 9 = 0x06 := by decide +kernel
theorem hyp_FarSourceAndMembership :
    ((respOf 2 0).kind = 1 ∧ ({ respOf 2 0 with epoch := 6 } : FarMsg).epoch ≠ joinedState.far.regs.epoch)
    ∧ (∀ code ∈ [(0x0A : BitVec 8), 0, 5], (answered (asking (reqIs (.store 0) 2 0 false)) (respOf 2 code)) = some (reqIs (.store 0) 2 0 false))
    ∧ answered (asking (reqIs (.load 3 0) 1 0 false)) (respOf 1 0) = some (reqIs (.load 3 0) 1 0 false)
    ∧ (answered (asking (reqIs .sopen 6 0 false)) (respOf 6 0) = some (reqIs .sopen 6 0 false)
      ∧ (asking (reqIs .sopen 6 0 false)).far.reqs = [reqIs .sopen 6 0 false] ∧ ((asking (reqIs .sopen 6 0 false)).srcSess 9 1).isSome = true)
    ∧ (let n := joinedState.far.regs.rtry.toNat
       (∀ r ∈ [reqIs (.store 0) 2 n true, reqIs (.store 0) 2 (n - 1) false, reqIs (.store 0) 2 n false],
         (asking r).far.reqs.find? (fun q => q.id == r.id && q.sent && q.done.isNone) = some r) ∧ n - 1 < n)
    ∧ ((mgmtMsg 0x20 []).kind = 2 ∧ State.reset.far.regs.auth = false ∧ (member .joined).far.regs.auth = true)
    ∧ ((member .joining).far.regs.jstate = .joining ∧ leNat ((mgmtMsg 0x21 (toLE 8 (7 * 2 ^ 32) ++ toLE 8 9)).body.take 8) % 256 = 0
      ∧ leNat ((mgmtMsg 0x21 (toLE 16 6)).body.take 8) % 256 ≠ 0
      ∧ (member .joining).core.gtime < w64 9 + ((member .joining).core.gtime - (member .joining).far.jsent) / 2
      ∧ w64 0 + ((member .joining).core.gtime - (member .joining).far.jsent) / 2 ≤ (member .joining).core.gtime)
    ∧ (let s := (member .joining).modFar (fun f => { f with jsends := 8 })
       8 ≤ s.far.jsends)
    ∧ (let s := (member .joining).modFar (fun f => { f with jsends := 7, jmsg := some msg0 })
       s.far.jsends < 8 ∧ s.far.jmsg = some msg0)
    ∧ (let s := (asking (reqIs (.store 0) 2 0 true)).modFarRegs (fun g => { g with jstate := .joining })
       s.far.regs.jstate ≠ .joined ∧ (asking (reqIs (.store 0) 2 0 true)).far.regs.jstate = .joined
        ∧ s.far.reqs.find? (fun q => q.id == 0 && q.sent && q.done.isNone) = some (reqIs (.store 0) 2 0 true))
    ∧ (State.reset.clockOn = true ∧ (State.reset.modPwr (fun p => { p with pstate := .c3 })).clockOn = false ∧ State.reset.image.debug = false)
    ∧ (1000 < (w64 1001 + w64 0 - (0 : Word)).toInt.natAbs ∧ ¬ 1000 < (w64 1000 + w64 0 - (0 : Word)).toInt.natAbs)
    ∧ ((mgmtMsg 0x22 (toLE 16 1)).epoch = joinedState.far.regs.epoch ∧ joinedState.rel.aborted = false) := by decide +kernel

/-! ### Dependability, power, resets, management -/

/-- The state of a checkpoint of no bank and no scratchpad unit. -/
def ckState (st : CkSt) (pos : Nat) : State := joinedState.modRel (fun r => { r with ckst := st, ckpos := pos })
/-- Firefly is enabled at the last unit of the scratchpad, where an error waits. -/
def ffState (marks : List ErrMark) : State := { State.reset.modRel (fun r => { r with ffen := true, ffSp := 0xFFFF }) with marks := marks }
theorem hyp_Dependability :
    (State.reset.rel.aborted = false ∧ (State.reset.modRel (fun r => { r with aborted := true })).rel.aborted = true ∧ (State.reset.modRel (fun r => { r with ffen := false })).rel.ffen = false)
    ∧ ((ffState []).rel.ffen = true ∧ (ffState []).clockOn = true ∧ (ffState []).marks = [])
    ∧ (0x3FFFF8 % 8 = 0 ∧ 0x3FFFF8 / 64 = (ffState []).rel.ffSp.toNat ∧ (ffState [{ code := 0x07, loc := 0x3FFFF8, unc := true }]).marks
        = [{ code := 0x07, loc := 0x3FFFF8, unc := true }])
    ∧ ((ckState .copy 0).ckHold = true ∧ State.reset.ckHold = false ∧ State.reset.far.regs.jstate ≠ .joined ∧ joinedState.far.regs.jstate = .joined
      ∧ joinedState.rel.spFirst + joinedState.rel.spBytes ≤ joinedState.spadSize)
    ∧ (let s := joinedState.modRel (fun r => { r with ckoff := 1023, cklen0 := 2 })
       s.spadSize < s.rel.spFirst + s.rel.spBytes)
    ∧ ((ckState .drain 0).rel.ckst = .drain ∧ (ckState .drain 0).drained = true ∧ (ckState .drain 0).marks = [] ∧ (ckState .drain 0).farOn = true
      ∧ (ckState .drain 0).ckReqs = [] ∧ (inFlight (ckState .drain 0) (opOf 0)).drained = false)
    ∧ ((ckState .copy 0x100).rel.ckpos ≠ 0 ∧ (ckState .copy 0x100).ckTotal ≤ (ckState .copy 0x100).rel.ckpos ∧ (ckState .copy 0x100).ckReqs = [])
    ∧ ((ckState .copy 0).rel.ckpos = 0 ∧ (ckState .copy 0).ckReqs = [])
    ∧ 0x100 < ((ckState .drain 0).modRel (fun r => { r with ckbanks := 1 })).ckTotal
    ∧ (State.reset.pwr.pstate = .c0 ∧ (State.reset.modPwr (fun p => { p with pstate := .c4 })).pwr.pstate ≠ .c0
      ∧ (joinedState.modRel (fun r => { r with aborted := true })).rel.aborted = true
      ∧ (joinedState.modRel (fun r => { r with aborted := true })).ckHold = false) := by decide +kernel
theorem hyp_Dependability_fresh : FreshReqs (ckState .drain 0) ∧ FreshReqs (ckState .copy 0x100) :=
  ⟨fun _ h => (nomatch h), fun _ h => (nomatch h)⟩

/-- A supply and clock state: point, transition, hold and image set points. -/
def pwrState (point : BitVec 2) (dv : Option (BitVec 2 × DvPh)) (hold : Bool) : State :=
  ((State.reset.modPwr (fun w => { w with point := point, dv := dv, hold := hold })).modTmu (fun t => { t with gov := { t.gov with hold := hold } }))
/-- The image admits every point. -/
def allPoints (s : State) : State := { s with image := { s.image with dvfs := 0xF, vset := #v[600, 700, 800, 900] } }
theorem hyp_PowerStates_points :
    ((allPoints (pwrState 2 none false)).image.dvfs.getLsbD 3 = true ∧ (2 : BitVec 2) < 3 ∧ (1 : BitVec 2) < 2
      ∧ (allPoints (pwrState 2 none false)).tiles.tmu.gov.hold = false ∧ (allPoints (pwrState 2 none true)).tiles.tmu.gov.hold = true
      ∧ (allPoints (pwrState 2 none false)).tiles.tmu.gang.st = .own ∧ (allPoints (pwrState 2 none false)).pwr.pstate = .c0)
    ∧ (let s := (pwrState 2 (some (1, .relock)) false).modCore (fun c => { c with gtime := 80000 })
       let e := { s with telem := { s.telem with en := true } }
       s.telem.en = false ∧ e.telem.en = true ∧ e.clockOn = true ∧ e.telem.mark < (e.core.gtime + 20000).toNat / 100000)
    ∧ ((ganged 4 .master offers).tiles.tmu.gang.st = .master)
    ∧ ((pwrState 2 (some (3, .settle)) false).pwr.dv = some (3, .settle) ∧ (pwrState 2 (some (1, .relock)) false).pwr.dv = some (1, .relock))
    ∧ (passInArray (passing 1 16 8) = true ∧ passInArray (pwrState 2 (some (1, .relock)) false) = false) := by decide +kernel
/-- Strand 0 waits, so that no strand runs or is ready. -/
def quietState : State :=
  (State.reset.modRun 0 (fun r => { r with st := .stopped })).modCore (fun c => { c with cur := none })
theorem hyp_PowerStates_sleep :
    (quietState.clockOn = true ∧ (∀ k : StrandId, (quietState.str k).run.st ≠ .running ∧ (quietState.str k).run.st ≠ .ready)
      ∧ (State.reset.str 0).run.st = .running)
    ∧ ((State.reset.modPwr (fun w => { w with c2en := true })).pwr.c2en = true ∧ tmuBusy State.reset = false)
    ∧ (tmuBusy (passing 1 16 8) = true ∧ (nextStart (passing 0 16 8)).isSome = true)
    ∧ (creqRefusal joinedState = some 0x01 ∧ creqRefusal State.reset = none ∧ creqRefusal quietState = none ∧ (State.reset.str 0).run.st.quiet = false
      ∧ (∀ k : StrandId, (quietState.str k).run.st.quiet = true) ∧ quietState.queues.hot = [] ∧ quietState.pwr.pstate = .c0)
    ∧ (let s := (quietState.modPwr (fun w => { w with pstate := .c3, wkTimers := true })).modCore (fun c => { c with gtime := 9 })
       wakeDue s = false
        ∧ wakeDue { s with intu := { s.intu with armed := vupd s.intu.armed 3 (fun _ => true), tcmp := vupd s.intu.tcmp 3 (fun _ => 9) } } = true)
    ∧ ((pwrState 2 (some (3, .settle)) true).pwr.hold = true ∧ (pwrState 2 (some (3, .settle)) true).marks = []) := by decide +kernel
/-- Rails of 1000, 850 and 1800 mV, with the set points of every point. -/
def rails (s : State) : State := { allPoints s with hw := { s.hw with vsram := 850, vpll := 1800 } }
/-- Each rail at its warning threshold, one sample below it, and the recovery above it; the lower set point decides in a transition. -/
theorem hyp_PowerStates_supply :
    (let s := rails (pwrState 2 (some (3, .settle)) true)
     railSet s .core = 800 ∧ railSet s .sram = 850 ∧ railSet s .pll = 1800
      ∧ 751 * 100 < railSet s .core * 94 ∧ ¬ 752 * 100 < railSet s .core * 94 ∧ 798 * 100 < railSet s .sram * 94 ∧ ¬ 799 * 100 < railSet s .sram * 94
      ∧ ¬ railSet s .core * 94 < 752 * 100 ∧ railSet s .core * 94 < 753 * 100 ∧ railSet s .sram * 94 < 800 * 100 ∧ railSet s .pll * 94 < 1693 * 100
      ∧ s.pwr.hold = true ∧ s.pwr.pstate ≠ .c4 ∧ s.marks = [] ∧ s.pwr.point < 3
      ∧ ((State.reset.modPwr (fun w => { w with pstate := .c4 })).pwr.pstate = .c4)
      ∧ (¬ 752 * 10 < railSet s .core * 9 ∧ s.pwr.pstate ≠ .c4)
      ∧ (let up := s.modPwr (fun w => { w with mv := #v[some 753, none, some 1693] })
         up.pwr.hold = true ∧ [Rail.core, .sram, .pll].all up.railUp = true)
      ∧ (let down := s.modPwr (fun w => { w with mv := #v[some 752, none, none] })
         down.railUp .core = false ∧ down.pwr.hold = true))
    ∧ (rails (pwrState 2 none false)).pwr.dv = none ∧ (rails (pwrState 2 none false)).pwr.hold = false := by decide +kernel
/-- The tile engine is gated while a pass could start, or while the core is lent. -/
theorem hyp_PowerStates_c2 :
    (let s := (passing 0 16 8).modTmu (fun t => { t with gated := true })
     s.tiles.tmu.gated = true ∧ (nextStart s).isSome = true)
    ∧ (let s := (ganged 4 .lent offers).modTmu (fun t => { t with gated := true })
       s.tiles.tmu.gated = true ∧ s.tiles.tmu.gang.st = .lent) := by decide +kernel
/-- The newest defect record holds another way disable, the serial memory erases by 0x20. -/
def defState (f : Bool) : State :=
  { State.reset.modPwr (fun w => { w with wbfail := f, erase := some 0x20 }) with defrec := { DefRec.zero with valid := true, ways := 7, cols := defCols State.reset, counts := defCounts State.reset } }
theorem hyp_PowerStates_defects :
    (defState true).pwr.wbfail = true ∧ (defState false).pwr.wbfail = false ∧ defDiffers (defState false) = true
    ∧ defDiffers { defState false with defrec := { (defState false).defrec with ways := defWays State.reset } } = false
    ∧ moltDiffers { defState false with defrec := { (defState false).defrec with ways := defWays State.reset } } = false
    ∧ (defState false).pwr.erase.isSome = true ∧ (defState false).pwr.pstate = .c0 ∧ (defState false).pwr.bstate = 2 ∧ (defState false).serial.faults = []
    ∧ ((defState false).modPwr (fun w => { w with erase := none })).pwr.erase = none
    ∧ (let s := { defState false with serial := { Serial.zero with faults := (List.range 16).map (fun i => ((defState false).image.dmbase.toNat + 4096 * i, 2)) } }
       ∀ i ∈ List.range 16, 2 ≤ readFails s.serial (s.image.dmbase.toNat + 4096 * i)) := by decide +kernel

/-- The header of an image (Table 18-8) and its other payload. -/
def imageHeader : List Byte :=
  toLE 4 0x49435354 ++ toLE 2 9 ++ toLE 2 1 ++ toLE 4 1 ++ toLE 4 0x10000 ++ toLE 8 0x2000 ++ toLE 2 77 ++ toLE 2 0 ++ toLE 1 0xF ++ toLE 1 20
    ++ toLE 2 0 ++ toLE 2 600 ++ toLE 2 700 ++ toLE 2 800 ++ toLE 2 900 ++ toLE 8 0 ++ toLE 80 0 ++ toLE 256 0
def imagePayload : List Byte := imageHeader ++ List.replicate 3708 0
/-- A serial memory that holds that image in its one block. -/
def imageSerial : Serial :=
  { Serial.zero with flash := flashCells 0 (imagePayload ++ toLE 4 (crc32c imagePayload)) }
theorem imagePayload_length : imagePayload.length = 4092 := by
  rw [imagePayload, List.length_append, List.length_replicate]
  decide +kernel
/-- What lies in the header is read from the header. -/
theorem numAt_append (a b : List Byte) (o n : Nat) (h : o + n ≤ a.length) : numAt (a ++ b) o n = numAt a o n := by
  unfold numAt
  rw [List.drop_append_of_le_length (by omega), List.take_append_of_le_length (by simp; omega)]
/-- The outcome of a load. -/
def loads (r : Except (Nat × Nat) (Image × Bool)) : Bool :=
  match r with
  | .ok _ => true
  | _ => false
theorem loads_ok (r : Except (Nat × Nat) (Image × Bool)) (h : loads r = true) : ∃ (i : Image) (b : Bool), r = .ok (i, b) := by
  cases r with
  | error e => cases h
  | ok p => exact ⟨p.1, p.2, rfl⟩
theorem hyp_Resets_image : ∃ (i : Image) (b : Bool), loadImage State.reset.hw imageSerial = .ok (i, b) := by
  apply loads_ok
  have hr : flashRead imageSerial 0 4096 = imagePayload ++ toLE 4 (crc32c imagePayload) := by
    have := flashRead_cells imageSerial (imagePayload ++ toLE 4 (crc32c imagePayload)) rfl
    rwa [List.length_append, imagePayload_length] at this
  have hg := blockGood_crc imagePayload imagePayload_length
  have hf : imageSerial.faults = [] := rfl
  unfold loadImage imgBlockOk readFails
  rw [hr]
  dsimp only
  rw [hg, hf]
  decide +kernel
theorem hyp_Resets :
    loadImage State.reset.hw { Serial.zero with sfdp := [] } = .error (0x01, 0)
    ∧ (State.reset.pwr.pstate = .c0 ∧ State.reset.pwr.bstate = 2 ∧ State.reset.queues.hot = [] ∧ State.reset.pwr.held = none)
    ∧ ((State.reset.modPwr (fun w => { w with pstate := .c4 })).pwr.pstate = .c4 ∧ (State.reset.modPwr (fun w => { w with bstate := 3 })).pwr.bstate ≠ 2)
    ∧ (Rail.core ≠ .sram) := ⟨rfl, by decide +kernel⟩

/-- A queue table at 0x10000 whose one descriptor, of queue 5, is valid and has items, LOST and ERR. -/
def tabled : State :=
  { State.reset with
    queues := { State.reset.queues with qtb := 0x10 }
    near := Mem.putLE (Mem.putLE (Mem.putLE [] (0x10000 + 64 * 5) 8 (2 ^ 63)) (0x10000 + 64 * 5 + 28) 4 9) (0x10000 + 64 * 5 + 32) 4 0x01020300 }
theorem hyp_Resets_queues :
    (tabled.pwr.pstate = .c0 ∧ tabled.pwr.rst = none ∧ tabled.pwr.warmDue = none ∧ tabled.queues.hot = [] ∧ tabled.queues.qtb ≠ 0
      ∧ tableQueues tabled = [5] ∧ tabled.marks = [] ∧ Memory.wf tabled.near = true ∧ (qdescOf 5 (tabled.near.getN (tabled.qAddr 5) 64)).v = true)
    ∧ (let s := State.reset.modPwr (fun w => { w with bstate := 3 })
       s.pwr.bstate ≠ 2 ∧ tableQueues s = [] ∧ s.pwr.held = none)
    ∧ tableQueues State.reset = [] ∧ State.reset.pwr.rst = none
    ∧ (let s := State.reset.modPwr (fun w => { w with rst := some .job })
       s.pwr.rst = some .job ∧ ResetKind.job ≠ .debug ∧ s.pwr.rst ≠ some .cold) := by decide +kernel

/-- A warm reset is due, or the near port is not quiet. -/
theorem hyp_Resets_warm :
    (State.reset.pwr.warmDue = none ∧ nearQuiet State.reset = true)
    ∧ ((State.reset.modPwr (fun w => { w with warmDue := some 4 })).pwr.warmDue.isSome = true)
    ∧ (let s := State.reset.modMs (fun m => { m with mshr := [{ line := 0, own := false, pre := false, cpre := false, n := 1, engs := [], nodata := false, stores := [] }] })
       nearQuiet s = false ∧ s.pwr.warmDue = none ∧ s.pwr.bstate = 2 ∧ s.pwr.pstate = .c0)
    ∧ (let s := rails State.reset
       764 * 10 < railSet s .sram * 9 ∧ ¬ 765 * 10 < railSet s .sram * 9 ∧ 1619 * 10 < railSet s .pll * 9 ∧ s.pwr.pstate ≠ .c4
        ∧ s.pwr.bstate = 2 ∧ nearQuiet s = true) := by decide +kernel
/-- A held strand, and what STRDBG.SEL names. -/
def dbgState (sel : BitVec 32) (st : StState) : State :=
  { State.reset.modRun 1 (fun r => { r with st := st }) with
    strdbg := { State.reset.strdbg with sel := sel }
    image := { State.reset.image with debug := true } }
/-- Semaphore 31 is held. -/
def semState (h : Req) : State := { State.reset with mgmt := { State.reset.mgmt with sem := vupd State.reset.mgmt.sem 31 (fun _ => some h) } }
/-- Timer 3 compares with a time. -/
def timerState (armed : Bool) (c now : Word) : State :=
  { State.reset.modCore (fun x => { x with gtime := now }) with
    intu := { State.reset.intu with armed := vupd State.reset.intu.armed 3 (fun _ => armed), tcmp := vupd State.reset.intu.tcmp 3 (fun _ => c) } }
theorem hyp_RegisterBlock :
    State.reset.clockOn = true ∧ State.reset.accWaits = false
    ∧ (State.reset.modPwr (fun w => { w with rst := some .warm })).accWaits = true ∧ (∀ k : StrandId, Req.portA ≠ .strand k)
    ∧ (let s := (State.reset.modCore (fun c => { c with gtime := 100000 }))
       let e := { s with telem := { s.telem with en := true } }
       e.telem.mark < e.core.gtime.toNat / 100000 ∧ { e with telem := { e.telem with mark := 1 } }.core.gtime.toNat / 100000 ≤ 1)
    ∧ (∀ j : StrandId, (State.reset.str j).run.dbgPend = Pend.none)
    ∧ ((0x3FFFE : BitVec 18).toNat % 4 ≠ 0 ∧ 0x17 ≤ bits (0x17000 : BitVec 18).toNat 17 12)
    ∧ (State.reset.mgmt.sem.getD 31 none = none ∧ (semState .portB).mgmt.sem.getD 31 none = some .portB ∧ (1 : BitVec 32).getLsbD 0 = true
      ∧ (semState .portB).mgmt.sem.getD 31 none ≠ some (.strand 0) ∧ (0x80000000 : BitVec 32).getLsbD 31 = true)
    ∧ (State.reset.telem.en = false ∧ ({ State.reset.telem with en := true } : Telem).en = true ∧ State.reset.trace.en = false
      ∧ (let t := { State.reset.trace with en := true, kinds := 8 }
         t.en = true ∧ t.kinds.getLsbD 3 = true ∧ t.fifo.length < 256))
    ∧ ((0x7F : BitVec 8).toNat < 0x80 ∧ 0x80 ≤ (0x80 : BitVec 8).toNat)
    ∧ (State.reset.pwr.creq = none ∧ (8 : BitVec 4).getLsbD 3 = true ∧ (0 : BitVec 4).getLsbD 3 = false ∧ State.reset.core.hold.getLsbD 3 = true
      ∧ State.reset.core.hold.getLsbD 0 = false ∧ (1 : BitVec 4).getLsbD 0 = true ∧ (State.reset.str 0).run.st ≠ .stopped
      ∧ (State.reset.str 3).run.st = .stopped)
    ∧ (strdbgOpen (dbgState 0x4400001F .held) .portA = true ∧ bits (0x4400001F : BitVec 32).toNat 31 30 = (1 : StrandId).val
      ∧ bits (0x4400001F : BitVec 32).toNat 29 24 = 4 ∧ bits (0x4400001F : BitVec 32).toNat 23 0 = 31
      ∧ ((dbgState 0x4400001F .held).str 1).run.st = .held ∧ dbgRead (dbgState 0x4400001F .held) 1 4 31 = some 0
      ∧ ((dbgState 0x4400001F .ready).str 1).run.st ≠ .held)
    ∧ ((timerState true 9 8).core.gtime < (timerState true 9 8).intu.tcmp[(3 : Fin 4)] ∧ (timerState true 9 9).intu.armed[(3 : Fin 4)] = true
      ∧ (timerState true 9 9).intu.tcmp[(3 : Fin 4)] ≤ (timerState true 9 9).core.gtime ∧ (timerState false 9 9).intu.armed[(3 : Fin 4)] = false) := by decide +kernel

/-- HOLD meets a running strand with an event to take, and one without. -/
theorem hyp_RegisterBlock_hold :
    (let s := withEvents State.reset [evOf 0x30] none []
     s.core.cur = some 0 ∧ (nextEvent s 0).isSome = true ∧ (s.str 0).run.st = .running ∧ s.core.hold.getLsbD 0 = false ∧ s.pwr.creq = none)
    ∧ ¬ (State.reset.core.cur = some 0 ∧ (nextEvent State.reset 0).isSome = true) := by decide +kernel
/-- The test access port has selected a register, in a debug image or not. -/
def tapState (ir : BitVec 8) (debug : Bool) : State :=
  { State.reset with tap := { State.reset.tap with ir := ir }, image := { State.reset.image with debug := debug } }
/-- A REGACC of mailbox register 7: a write of 0xFFFFFFFF, or a read. -/
def regaccOf (w : Nat) : BitVec 51 := BitVec.ofNat 51 (w * 2 ^ 50 + 0x27 * 2 ^ 34 + 0xFFFFFFFF * 4)
theorem hyp_TestAccessPort :
    ((tapState 0xFF false).tap.ir ≠ 0x01 ∧ (tapState 0x01 false).tap.ir = 0x01 ∧ (tapState 0x12 false).tap.ir = 0x12
      ∧ (tapState 0x11 false).clockOn = true ∧ (tapState 0x11 false).pwr.warmDue = none)
    ∧ ((tapState 0x10 false).image.debug = false ∧ (tapState 0x10 true).image.debug = true ∧ (tapState 0x10 true).clockOn = true
      ∧ (tapState 0x10 true).tap.dataDone = true ∧ (tapState 0x10 true).accWaits = false
      ∧ ({ (tapState 0x10 true).tap with dataDone := false } : Tap).dataDone = false ∧ (tapState 0x11 false).pwr.rst = none
      ∧ bits (regaccOf 1).toNat 49 34 = 0x20 + (7 : Fin 8).val ∧ (regaccOf 1).getLsbD 50 = true ∧ (regaccOf 0).getLsbD 50 = false) := by decide +kernel
/-- R462: the IDCODE of stepping 1 and manufacturer 0 is 0x100E3001; UPDATE_IR selects it. -/
theorem test_idcode : holds (exec (.updateIr 1) State.reset) (fun s => holds (exec .idcode s) (fun t => t.tap.dr == 0x100E3001)) = true := by decide +kernel
/-- A write of a mailbox register through port B is read by port A. -/
theorem test_mailbox : holds (exec (.mgmtPortAccess true true 0x9C 0x12345678) State.reset) (fun s =>
    holds (exec (.mgmtPortAccess false false 0x9C 0) s) (fun t => t.mgmt.rdata == 0x12345678 && t.mgmt.lastB == false)) = true := by decide +kernel
/-- Tables 1-2 to 1-9: FEAT0 to FEAT7 of the reset build and image. -/
theorem test_feat : featOf Hw.zero (feat7Of State.reset.image) = State.reset.feat := by decide +kernel
/-- Table 8-7, rows 1 to 10: the code, the saturation and the flush of each conversion. -/
theorem test_conversions :
    (let cv := fun (f : TFmt) (c sc : Nat) (g : TFmt) => let e := tenc g (tdec f c sc).1; (e.code, e.sat, e.flush)
     [cv .f32 0x41380000 127 .f8e4, cv .f32 0x43960000 127 .f8e4, cv .f32 0x7F800000 127 .f8e4, cv .f32 0x7F800000 127 .f8e5,
      cv .f32 0x37C00000 127 .f8e5, cv .f32 0x35800000 127 .f16, cv .f32 0x387FF000 127 .f16, cv .f32 0xC3018000 127 .i8,
      cv .f8e4 0xB5 0x7D .b16, cv .f8e5 0x01 127 .f16, cv .i32 0x01000001 127 .b16])
    = [(0x5C, false, false), (0x7F, true, false), (0x7F, true, false), (0x7C, false, false), (0x02, false, false), (0, false, true),
       (0x0400, false, false), (0x80, true, false), (0xBDD0, false, false), (0, false, true), (0x4B80, false, false)] := by decide +kernel

end Sys2Proof.Tests
end

section
/-! PROOF. What a change to one strand leaves as it was. -/

namespace Sys2Proof.Machine

open Sys2Proof

/-! ### Changes to one strand -/

theorem OnlyStrand.refl (k : StrandId) (s : State) : OnlyStrand k s s := ⟨rfl, fun _ _ => rfl⟩

/-- A further change to the strand leaves everything else as it was. -/
theorem OnlyStrand.modStr {k : StrandId} {s t : State} (h : OnlyStrand k s t) (f : Strand → Strand) : OnlyStrand k s (t.modStr k f) :=
  ⟨h.1, fun j hj => (State.str_modStr_other t k j f hj).trans (h.2 j hj)⟩

/-- Changes that agree on strand k as it is are one change. -/
theorem State.modStr_congr (s : State) (k : StrandId) {f g : Strand → Strand} (h : f (s.str k) = g (s.str k)) :
    s.modStr k f = s.modStr k g := by
  have hv : vmod s.strands k f = vmod s.strands k g := congrArg (s.strands.set k · k.isLt) h
  rw [State.modStr, hv, State.modStr]

/-- A change that leaves strand k as it is changes nothing. -/
theorem State.modStr_of_fixed (s : State) (k : StrandId) (f : Strand → Strand) (h : f (s.str k) = s.str k) : s.modStr k f = s := by
  have hv : vmod s.strands k id = s.strands := Vector.set_getElem_self k.isLt
  rw [State.modStr_congr s k (g := id) h, State.modStr, hv]

end Sys2Proof.Machine
end

section
/-! PROOF. Calls and returns on the window ring (O12; R96, R97, Table 2-7), over the frame of a change to one strand. -/

namespace Sys2Proof.Machine

open Sys2Proof

/-! ### The window that a call opens -/

/-- The ring after a call: the next window current with tag y, and its l7 the return address (Table 2-7). -/
def Win.call (w : Win) (y : Lvl) (link : Word) : Win :=
  (w.push y).modSlot (w.push y).wcur (fun q => { q with l := q.l.set 7 link })

@[simp] theorem Win.call_wcur (w : Win) (y : Lvl) (link : Word) : (w.call y link).wcur = w.wcur + 1 := rfl
@[simp] theorem Win.call_resw (w : Win) (y : Lvl) (link : Word) : (w.call y link).resw = w.resw + 1 := rfl

/-- The slot that a call makes current keeps its registers but for l7. -/
@[simp] theorem Win.call_slot (w : Win) (y : Lvl) (link : Word) :
    (w.call y link).ring[w.wcur + 1] = { w.ring[w.wcur + 1] with l := w.ring[w.wcur + 1].l.set 7 link, tag := y } := by
  have hpush : (w.push y).ring[w.wcur + 1] = { w.ring[w.wcur + 1] with tag := y } := vmod_self _ _ _
  calc (w.call y link).ring[w.wcur + 1]
      = { (w.push y).ring[w.wcur + 1] with l := (w.push y).ring[w.wcur + 1].l.set 7 link } := vmod_self _ _ _
    _ = _ := by rw [hpush]

/-! ### Reads of l7, the o and the i registers -/

/-- Specifier 0x1F names l7 of the current window (Table 4-2). -/
theorem Strand.x_l7 (t : Strand) : t.x 0x1F = (t.win.ring[t.win.wcur]).l.getD 7 0 := rfl

/-- Specifiers 0x10 to 0x17 name the i registers of the next window (R48). -/
theorem Strand.x_o (t : Strand) (i : Fin 8) : t.x (BitVec.ofNat 6 (0x10 + i.val)) = (t.win.ring[t.win.wcur + 1]).i.getD i.val 0 := by
  have hi := i.isLt
  have hn : (BitVec.ofNat 6 (0x10 + i.val)).toNat = 0x10 + i.val := by rw [BitVec.toNat_ofNat]; omega
  show t.x _ = (t.win.ring[t.win.nextSlot]).i.getD i.val 0
  rw [Strand.x_of, hn, if_neg (by omega), if_neg (by omega), if_neg (by omega), if_pos (by omega), Nat.add_sub_cancel_left]

/-- Specifiers 0x20 to 0x27 name the i registers of the current window (R48). -/
theorem Strand.x_i (t : Strand) (i : Fin 8) : t.x (BitVec.ofNat 6 (0x20 + i.val)) = (t.win.ring[t.win.wcur]).i.getD i.val 0 := by
  have hi := i.isLt
  have hn : (BitVec.ofNat 6 (0x20 + i.val)).toNat = 0x20 + i.val := by rw [BitVec.toNat_ofNat]; omega
  rw [Strand.x_of, hn, if_neg (by omega), if_neg (by omega), if_neg (by omega), if_neg (by omega), if_neg (by omega),
    if_pos (by omega), Nat.add_sub_cancel_left]

/-! ### The bodies of the transfers -/

/-- A strand u that has called a target from t: the next window is current with the tag LVL and the return address in l7, and its i
registers are the o registers of t (Table 2-7). -/
def Strand.CalledFrom (t : Strand) (target : Word) (u : Strand) : Prop :=
  u.pc = target ∧ u.win.wcur = t.win.wcur + 1 ∧ u.win.resw = t.win.resw + 1
    ∧ (u.win.ring[u.win.wcur]).tag = t.status.lvl ∧ u.x 0x1F = t.pc + 4
    ∧ (∀ i : Fin 8, u.x (BitVec.ofNat 6 (0x20 + i.val)) = t.x (BitVec.ofNat 6 (0x10 + i.val)))
    ∧ u.regs = t.regs ∧ u.status = t.status ∧ u.saves = t.saves

/-- The state after a call whose window is free. -/
def callState (s : State) (k : StrandId) (target : Word) : State :=
  retireTo (s.modWin k (fun w => w.call (s.str k).status.lvl ((s.str k).pc + 4))) k target

theorem callState_onlyStrand (s : State) (k : StrandId) (target : Word) : OnlyStrand k s (callState s k target) :=
  ((OnlyStrand.refl k s).modStr _).modStr _

theorem callState_calledFrom (s : State) (k : StrandId) (target : Word) :
    (s.str k).CalledFrom target ((callState s k target).str k) := by
  rw [callState, str_retireTo_self, State.str_modWin_self]
  refine ⟨rfl, Win.call_wcur _ _ _, Win.call_resw _ _ _, congrArg Slot.tag (Win.call_slot _ _ _), ?_, fun i => ?_, rfl, rfl, rfl⟩
  · rw [Strand.x_l7]
    show (((s.str k).win.call _ _).ring[(s.str k).win.wcur + 1]).l.getD 7 0 = _
    rw [Win.call_slot]; exact (vupd_getD _ 7 7 (fun _ => (s.str k).pc + 4) 0 (by decide)).trans (if_pos rfl)
  · rw [Strand.x_i, Strand.x_o]
    show (((s.str k).win.call _ _).ring[(s.str k).win.wcur + 1]).i.getD i.val 0 = _
    rw [Win.call_slot]

/-- A call with four free windows opens the next window and goes to its target. -/
theorem finish_callTo_of_free (k : StrandId) (s : State) (target : Word) (h : 4 ≤ (s.str k).win.free) :
    finish k 4 (callTo k s target) = callState s k target := by
  rw [callTo, if_neg (Nat.not_lt.2 h)]; rfl

/-- A call with fewer overflows. -/
theorem finish_callTo_of_full (k : StrandId) (s : State) (target : Word) (h : (s.str k).win.free < 4) :
    finish k 4 (callTo k s target) = raise s k (mkEv 0x0E 0 0 .ul) := by
  rw [callTo, if_pos h]; rfl

section
variable {s : State} {k : StrandId} (h : Ready s k 4) (he : atEnd (s.str k) 4 = false)
include h he

theorem exec_call_ready (off : BitVec 26) :
    exec (.call off) s = .next (finish k 4 (callTo k s ((s.str k).pc + 4 * off.signExtend 64))) := baseCtl_ready s k _ h he

theorem exec_callr_aligned {rs1 : RSpec} {imm : BitVec 14} (hx : xOk rs1 = true)
    (ha : ((s.str k).x rs1 + imm.signExtend 64).toNat % 4 = 0) :
    exec (.callr rs1 imm) s = .next (finish k 4 (callTo k s ((s.str k).x rs1 + imm.signExtend 64))) := by
  refine (baseCtl_ready s k _ h he).trans ?_
  simp only [hx, ha, ne_eq, not_true_eq_false, if_true, if_false]

theorem exec_callr_misaligned {rs1 : RSpec} {imm : BitVec 14} (hx : xOk rs1 = true)
    (ha : ((s.str k).x rs1 + imm.signExtend 64).toNat % 4 ≠ 0) :
    exec (.callr rs1 imm) s = raises s k 0x0D ((s.str k).x rs1 + imm.signExtend 64) 0 := by
  refine (baseCtl_ready s k _ h he).trans ?_
  simp only [hx, ha, ne_eq, not_false_eq_true, if_true]; rfl

theorem exec_jmpr_misaligned {rd rs1 : RSpec} {imm : BitVec 14} (hd : xOk rd = true) (hx : xOk rs1 = true)
    (ha : ((s.str k).x rs1 + imm.signExtend 64).toNat % 4 ≠ 0) :
    exec (.jmpr rd rs1 imm) s = raises s k 0x0D ((s.str k).x rs1 + imm.signExtend 64) 0 := by
  refine (baseCtl_ready s k _ h he).trans ?_
  simp only [hd, hx, ha, Bool.and_self, ne_eq, not_false_eq_true, if_true]; rfl

theorem exec_ret_misaligned (ha : ((s.str k).x 0x1F).toNat % 4 ≠ 0) : exec .ret s = raises s k 0x0D ((s.str k).x 0x1F) 0 := by
  refine (baseCtl_ready s k _ h he).trans ?_
  simp only [ha, ne_eq, not_false_eq_true, if_true]; rfl

theorem exec_ret_underflow (ha : ((s.str k).x 0x1F).toNat % 4 = 0) (hw : (s.str k).win.resw < 2) :
    exec .ret s = raises s k 0x0F 0 0 := by
  refine (baseCtl_ready s k _ h he).trans ?_
  simp only [ha, hw, ne_eq, not_true_eq_false, if_true, if_false]; rfl

theorem exec_ret_resident (ha : ((s.str k).x 0x1F).toNat % 4 = 0) (hw : 2 ≤ (s.str k).win.resw) :
    exec .ret s = .next (retireTo (s.modWin k Win.pop) k ((s.str k).x 0x1F)) := by
  refine (baseCtl_ready s k _ h he).trans ?_
  simp only [ha, Nat.not_lt.2 hw, ne_eq, not_true_eq_false, if_false]; rfl

end

/-- Settles O12: a call's window is the one above with l7 the return address, and RET takes it away again. -/
theorem callsAndReturns : Obligations.CallsAndReturns := by
  intro s k h he
  refine ⟨fun off => ⟨fun hf => ?callFree, fun hf => ?callFull⟩,
    fun rs1 imm hx => ⟨fun ha hf => ?callrFree, fun ha hf => ?callrFull, fun ha => ?callrMisaligned⟩,
    fun rd rs1 imm hd hx ha => ?jmprMisaligned, fun ha hw => ?retResident, fun ha hw => ?retUnderflow, fun ha => ?retMisaligned⟩
  case callFree =>
    rw [exec_call_ready h he off, finish_callTo_of_free k s _ hf]
    exact ⟨_, rfl, callState_onlyStrand s k _, callState_calledFrom s k _⟩
  case callFull => rw [exec_call_ready h he off, finish_callTo_of_full k s _ hf]; rfl
  case callrFree =>
    rw [exec_callr_aligned h he hx ha, finish_callTo_of_free k s _ hf]
    exact ⟨_, rfl, callState_onlyStrand s k _, callState_calledFrom s k _⟩
  case callrFull => rw [exec_callr_aligned h he hx ha, finish_callTo_of_full k s _ hf]; rfl
  case callrMisaligned => exact exec_callr_misaligned h he hx ha
  case jmprMisaligned => exact exec_jmpr_misaligned h he hd hx ha
  case retResident =>
    refine ⟨_, exec_ret_resident h he ha hw, ((OnlyStrand.refl k s).modStr _).modStr _, ?_⟩
    rw [str_retireTo_self, State.str_modWin_self]; exact ⟨rfl, rfl, rfl, rfl, rfl, rfl⟩
  case retUnderflow => exact exec_ret_underflow h he ha hw
  case retMisaligned => exact exec_ret_misaligned h he ha

end Sys2Proof.Machine
end

section
/-! PROOF. The loop step at completion (O5; R115) and LOOP and LBRK (O13; R114, R116). -/

namespace Sys2Proof.Machine

open Sys2Proof

/-! ### The step of two loops -/

/-- A loop ends where COUNT is 1. -/
theorem Loop.count_sub_one {c : BitVec 32} : c - 1 = 0 ↔ c = 1 := by bv_omega

/-- The inner loop goes round again (R115). -/
theorem loopStep_inner_again (o i : Loop) (pc : Word) (n : Nat) (h : holdsWord pc n i.last = true) (hc : i.count - 1 ≠ 0) :
    loopStep [o, i] pc n = ([o, { i with count := i.count - 1 }], i.start) := by
  simp only [loopStep, h, if_true, if_neg hc]

/-- The inner loop ends away from END of the outer one (R115). -/
theorem loopStep_inner_ends (o i : Loop) (pc : Word) (n : Nat) (h : holdsWord pc n i.last = true) (hc : i.count - 1 = 0)
    (hl : o.last ≠ i.last) : loopStep [o, i] pc n = ([o], pc + w64 n) := by
  simp only [loopStep, h, if_true, if_pos hc, if_neg hl]

/-- Where the loops share END, the end of the inner loop is a step of the outer one (R115). -/
theorem loopStep_shared_end (o i : Loop) (pc : Word) (n : Nat) (h : holdsWord pc n i.last = true) (hc : i.count - 1 = 0)
    (hl : o.last = i.last) : loopStep [o, i] pc n = loopStep [o] pc n := by
  simp only [loopStep, h, hl, if_true, if_pos hc]

/-! ### Completion -/

/-- The loops and the PC after completion are those of the loop step. -/
theorem retire_of_loopStep {s : State} {k : StrandId} {n : Nat} {ls ms : List Loop} {pc : Word} (hl : (s.str k).loops = ls)
    (h : loopStep ls (s.str k).pc n = (ms, pc)) : ((retire s k n).str k).pc = pc ∧ ((retire s k n).str k).loops = ms := by
  rw [str_retire_self, hl, h]; exact ⟨rfl, rfl⟩

/-- Settles O5: each clause is one case of the loop step. -/
theorem completionStepsTheLoop : Obligations.CompletionStepsTheLoop := by
  intro s k n _
  refine ⟨fun h => ?noLoop, fun o h hw hc => ?again, fun o h hw hc => ?ends, fun o i h hw hc => ?innerAgain,
    fun o i h hw hc hl => ?innerEnds, fun o i h hw hc hl ho => ?sharedAgain, fun o i h hw hc hl ho => ?sharedEnds,
    fun o h hw => ?elsewhere, fun o i h hw => ?innerElsewhere, fun target => ?transfer⟩
  case noLoop => exact retire_of_loopStep h (loopStep_none _ _)
  case again => exact retire_of_loopStep h (loopStep_again o _ _ hw (mt Loop.count_sub_one.1 hc))
  case ends => exact retire_of_loopStep h (loopStep_ends o _ _ hw (Loop.count_sub_one.2 hc))
  case innerAgain => exact retire_of_loopStep h (loopStep_inner_again o i _ _ hw (mt Loop.count_sub_one.1 hc))
  case innerEnds => exact retire_of_loopStep h (loopStep_inner_ends o i _ _ hw (Loop.count_sub_one.2 hc) hl)
  case sharedAgain =>
    exact retire_of_loopStep h ((loopStep_shared_end o i _ _ hw (Loop.count_sub_one.2 hc) hl).trans
      (loopStep_again o _ _ (hl ▸ hw) (mt Loop.count_sub_one.1 ho)))
  case sharedEnds =>
    exact retire_of_loopStep h ((loopStep_shared_end o i _ _ hw (Loop.count_sub_one.2 hc) hl).trans
      (loopStep_ends o _ _ (hl ▸ hw) (Loop.count_sub_one.2 ho)))
  case elsewhere =>
    exact retire_of_loopStep rfl (h ▸ loopStep_elsewhere [o] _ _ (Nat.le_succ 1) (fun l hl => Option.mem_some.1 hl ▸ hw))
  case innerElsewhere =>
    exact retire_of_loopStep rfl (h ▸ loopStep_elsewhere [o, i] _ _ (Nat.le_refl 2) (fun l hl => Option.mem_some.1 hl ▸ hw))
  case transfer => rw [str_retireTo_self]; exact ⟨rfl, rfl⟩

/-! ### LOOP and LBRK -/

/-- The loop that LOOP starts: the words after it, to be run as often as the low half of rs1 says (R114). -/
def loopOf (t : Strand) (rs1 : RSpec) (len : BitVec 12) : Loop :=
  { start := t.pc + 4, len := len, count := (t.x rs1).extractLsb' 0 32 }

theorem loopOf_eq_setWidth (t : Strand) (rs1 : RSpec) (len : BitVec 12) :
    loopOf t rs1 len = { start := t.pc + 4, len := len, count := (t.x rs1).setWidth 32 } := by
  rw [loopOf, BitVec.setWidth_eq_extractLsb' (by decide)]

/-- What LOOP refuses: two loops active, a length of 0, and a body that a loop around it does not contain (R114). -/
def LoopBad (ls : List Loop) (l : Loop) : Prop :=
  2 ≤ ls.length ∨ l.len = 0 ∨ ∃ o ∈ ls, ¬ (o.start.toNat ≤ l.start.toNat ∧ l.last.toNat ≤ o.last.toNat)

/-- The model's test for a refused LOOP. -/
theorem loopBad_iff (ls : List Loop) (l : Loop) :
    LoopBad ls l ↔ (decide (2 ≤ ls.length) || l.len == 0 || ! ls.all (fun o => l.inside o)) = true := by
  simp only [LoopBad, Loop.inside, Bool.or_eq_true, decide_eq_true_eq, beq_iff_eq, Bool.not_eq_true', List.all_eq_false,
    Bool.and_eq_true, or_assoc]

section
variable {s : State} {k : StrandId} (h : Ready s k 4) (he : atEnd (s.str k) 4 = false)
include h he

/-- LOOP with a valid specifier: refused, skipped, or started (R114). -/
theorem exec_loopI_ready {rs1 : RSpec} (len : BitVec 12) (hx : xOk rs1 = true) :
    let l := loopOf (s.str k) rs1 len
    exec (.loopI rs1 len) s = .next (finish k 4 (
      if decide (2 ≤ (s.str k).loops.length) || l.len == 0 || ! (s.str k).loops.all (fun o => l.inside o) then illegal s
      else if l.count = 0 then .jump s (l.last + 4)
      else .done (s.modStr k (fun t => { t with loops := t.loops ++ [l] })))) := by
  intro l
  rw [show l = _ from loopOf_eq_setWidth (s.str k) rs1 len]
  refine (baseCtl_ready s k _ h he).trans ?_
  simp only [hx, Bool.not_true, Bool.false_or]

theorem exec_loopI_bad {rs1 : RSpec} {len : BitVec 12} (hx : xOk rs1 = true)
    (hb : LoopBad (s.str k).loops (loopOf (s.str k) rs1 len)) : exec (.loopI rs1 len) s = raises s k 0x01 0 0 := by
  rw [exec_loopI_ready h he len hx, if_pos ((loopBad_iff _ _).1 hb)]; rfl

theorem exec_loopI_skipped {rs1 : RSpec} {len : BitVec 12} (hx : xOk rs1 = true)
    (hb : ¬ LoopBad (s.str k).loops (loopOf (s.str k) rs1 len)) (hc : (loopOf (s.str k) rs1 len).count = 0) :
    exec (.loopI rs1 len) s = .next (retireTo s k ((loopOf (s.str k) rs1 len).last + 4)) := by
  rw [exec_loopI_ready h he len hx, if_neg (mt (loopBad_iff _ _).2 hb), if_pos hc]; rfl

theorem exec_loopI_starts {rs1 : RSpec} {len : BitVec 12} (hx : xOk rs1 = true)
    (hb : ¬ LoopBad (s.str k).loops (loopOf (s.str k) rs1 len)) (hc : (loopOf (s.str k) rs1 len).count ≠ 0) :
    exec (.loopI rs1 len) s
      = .next (retire (s.modStr k (fun t => { t with loops := t.loops ++ [loopOf (s.str k) rs1 len] })) k 4) := by
  rw [exec_loopI_ready h he len hx, if_neg (mt (loopBad_iff _ _).2 hb), if_neg hc]; rfl

/-- LBRK leaves the loops but the innermost (R116). -/
theorem exec_lbrk_ready {ls : List Loop} (hl : (s.str k).loops.dropLast = ls) :
    exec .lbrk s = .next (retire (s.modStr k (fun t => { t with loops := ls })) k 4) := by
  refine (baseCtl_ready s k _ h he).trans ?_
  subst hl
  rw [finish, State.modStr_congr s k (g := fun t => { t with loops := (s.str k).loops.dropLast }) rfl]

end

/-- Settles O13: the model's test for a refused LOOP is the statement's, and LBRK drops the last of the list of loops. -/
theorem hardwareLoops : Obligations.HardwareLoops := by
  intro s k h he
  refine ⟨fun rs1 len hx => ⟨exec_loopI_bad h he hx, exec_loopI_skipped h he hx, exec_loopI_starts h he hx⟩,
    fun hl => ?noLoop, fun o i hl => ?innerLoop, fun o hl => ?onlyLoop⟩
  case noLoop =>
    have hsame : s.modStr k (fun t => { t with loops := (s.str k).loops }) = s := State.modStr_of_fixed s k _ rfl
    rw [exec_lbrk_ready h he (ls := (s.str k).loops) (by rw [hl]; rfl), hsame]; rfl
  case innerLoop => exact exec_lbrk_ready h he (by rw [hl]; rfl)
  case onlyLoop => exact exec_lbrk_ready h he (by rw [hl]; rfl)

end Sys2Proof.Machine
end

section
/-! PROOF. The results of Table 4-5 (O8; R92, R93, R95): the value of each function of the table, and the frame of the two register
forms. -/

namespace Sys2Proof.Machine

open Sys2Proof

/-! ### Arithmetic -/

/-- A shift amount is the low six bits of rs2 (R92). -/
theorem toNat_extract_six (b : Word) : (b.extractLsb' 0 6).toNat = b.toNat % 64 := by
  rw [BitVec.extractLsb'_toNat, Nat.shiftRight_zero]

theorem b64_slt (a b : Word) : b64 (a.slt b) = if a.toInt < b.toInt then 1 else 0 := by
  simp only [b64, BitVec.slt_eq_decide, decide_eq_true_eq]

theorem b64_ult (a b : Word) : b64 (a.ult b) = if a.toNat < b.toNat then 1 else 0 := by
  simp only [b64, BitVec.ult, decide_eq_true_eq]

theorem w64_toNat (a : Word) : w64 a.toNat = a := BitVec.eq_of_toNat_eq (by rw [BitVec.toNat_ofNat, Nat.mod_eq_of_lt a.isLt])

theorem mul_eq_w64 (a b : Word) : a * b = w64 (a.toNat * b.toNat) := by
  rw [w64, BitVec.ofNat_mul, BitVec.ofNat_toNat, BitVec.ofNat_toNat, BitVec.setWidth_eq, BitVec.setWidth_eq]

theorem mulHi_eq (x y : Int) : mulHi x y = BitVec.ofInt 64 (x * y / 2 ^ 64) := rfl

theorem mulHi_natCast (m n : Nat) : mulHi m n = w64 (m * n / 2 ^ 64) := by
  rw [mulHi, w64, ← BitVec.ofInt_natCast, Int.natCast_ediv, Int.natCast_mul]; rfl

theorem minF_eq (a b : Word) : minF a b = BitVec.ofInt 64 (min a.toInt b.toInt) := by
  rw [minF, BitVec.slt_eq_decide]
  by_cases h : a.toInt < b.toInt
  · rw [if_pos (decide_eq_true h), Int.min_eq_left (Int.le_of_lt h), BitVec.ofInt_toInt]
  · rw [if_neg (mt of_decide_eq_true h), Int.min_eq_right (Int.not_lt.1 h), BitVec.ofInt_toInt]

theorem maxF_eq (a b : Word) : maxF a b = BitVec.ofInt 64 (max a.toInt b.toInt) := by
  rw [maxF, BitVec.slt_eq_decide]
  by_cases h : a.toInt < b.toInt
  · rw [if_pos (decide_eq_true h), Int.max_eq_right (Int.le_of_lt h), BitVec.ofInt_toInt]
  · rw [if_neg (mt of_decide_eq_true h), Int.max_eq_left (Int.not_lt.1 h), BitVec.ofInt_toInt]

theorem minuF_eq (a b : Word) : minuF a b = w64 (min a.toNat b.toNat) := by
  rw [minuF, BitVec.ult]
  by_cases h : a.toNat < b.toNat
  · rw [if_pos (decide_eq_true h), Nat.min_eq_left (Nat.le_of_lt h), w64_toNat]
  · rw [if_neg (mt of_decide_eq_true h), Nat.min_eq_right (Nat.not_lt.1 h), w64_toNat]

theorem maxuF_eq (a b : Word) : maxuF a b = w64 (max a.toNat b.toNat) := by
  rw [maxuF, BitVec.ult]
  by_cases h : a.toNat < b.toNat
  · rw [if_pos (decide_eq_true h), Nat.max_eq_right (Nat.le_of_lt h), w64_toNat]
  · rw [if_neg (mt of_decide_eq_true h), Nat.max_eq_left (Nat.not_lt.1 h), w64_toNat]

theorem divF_eq (a b : Word) : divF a b = if b = 0 then 0xFFFFFFFFFFFFFFFF else BitVec.ofInt 64 (a.toInt.tdiv b.toInt) := by
  have h : a.sdiv b = BitVec.ofInt 64 (a.toInt.tdiv b.toInt) := by
    apply BitVec.eq_of_toInt_eq; rw [BitVec.toInt_sdiv, BitVec.toInt_ofInt]
  rw [divF, h]; rfl

theorem divuF_eq (a b : Word) : divuF a b = if b = 0 then 0xFFFFFFFFFFFFFFFF else w64 (a.toNat / b.toNat) := by
  rw [divuF, BitVec.udiv_def]; rfl

theorem remF_eq (a b : Word) : remF a b = if b = 0 then a else BitVec.ofInt 64 (a.toInt.tmod b.toInt) := by
  rw [remF, ← BitVec.toInt_srem, BitVec.ofInt_toInt]

theorem remuF_eq (a b : Word) : remuF a b = if b = 0 then a else w64 (a.toNat % b.toNat) := by
  rw [remuF, BitVec.umod_def]

/-! ### Counts of bits -/

/-- The count of leading zeros: the highest set bit of a stands at 63 − n, or a is 0 (R92). -/
theorem clzF_spec (a : Word) :
    ∃ n : Nat, clzF a = w64 n ∧ n ≤ 64 ∧ a.toNat < 2 ^ (64 - n) ∧ (n < 64 → 2 ^ (63 - n) ≤ a.toNat) := by
  by_cases h0 : a = 0
  · exact ⟨64, by rw [clzF, if_pos h0], Nat.le_refl 64, by rw [h0]; decide, fun h => absurd h (Nat.lt_irrefl 64)⟩
  · have hpos : a.toNat ≠ 0 := fun e => h0 (BitVec.eq_of_toNat_eq e)
    have hlog : a.toNat.log2 < 64 := (Nat.log2_lt hpos).2 a.isLt
    have hup : 64 - (63 - a.toNat.log2) = a.toNat.log2 + 1 := by omega
    have hlow : 63 - (63 - a.toNat.log2) = a.toNat.log2 := by omega
    refine ⟨63 - a.toNat.log2, by rw [clzF, if_neg h0], by omega, ?_, fun _ => ?_⟩
    · rw [hup]; exact Nat.lt_log2_self
    · rw [hlow]; exact Nat.log2_self_le hpos

/-- The count of trailing zeros: the number of the lowest set bit, or 64 (R92). -/
theorem ctzF_spec (a : Word) :
    ∃ n : Nat, ctzF a = w64 n ∧ n ≤ 64 ∧ (∀ i : Nat, i < n → a.getLsbD i = false) ∧ (n < 64 → a.getLsbD n = true) := by
  refine ⟨_, rfl, ?_⟩
  cases hf : (List.range 64).find? (fun i => a.getLsbD i) with
  | none =>
    have hzero : ∀ i < 64, a.getLsbD i = false := fun i hi => by
      simpa only [Bool.not_eq_true'] using List.find?_range_eq_none.1 hf i hi
    exact ⟨Nat.le_refl 64, hzero, fun h => absurd h (Nat.lt_irrefl 64)⟩
  | some n =>
    obtain ⟨hbit, hn, hlow⟩ := List.find?_range_eq_some.1 hf
    exact ⟨Nat.le_of_lt (List.mem_range.1 hn), fun i hi => by simpa only [Bool.not_eq_true'] using hlow i hi, fun _ => hbit⟩

/-- The numbers of the elements of Fin n in their order. -/
theorem map_val_finRange (n : Nat) : (List.finRange n).map Fin.val = List.range n := by
  apply List.ext_getElem
  · rw [List.length_map, List.length_finRange, List.length_range]
  · intro i _ _
    rw [List.getElem_map, List.getElem_finRange, List.getElem_range]; rfl

/-- The count of set bits: the length of the list of their numbers (R92). -/
theorem popcF_spec (a : Word) :
    ∃ l : List (Fin 64), l.Nodup ∧ (∀ i : Fin 64, i ∈ l ↔ a.getLsbD i.val = true) ∧ popcF a = w64 l.length := by
  refine ⟨(List.finRange 64).filter (fun i => a.getLsbD i.val), (List.nodup_finRange 64).filter _, fun i => ?_, ?_⟩
  · rw [List.mem_filter]; exact and_iff_right (List.mem_finRange i)
  · rw [popcF, ← map_val_finRange, List.filter_map, List.length_map]; rfl

/-! ### Bytes -/

/-- Byte j of the number that a list of bytes spells is the list's element j. -/
theorem ofNat_leNat_div (l : List Byte) (j : Nat) : BitVec.ofNat 8 (leNat l / 256 ^ j) = l.getD j 0 := by
  induction l generalizing j with
  | nil => rw [leNat, Nat.zero_div]; rfl
  | cons b r ih =>
    cases j with
    | zero =>
      apply BitVec.eq_of_toNat_eq
      have hb := b.isLt
      rw [BitVec.toNat_ofNat, leNat, Nat.pow_zero, Nat.div_one, List.getD_cons_zero]; omega
    | succ j =>
      have hdiv : (b.toNat + 256 * leNat r) / 256 = leNat r := by have := b.isLt; omega
      rw [leNat, Nat.pow_succ', ← Nat.div_div_eq_div_mul, hdiv, ih, List.getD_cons_succ]

/-- Byte j of the word of a number. -/
theorem byteOf_w64 (n : Nat) {j : Nat} (hj : j < 8) : byteOf (w64 n) j = BitVec.ofNat 8 (n / 256 ^ j) := by
  have hpow : 256 ^ j = 2 ^ (8 * j) := by rw [Nat.pow_mul]
  apply BitVec.eq_of_getLsbD_eq
  intro i hi
  have hin : i + 8 * j < 64 := by omega
  simp only [byteOf, hpow, BitVec.getLsbD_setWidth, BitVec.getLsbD_ushiftRight, BitVec.getLsbD_ofNat, Nat.testBit_div_two_pow, hi,
    Nat.add_comm (8 * j) i, hin, decide_true, Bool.true_and]

/-- Byte j of PERMB (R95). -/
theorem byteOf_permbF (len : Nat) (a b : Word) (j : Fin 8) :
    byteOf (permbF len a b) j.val = if (byteOf b j.val).toNat < len then byteOf a (byteOf b j.val).toNat else 0 := by
  rw [permbF, byteOf_w64 _ j.isLt, ofNat_leNat_div, List.getD_eq_getElem?_getD, List.getElem?_map,
    List.getElem?_range j.isLt]; rfl

/-! ### The register forms -/

/-- A write to g0 changes nothing (R92). -/
theorem State.setX_zero (s : State) (k : StrandId) (v : Word) : s.setX k 0 v = s := State.modStr_of_fixed s k _ (Strand.setX_zero _ v)

section
variable {s : State} {k : StrandId} {rd rs1 rs2 : RSpec} (h : Ready s k 4) (hd : xOk rd = true) (h1 : xOk rs1 = true)
include h hd h1

/-- A register form of two sources gives the value of its function. -/
theorem givesX_of_alu2 (h2 : xOk rs2 = true) {i : Instr} {v : Word} (f : Word → Word → Word) (hi : exec i s = alu2 f rd rs1 rs2 s)
    (hv : f ((s.str k).x rs1) ((s.str k).x rs2) = v) : exec i s = givesX s k 4 rd v := by
  rw [hi, alu2_ready f rd rs1 rs2 s k h hd h1 h2, hv]; rfl

/-- A register form of one source gives the value of its function. -/
theorem givesX_of_alu1 {i : Instr} {v : Word} (f : Word → Word) (hi : exec i s = alu1 f rd rs1 s) (hv : f ((s.str k).x rs1) = v) :
    exec i s = givesX s k 4 rd v := by
  rw [hi, alu1_ready f rd rs1 s k h hd h1, hv]; rfl

end

/-- Settles O8: every row is a register form with the function of its row in Table 4-5. -/
theorem integerRegisterRegister : Obligations.IntegerRegisterRegister := by
  intro s k rd rs1 rs2 h hd h1 h2
  have two {i : Instr} {v : Word} : ∀ f : Word → Word → Word, exec i s = alu2 f rd rs1 rs2 s →
      f ((s.str k).x rs1) ((s.str k).x rs2) = v → exec i s = givesX s k 4 rd v := givesX_of_alu2 h hd h1 h2
  have one {i : Instr} {v : Word} : ∀ f : Word → Word, exec i s = alu1 f rd rs1 s →
      f ((s.str k).x rs1) = v → exec i s = givesX s k 4 rd v := givesX_of_alu1 h hd h1
  obtain ⟨lz, hlz, hlzSpec⟩ := clzF_spec ((s.str k).x rs1)
  obtain ⟨tz, htz, htzSpec⟩ := ctzF_spec ((s.str k).x rs1)
  obtain ⟨ones, hnodup, hmem, hones⟩ := popcF_spec ((s.str k).x rs1)
  exact ⟨two (· + ·) rfl rfl, two (· - ·) rfl rfl, two (· &&& ·) rfl rfl, two (· ||| ·) rfl rfl, two (· ^^^ ·) rfl rfl,
    two (fun a b => a &&& ~~~b) rfl rfl,
    two (fun a b => a <<< (b.toNat % 64)) rfl (by rw [toNat_extract_six]),
    two (fun a b => a >>> (b.toNat % 64)) rfl (by rw [toNat_extract_six]),
    two sraF rfl (by rw [toNat_extract_six, sraF]),
    two (fun a b => b64 (a.slt b)) rfl (b64_slt _ _), two (fun a b => b64 (a.ult b)) rfl (b64_ult _ _),
    two minF rfl (minF_eq _ _), two maxF rfl (maxF_eq _ _), two minuF rfl (minuF_eq _ _), two maxuF rfl (maxuF_eq _ _),
    two (· * ·) rfl (mul_eq_w64 _ _), two (fun a b => mulHi a.toInt b.toInt) rfl (mulHi_eq _ _),
    two (fun a b => mulHi a.toNat b.toNat) rfl (mulHi_natCast _ _), two (fun a b => mulHi a.toInt b.toNat) rfl (mulHi_eq _ _),
    two divF rfl (divF_eq _ _), two divuF rfl (divuF_eq _ _), two remF rfl (remF_eq _ _), two remuF rfl (remuF_eq _ _),
    ⟨lz, one clzF rfl hlz, hlzSpec⟩, ⟨tz, one ctzF rfl htz, htzSpec⟩, ⟨ones, hnodup, hmem, one popcF rfl hones⟩,
    fun len => ⟨_, two (permbF (len.toNat + 1)) rfl rfl, byteOf_permbF _ _ _⟩,
    State.setX_zero s k⟩

end Sys2Proof.Machine
end
